-- ==== Sys2Proof/Word.lean ====
section
/-!
DEFINITION. The plain words of the machine: bytes, 8-byte words (R10), 128-bit Koskel instruction words (R14),
binary32 and bfloat16 bit patterns (R81).
-/
namespace Sys2Proof

/-- One byte. -/
abbrev Byte := BitVec 8

/-- A word is 8 bytes (R10). -/
abbrev Word := BitVec 64

/-- A Koskel instruction word is 128 bits (R14). -/
abbrev KWord := BitVec 128

/-- The bits of a binary32 value (R81). -/
abbrev F32 := BitVec 32

/-- The bits of a bfloat16 value (R81). -/
abbrev B16 := BitVec 16

end Sys2Proof
end

