-- ==== Sys2Proof/Syntax.lean ====
section
/-!
DEFINITION. The commands the block takes: one constructor per row of spec/opcode_table.json, in the table's order. `p` is
a position's site code (R425), `k` a stream of Table 2.3, `h` a half of the whorl, `j` a job slot, `r` a submission ring,
`port` a ply port, `st` an HBM stack. What the surroundings decide (a sensor's reading, an arriving frame, a host's bytes)
is an operand.
-/
namespace Sys2Proof

/-- What one sample of the lantern reads (R375): VCORE current and VIN-side input current by position (of its phases and of its VSRAM
converter), VSRAM current by position, VIN by spire, VEDGE current by spire, the five board rails of each spire, VAON, and the two
sensor codes of each sampled site (R425 coding). -/
structure Sample where
  pos : List (Nat × Nat)
  sram : List Nat
  vin : List (Nat × Nat)
  edge : List Nat
  rails : List (List Nat)
  vaon : Nat
  temps : List (Nat × Nat × Nat)
deriving DecidableEq, Repr

/-- What the lantern reads in a background window (R380, R385, R417): droop readings of a position in units of 2.5 mV (eight of them),
static drops in excess of the predicted drop in mV, and the HBM readouts of each stack. -/
structure Background where
  droop : List (Nat × List Nat)
  drop : List (Nat × Nat)
  hbm : List (Nat × Nat × Nat)
deriving DecidableEq, Repr

/-- What a bell finds on the package that no other state holds: the two lid thermistors (R416), and by position the cycles that a droop
stretch in progress has cost since it began or since the last bell (R40). -/
structure BellIn where
  inlet : Nat
  outlet : Nat
  stretch : List (Nat × Nat)
deriving DecidableEq, Repr

/-- The header of a received frame (Table 11.2), whether the frame decodes, the TYPE of its transaction headers, and the symbols corrected
by lane. -/
structure Frame where
  decodes : Bool
  seq : Nat
  paceN : Nat
  paceLag : Nat
  paceThr : Bool
  err : Bool
  down : Bool
  mreq : Bool
  mapseq : Nat
  mapsp : Nat
  mapw : Nat
  types : List Nat
  corrected : List (Nat × Nat)
deriving DecidableEq, Repr

/-- A transaction of a partner (Table 11.3) with its payload. `src` and `tag` name the carder it comes from or answers and its
number there, `elem` is the index of an ADD's first element, `span` the bytes that a PUT writes from ADDR on, and `lat` the route latency
from the partner's spindle to its end of the link: the header has no field for them (assumption 20). -/
structure Trans where
  final : Bool
  fmt : Nat
  blen : Nat
  oslot : Nat
  count : Nat
  flag : Bool
  aux : Nat
  addr : Nat
  src : Nat
  tag : Nat
  elem : Nat
  span : Nat
  lat : Nat
  payload : List Byte
deriving DecidableEq, Repr

/-- What a power-up meets (Tables 18.4, 19.1, 19.3): VIN in its window, failed VEDGE phases by spire, a PLL without
lock, the PUF read-out, failed flash reads and writes by boot stage, failed VCORE phases, failed VSRAM converters, raw
delays that exceed their padding, positions with their two corrected ring-oscillator counts, failed stacks, the straps, the periods of
the board's reference clock that a deep sleep lasted, the rc from RESET_N or the wake to the first bell, and the raw coolant readings
taken at that bell (R416). A failed read is its stage with which read fails: in stage 2, 4, 5 and 6 the slot (in stage 5, 0 and 1 of
the lantern, 2 and 3 of the belfry), in stage 3 the sectors (0), the counter ring (1) or the margin log (2). A failed write is 3 for the
ring's reservation, 7 for the floors, 9 for the margin log. -/
structure PowerUp where
  vinOk : Bool
  edgeFail : List Nat
  pllFail : Option Nat
  pufOk : Bool
  readFail : List (Nat × Nat)
  writeFail : List Nat
  phaseFail : List (Nat × Nat)
  sramFail : List Nat
  xing : List (Nat × Nat)
  ageing : List (Nat × Nat × Nat)
  hbmFail : List Nat
  strap : Nat
  slept : Nat
  rc : Nat
  inlet : Nat
  outlet : Nat
deriving DecidableEq, Repr

/-- What the Lock step of a training finds (Table 11.1): the lanes that lock at this receiver, and those that fail at the partner's. -/
structure Locks where
  lanes : List Nat
  txFails : List Nat
deriving DecidableEq, Repr

/-- What brings the TAP to IDCODE (R514, Table 22.9): the instruction with its scan, a reset by TMS, a fall of TRST_N; or a rise of TRST_N, from
which on the TAP runs. -/
inductive TapEvent where
  | scan
  | tmsReset
  | trstLow
  | trstHigh
deriving DecidableEq, Repr

/-- A request to configuration space (R451): a read of a dword, or a write of `data` to it. -/
structure ConfigAccess where
  off : Nat
  data : Option Nat
deriving DecidableEq, Repr

/-- The commands. An operand with a default is one that a command leaves out in the ordinary case: flash that verifies, a quiet comparator. -/
inductive Instr where
  | dly (p k : Nat)
  | jump (p k : Nat)
  | loop (p k : Nat)
  | fend (p k : Nat)
  | halt (p k : Nat)
  | swait (p k : Nat)
  | swaitTimeout (p k : Nat)
  | ssig (p k : Nat)
  | ssigAct (p : Nat)
  | faultMarkerDispatch (p k : Nat)
  | treadleFetch (p : Nat)
  | fetchLineArrival (p k : Nat)
  | mload (p k : Nat)
  | mstream (p k : Nat)
  | mshape (p k : Nat)
  | msplit (p : Nat)
  | promotion (p h : Nat)
  | mdrainSetup (p k : Nat)
  | mdrainSwap (p k : Nat)
  | mdrainDrain (p k : Nat)
  | mdrainSpill (p k : Nat)
  | mdrainResume (p k : Nat)
  | dataOpStart (p h : Nat)
  | tfeed (p : Nat)
  | feedWordEnter (p port : Nat)
  | ttransTranspose (p : Nat)
  | ttransFmask (p : Nat)
  | trot (p : Nat)
  | tsample (p : Nat)
  | vopAdd (p : Nat)
  | vopMul (p : Nat)
  | vopFma (p : Nat)
  | vopScale (p : Nat)
  | vopCopy (p : Nat)
  | vopExp (p : Nat)
  | vopSilu (p : Nat)
  | smark (p : Nat)
  | vnormRms (p : Nat)
  | vnormLayer (p : Nat)
  | vsmaxScore (p : Nat)
  | vsmaxMerge (p : Nat)
  | vsmaxFinal (p : Nat)
  | vquant (p : Nat)
  | vrandDrop (p : Nat)
  | vrandBits (p : Nat)
  | voptAdam (p : Nat)
  | voptSgd (p : Nat)
  | vloss (p : Nat)
  | vcheck (p : Nat)
  | cmoveGet (p : Nat)
  | cmovePut (p : Nat)
  | cmoveAdd (p : Nat)
  | meshAdmission (p : Nat)
  | getLineArrival (p : Nat)
  | writeAckArrival (p : Nat)
  | chbmLoad (p : Nat)
  | chbmStore (p : Nat)
  | chbmStore2 (p : Nat)
  | hbmGrant (st ch : Nat)
  | hbmDataArrival (p : Nat)
  | hbmWriteCommit (p : Nat)
  | hbmTimetableCycle
  | patrolScrub (st : Nat)
  | distaffScrub (p : Nat)
  | cplyOpen (p : Nat)
  | cplySend (p : Nat)
  | cplyFree (p : Nat)
  | channelCreditTimeout (p : Nat)
  | chostGet (p : Nat)
  | chostPut (p : Nat)
  | hostTransferVisible (p : Nat)
  | hostDataLate (p : Nat)
  | hostAccessError (p : Nat)
  | chankPush (p : Nat)
  | chankPop (p : Nat)
  | hankPushTimeout (p : Nat)
  | hankPopTimeout (p : Nat)
  | hankMoverStart (p : Nat)
  | hankMoverLine (p : Nat)
  | hankSpillComplete (p : Nat)
  | hankRefillComplete (p : Nat)
  | cfeFill (p : Nat)
  | cfeTake (p : Nat)
  | cfeReadf (p : Nat)
  | cfeSet (p : Nat)
  | cfeReplyArrival (p : Nat)
  | rarm (p : Nat)
  | rclose (p : Nat)
  | rcloseConvert (p : Nat)
  | reelerArrival (p : Nat)
  | reelerTake (p : Nat)
  | feWaitServe (p : Nat)
  | feWaitExpire (p : Nat)
  | plyAdmissionWindow (port : Nat)
  | plyFrameReceive (port : Nat) (f : Frame)
  | plyPutReceive (port : Nat) (t : Trans)
  | plyGetreqReceive (port : Nat) (t : Trans)
  | plyGetrepReceive (port : Nat) (t : Trans)
  | plyAddReceive (port : Nat) (t : Trans)
  | plyCfeReceive (port : Nat) (t : Trans)
  | plyCferepReceive (port : Nat) (t : Trans)
  | plyAckReceive (port : Nat) (t : Trans)
  | plyOpenReceive (port ch : Nat) (t : Trans)
  | plyCreditReceive (port : Nat) (t : Trans)
  | laneLockLoss (port lane : Nat)
  | plyLaneMapChange (port : Nat)
  | plyNoFrameTimeout (port : Nat)
  | plyTraining (port : Nat) (signal : List Nat) (locked : Locks) (ppb rawIn rawOut cls : Nat)
  | plyTrainStepTimeout (port : Nat) (failed : List Nat := [])
  | plyRetrain (port : Nat)
  | bell (b : BellIn)
  | frameOverBudget (p k : Nat)
  | frameOverrun (p k : Nat)
  | slipLimitExceeded (b : BellIn)
  | statisticsEntry (j : Nat)
  | rebalance (j : Nat)
  | entryWrite
  | doorbellSq (r v : Nat)
  | doorbellCq (j v : Nat)
  | doorbellDeq (v : Nat)
  | descriptorFetch (err : Bool) (recErr : Bool := false)
  | nop (r : Nat)
  | jobStart (r : Nat)
  | jobStop (r : Nat)
  | copy (r : Nat)
  | snapshot (r : Nat)
  | snapshotTake (j : Nat)
  | checkpoint (r : Nat)
  | checkpointTake (j : Nat)
  | restore (r : Nat)
  | refill
  | receiptSign (flashOk : Bool := true)
  | hostCxlMemRead (off n : Nat)
  | hostCxlMemWrite (off : Nat) (data : List Byte)
  | cxlConfigRequest (req : ConfigAccess)
  | cxlSnoop (line : Nat)
  | hostLinkDown
  | hostLinkTrain (width : Nat) (fast : Bool)
  | getVersion
  | getCapabilities
  | negotiateAlgorithms
  | getDigests
  | getCertificate (slot off len : Nat)
  | challenge (slot : Nat) (nonce : List Byte)
  | getMeasurements (index slot : Nat) (nonce : List Byte)
  | spdmUnsupported (code : Nat)
  | doeDiscovery (index : Nat)
  | cdatAccess (entry : Nat)
  | getTid
  | getPldmVersion
  | getPldmTypes
  | getPldmCommands (type : Nat)
  | getPdr (handle : Nat)
  | getPdrRepositoryInfo
  | getSensorReading (sensor : Nat)
  | getStateSensorReadings (sensor : Nat)
  | setEventReceiver (addr : Nat)
  | platformEventMessage
  | registerWrite (off n v : Nat)
  | commitGo (tag : Nat)
  | rcRegisterRead (off n : Nat)
  | syncErrCapture (p : Nat)
  | blindSiteAck (site : Nat)
  | keepUpdate (flashOk : Bool) (dirOk : Bool := true)
  | keepEnrol (flashOk : Bool) (ctrOk : Bool := true)
  | keepRelease (flashOk : Bool) (ctrOk : Bool := true)
  | keepConfig (flashOk : Bool) (floorOk : Bool := true)
  | sleepRun
  | sleepLight
  | sleepDeep
  | lanternSample (s : Sample)
  | droopStretchStart (p : Nat) (readings : List Nat)
  | droopStretchEnd (p : Nat) (readings : List Nat) (lost : Nat)
  | dvfsSetpointStep (p : Nat) (readings : List Nat)
  | phaseFail (p phase : Nat)
  | vsramConverterFail (p : Nat)
  | dieEdgePhaseFail (s : Nat)
  | vinWindowTrip (s : Nat)
  | backgroundWindow (b : Background)
  | ageingMeasurement (p ro0 ro1 : Nat) (corr : Int × Int) (flashOk : Bool := true)
  | wakeRampStart (p : Nat)
  | wakeRampStep (p : Nat) (recovered : Bool) (readings : List (Nat × List Nat) := [])
  | idlePowerGate (p : Nat)
  | frameSkipEnd (p : Nat)
  | sensorExcluded (site sens : Nat)
  | blindSiteExpire (site : Nat)
  | tripComparatorFire (site : Nat)
  | hbmCattrip (st : Nat)
  | logicCheck (p k : Nat)
  | stuckEngine (p k : Nat)
  | referenceLost (src : Nat)
  | resetAssert (us : Nat) (fires : List Nat := [])
  | powerUp (e : PowerUp)
  | wakeN (us : Nat)
  | perst (level : Bool)
  | bypass (code : Nat := 0xFF)
  | idcode (ev : TapEvent := .scan)
  | samplePreload (cells : List Bool) (ser : Bool := true)
  | extest (cells : List Bool := []) (ser : Bool := true)
  | extestPulse (cells : List Bool := []) (ser : Bool := true)
  | extestTrain (cells : List Bool := []) (ser : Bool := true)
  | highz
  | clamp
  | vaonRemoval
  | memoryBitError (kind p index bit : Nat)
  | vinWithinRange
deriving DecidableEq, Repr

end Sys2Proof
end

