-- ==== Sys2Proof/Decode.lean ====
section
/-!
DEFINITION. The commands that a word spells. No row of spec/opcode_table.json gives bits (the block takes commands, and the
words of its own streams are data of the distaff that TREADLE_FETCH and FETCH_LINE_ARRIVAL read), so no word spells one.
-/
namespace Sys2Proof

/-- The command that a word spells by the table's bits: none, since the table gives no row any bits. -/
def decodeTableWord (_nbits _w : Nat) : Option Instr := none

end Sys2Proof
end

