-- ==== Sys2Proof/Config.lean ====
section
/-!
DEFINITION. What one part or one moment fixes and the manual does not: the free values. Each is a constant without a
body, so nothing in Lean can evaluate it and a claim that mentions one holds whatever it is.
-/
namespace Sys2Proof.Config

/-- The byte a cell holds where the manual says its value is unspecified (R50, R243, R365): applied to the number of
the draw that State counts. Assumption 3. -/
opaque freeByte : Nat → Byte

/-- A bobbin total of a partition that became undefined (R134): applied to the draw's number and to the element's
place. Assumption 3. -/
opaque freeTotal : Nat → Nat → BitVec 128

/-- The 512-bit seed that the keep reconstructs from the SRAM-PUF and the helper data of the flash's directory (R427, Table 18.2): it is the
device's own, no rule gives its value, and the helper data are written at manufacture only. Assumption 4. -/
opaque pufSeed : BitVec 512

/-- The bytes of the body of an answer whose content belongs to another standard and that the manual does not give
(a platform descriptor record, a certificate, a CXL register): applied to what was asked. Assumption 5. -/
opaque foreignByte : Nat → Nat → Byte

/-- A longer part of such an answer (a platform descriptor record, a PLDM version), by what it is and what was asked. Assumption 5. -/
opaque foreignData : Nat → Nat → List Byte

/-- The region of the flash with the device identity certificate and the vendor certificate chain (Table 18.2), written at manufacture only, as
a function of the identity key that it certifies. Assumption 41. -/
opaque identityChain : BitVec 1056 → List Byte

/-- The part of an attestation key's certificate that its signature covers, by the key (R426, Table 18.1). Assumption 41. -/
opaque akTbs : BitVec 1056 → List Byte

/-- The public key of a vendor signer, from the certificate chain a record carries; none where the chain does not lead to the root
that the ROM names (R432). Assumption 41. -/
opaque vendorKey : List Byte → Option (BitVec 1056)

/-- The bytes an SPDM signature covers, by the requester's nonce and the response up to the signature: the requester's messages are not among
the operands (R370). Assumption 41. -/
opaque transcript : List Byte → List Byte → List Byte

/-- The silicon stepping that BEL_ID reports (R499): fixed per stepping, and the manual names none. Assumption 3. -/
opaque stepping : BitVec 4

/-- The raw delay that calibration measured at a crossing that did not fail, by its table index (R43, Table 1.3): the part's
own; the register shows it no longer than the padded latency. Assumption 3. -/
opaque rawDelay : Nat → Nat

/-- The padded bell distribution delay in rc (Table 1.2 gives it as fixed, and equal everywhere, without its value), and
the padded latencies that Table 1.2 does not state, by kind of crossing. Assumption 3. -/
opaque padding : Nat → Nat

/-- The bytes that a frame carries beside what its transactions name: the rest of a line that a PUT writes in part, and unused payload, by
their place. Assumption 36. -/
opaque framePad : Nat → Byte

end Sys2Proof.Config
end

