-- ==== Sys2Proof/Machine/Bits.lean ====
section
/-!
DEFINITION. Bit fields, little-endian bytes (R10), sign extension and list helpers that the other files of Machine use.
-/
namespace Sys2Proof.Machine

/-- Field [hi:lo] of a number, bit 0 the least significant (R10). -/
def fldN (w hi lo : Nat) : Nat := (w >>> lo) % 2 ^ (hi + 1 - lo)

/-- Field [hi:lo] of an instruction word (R14). -/
def fld (w : KWord) (hi lo : Nat) : Nat := fldN w.toNat hi lo

/-- One bit of an instruction word as a truth value. -/
def bitOf (w : KWord) (i : Nat) : Bool := w.toNat.testBit i

/-- `v` placed at bit `lo`. -/
def put (v lo : Nat) : Nat := v <<< lo

/-- A Boolean as a bit. -/
def b2n (b : Bool) : Nat := if b then 1 else 0

/-- The two's-complement reading of an n-bit number. -/
def signedN (bits v : Nat) : Int := if v < 2 ^ (bits - 1) then (v : Int) else (v : Int) - (2 ^ bits : Nat)

/-- The n-bit two's-complement code of an integer. -/
def unsignedN (bits : Nat) (v : Int) : Nat := (v % ((2 ^ bits : Nat) : Int)).toNat

/-- True when every bit of `w` outside the listed [hi:lo] ranges is 0: the reserved-bit test of R68. -/
def reservedClear (w : KWord) (used : List (Nat × Nat)) : Bool :=
  w.toNat &&& (2 ^ 128 - 1 - used.foldl (fun m r => m ||| ((2 ^ (r.1 + 1 - r.2) - 1) <<< r.2)) 0) == 0

/-- The reserved-bit test on a record held as a number of `bits` bits. -/
def reservedClearN (bits w : Nat) (used : List (Nat × Nat)) : Bool :=
  w &&& (2 ^ bits - 1 - used.foldl (fun m r => m ||| ((2 ^ (r.1 + 1 - r.2) - 1) <<< r.2)) 0) == 0

/-- Ceiling division; a zero divisor gives 0, as Nat division does. -/
def cdiv (a b : Nat) : Nat := (a + b - 1) / b

/-- Little-endian bytes to a number (R10). -/
def leNat : List Byte → Nat
  | [] => 0
  | b :: bs => b.toNat + 256 * leNat bs

/-- A number as `n` little-endian bytes (R10). -/
def leBytes : Nat → Nat → List Byte
  | 0, _ => []
  | n + 1, v => BitVec.ofNat 8 v :: leBytes n (v / 256)

/-- A number as `n` big-endian bytes. -/
def beBytes (n v : Nat) : List Byte := (leBytes n v).reverse

/-- Big-endian bytes to a number. -/
def beNat (l : List Byte) : Nat := leNat l.reverse

/-- Replace element `i` of a list by its image; a list too short is unchanged. -/
def modAt {α : Type} : List α → Nat → (α → α) → List α
  | [], _, _ => []
  | a :: as, 0, f => f a :: as
  | a :: as, i + 1, f => a :: modAt as i f

/-- The 32-bit saturating counters (Table 3.12 and its like). -/
def sat32 (c n : Nat) : Nat := min (c + n) 0xFFFF_FFFF

/-- The number of bits set among the first n. -/
def popN (n m : Nat) : Nat := ((List.range n).filter m.testBit).length

/-- Insert into a strictly rising list of numbers. -/
def insNat (n : Nat) : List Nat → List Nat
  | [] => [n]
  | m :: ms => if n < m then n :: m :: ms else if n = m then m :: ms else m :: insNat n ms

/-- Remove from a list of numbers. -/
def delNat (n : Nat) (l : List Nat) : List Nat := l.filter (fun m => m != n)

/-- Set key `k` to `v` in a list of pairs with strictly rising keys. -/
def insKey {α : Type} (k : Nat) (v : α) : List (Nat × α) → List (Nat × α)
  | [] => [(k, v)]
  | (m, w) :: ms => if k < m then (k, v) :: (m, w) :: ms else if k = m then (k, v) :: ms else (m, w) :: insKey k v ms

/-- Look a key up. -/
def getKey {α : Type} (k : Nat) (l : List (Nat × α)) : Option α := (l.find? (fun x => x.1 == k)).map (·.2)

/-- Drop a key. -/
def delKey {α : Type} (k : Nat) (l : List (Nat × α)) : List (Nat × α) := l.filter (fun x => x.1 != k)

/-- A bit of the mask under a key flips; a mask of zero is not listed. -/
def flipKey (k bit : Nat) (l : List (Nat × Nat)) : List (Nat × Nat) :=
  let m := ((getKey k l).getD 0) ^^^ 2 ^ bit
  if m = 0 then delKey k l else insKey k m l

/-- Take the first element that satisfies `f` out of a list. -/
def pluck {α : Type} (f : α → Bool) : List α → Option (α × List α)
  | [] => none
  | a :: as => if f a then some (a, as) else (pluck f as).map (fun r => (r.1, a :: r.2))

/-- Take the element with the least `key` among those that satisfy `f` out of a list; the first of equals. -/
def pluckMin {α : Type} (f : α → Bool) (key : α → Nat) (l : List α) : Option (α × List α) :=
  match (l.filter f).map key |>.min? with
  | none => none
  | some m => pluck (fun a => f a && key a == m) l

/-- The ranges [a, a+n) and [b, b+m) share a byte. -/
def overlaps (a n b m : Nat) : Bool := decide (max a b < min (a + n) (b + m))

end Sys2Proof.Machine
end

