-- ==== Sys2Proof/Machine/Crypto.lean ====
section
/-!
DEFINITION. The cryptography that the keep's rules name: SHA-512, HMAC-SHA-512, ECDSA on P-521 and the deterministic nonces of
RFC 6979 (R426, R427). The manual names these functions by their standards; their bodies are PRESUMED from the standards
(assumption 42).
-/
namespace Sys2Proof.Machine

/-- The first 40 round constants of SHA-512. -/
def shaKa : List Nat :=
  [0x428A2F98D728AE22, 0x7137449123EF65CD, 0xB5C0FBCFEC4D3B2F, 0xE9B5DBA58189DBBC,
   0x3956C25BF348B538, 0x59F111F1B605D019, 0x923F82A4AF194F9B, 0xAB1C5ED5DA6D8118,
   0xD807AA98A3030242, 0x12835B0145706FBE, 0x243185BE4EE4B28C, 0x550C7DC3D5FFB4E2,
   0x72BE5D74F27B896F, 0x80DEB1FE3B1696B1, 0x9BDC06A725C71235, 0xC19BF174CF692694,
   0xE49B69C19EF14AD2, 0xEFBE4786384F25E3, 0x0FC19DC68B8CD5B5, 0x240CA1CC77AC9C65,
   0x2DE92C6F592B0275, 0x4A7484AA6EA6E483, 0x5CB0A9DCBD41FBD4, 0x76F988DA831153B5,
   0x983E5152EE66DFAB, 0xA831C66D2DB43210, 0xB00327C898FB213F, 0xBF597FC7BEEF0EE4,
   0xC6E00BF33DA88FC2, 0xD5A79147930AA725, 0x06CA6351E003826F, 0x142929670A0E6E70,
   0x27B70A8546D22FFC, 0x2E1B21385C26C926, 0x4D2C6DFC5AC42AED, 0x53380D139D95B3DF,
   0x650A73548BAF63DE, 0x766A0ABB3C77B2A8, 0x81C2C92E47EDAEE6, 0x92722C851482353B]

/-- The last 40 round constants. -/
def shaKb : List Nat :=
  [0xA2BFE8A14CF10364, 0xA81A664BBC423001, 0xC24B8B70D0F89791, 0xC76C51A30654BE30,
   0xD192E819D6EF5218, 0xD69906245565A910, 0xF40E35855771202A, 0x106AA07032BBD1B8,
   0x19A4C116B8D2D0C8, 0x1E376C085141AB53, 0x2748774CDF8EEB99, 0x34B0BCB5E19B48A8,
   0x391C0CB3C5C95A63, 0x4ED8AA4AE3418ACB, 0x5B9CCA4F7763E373, 0x682E6FF3D6B2B8A3,
   0x748F82EE5DEFB2FC, 0x78A5636F43172F60, 0x84C87814A1F0AB72, 0x8CC702081A6439EC,
   0x90BEFFFA23631E28, 0xA4506CEBDE82BDE9, 0xBEF9A3F7B2C67915, 0xC67178F2E372532B,
   0xCA273ECEEA26619C, 0xD186B8C721C0C207, 0xEADA7DD6CDE0EB1E, 0xF57D4F7FEE6ED178,
   0x06F067AA72176FBA, 0x0A637DC5A2C898A6, 0x113F9804BEF90DAE, 0x1B710B35131C471B,
   0x28DB77F523047D84, 0x32CAAB7B40C72493, 0x3C9EBE0A15C9BEBC, 0x431D67C49C100D4C,
   0x4CC5D4BECB3E42B6, 0x597F299CFC657E2A, 0x5FCB6FAB3AD6FAEC, 0x6C44198C4A475817]

/-- The initial hash value. -/
def shaH : List Nat :=
  [0x6A09E667F3BCC908, 0xBB67AE8584CAA73B, 0x3C6EF372FE94F82B, 0xA54FF53A5F1D36F1,
   0x510E527FADE682D1, 0x9B05688C2B3E6C1F, 0x1F83D9ABFB41BD6B, 0x5BE0CD19137E2179]

/-- A 64-bit word rotated right. -/
def ror (x : BitVec 64) (n : Nat) : BitVec 64 := x.rotateRight n

/-- The eight working words. -/
structure ShaState where
  a : BitVec 64
  b : BitVec 64
  c : BitVec 64
  d : BitVec 64
  e : BitVec 64
  f : BitVec 64
  g : BitVec 64
  h : BitVec 64
deriving DecidableEq, Repr

/-- The schedule is kept as its last sixteen words, the oldest first; the next word. -/
def shaNext (w : List (BitVec 64)) : BitVec 64 :=
  let x (i : Nat) := w.getD i 0#64
  let s0 := ror (x 1) 1 ^^^ ror (x 1) 8 ^^^ (x 1 >>> 7)
  let s1 := ror (x 14) 19 ^^^ ror (x 14) 61 ^^^ (x 14 >>> 6)
  x 0 + s0 + x 9 + s1

/-- One round with its constant. -/
def shaRound (k : Nat) (s : ShaState) (w : BitVec 64) : ShaState :=
  let s1 := ror s.e 14 ^^^ ror s.e 18 ^^^ ror s.e 41
  let ch := (s.e &&& s.f) ^^^ (~~~ s.e &&& s.g)
  let t1 := s.h + s1 + ch + BitVec.ofNat 64 k + w
  let s0 := ror s.a 28 ^^^ ror s.a 34 ^^^ ror s.a 39
  let mj := (s.a &&& s.b) ^^^ (s.a &&& s.c) ^^^ (s.b &&& s.c)
  { a := t1 + (s0 + mj), b := s.a, c := s.b, d := s.c, e := s.d + t1, f := s.e, g := s.f, h := s.g }

/-- The rounds of a block. -/
def shaRounds : List Nat → List (BitVec 64) → ShaState → ShaState
  | [], _, s => s
  | k :: ks, w, s => shaRounds ks (w.tail ++ [shaNext w]) (shaRound k s (w.getD 0 0#64))

/-- One block of 128 bytes. -/
def shaBlock (s : ShaState) (bs : List Byte) : ShaState :=
  let w := (List.range 16).map fun i => BitVec.ofNat 64 (beNat ((bs.drop (8 * i)).take 8))
  let t := shaRounds (shaKa ++ shaKb) w s
  { a := s.a + t.a, b := s.b + t.b, c := s.c + t.c, d := s.d + t.d, e := s.e + t.e, f := s.f + t.f, g := s.g + t.g, h := s.h + t.h }

/-- The blocks of a padded message. -/
def shaBlocks : Nat → List Byte → ShaState → ShaState
  | 0, _, s => s
  | n + 1, bs, s => shaBlocks n (bs.drop 128) (shaBlock s (bs.take 128))

/-- SHA-512 of a byte string, as 64 bytes. -/
def sha512 (m : List Byte) : List Byte :=
  let n := m.length
  let pad := (239 - n % 128) % 128
  let bs := m ++ [0x80#8] ++ List.replicate pad 0#8 ++ beBytes 16 (8 * n)
  let i (k : Nat) : BitVec 64 := BitVec.ofNat 64 (shaH.getD k 0)
  let s := shaBlocks (bs.length / 128) bs { a := i 0, b := i 1, c := i 2, d := i 3, e := i 4, f := i 5, g := i 6, h := i 7 }
  [s.a, s.b, s.c, s.d, s.e, s.f, s.g, s.h].flatMap fun w => beBytes 8 w.toNat

/-- A digest as a number. -/
def digest (m : List Byte) : BitVec 512 := BitVec.ofNat 512 (beNat (sha512 m))

/-- HMAC-SHA-512. -/
def hmac512 (key m : List Byte) : List Byte :=
  let k := if key.length > 128 then sha512 key else key
  let k := k ++ List.replicate (128 - k.length) 0#8
  sha512 (k.map (· ^^^ 0x5C#8) ++ sha512 (k.map (· ^^^ 0x36#8) ++ m))

/-! P-521 -/

/-- The field. -/
def pField : Nat := 2 ^ 521 - 1
/-- The group order. -/
def pOrder : Nat :=
  0x1FFFFFFFFFFFFFFFFFFFFFFFFFFFFFFFFFFFFFFFFFFFFFFFFFFFFFFFFFFFFFFFFFA51868783BF2F966B7FCC0148F709A5D03BB5C9B8899C47AEBB6FB71E91386409
/-- The constant of the curve. -/
def pB : Nat :=
  0x51953EB9618E1C9A1F929A21A0B68540EEA2DA725B99B315F3B8B489918EF109E156193951EC7E937B1652C0BD3BB1BF073573DF883D2C34F1EF451FD46B503F00
/-- The base point. -/
def pG : Nat × Nat :=
  (0xC6858E06B70404E9CD9E3ECB662395B4429C648139053FB521F828AF606B4D3DBAA14B5E77EFE75928FE1DC127A2FFA8DE3348B3C1856A429BF97E7E31C2E5BD66,
   0x11839296A789A3BC0045C8A5FB42C7D1BD998F54449579B446817AFBD17273E662C97EE72995EF42640C550B9013FAD0761353C7086A272C24088BE94769FD16650)

/-- b^e mod m by the low `fuel` bits of e. -/
def powMod (m : Nat) : Nat → Nat → Nat → Nat
  | 0, _, _ => 1 % m
  | k + 1, b, e => if e = 0 then 1 % m else (if e % 2 = 1 then b * powMod m k (b * b % m) (e / 2) % m else powMod m k (b * b % m) (e / 2))

/-- Inverse modulo a prime of at most 521 bits. -/
def invMod (m a : Nat) : Nat := powMod m 521 (a % m) (m - 2)

/-- Difference modulo m. -/
def subMod (m a b : Nat) : Nat := (a % m + (m - b % m)) % m

/-- Sum of two points; none is the point at infinity. -/
def ptAdd : Option (Nat × Nat) → Option (Nat × Nat) → Option (Nat × Nat)
  | none, q => q
  | p, none => p
  | some (x1, y1), some (x2, y2) =>
    if x1 = x2 ∧ (y1 + y2) % pField = 0 then none
    else
      let l := if x1 = x2 then subMod pField (3 * x1 * x1) 3 * invMod pField (2 * y1) % pField
        else subMod pField y2 y1 * invMod pField (subMod pField x2 x1) % pField
      let x := subMod pField (l * l) (x1 + x2)
      some (x, subMod pField (l * subMod pField x1 x) y1)

/-- k times a point, by the low `fuel` bits of k. -/
def ptMul : Nat → Nat → Option (Nat × Nat) → Option (Nat × Nat)
  | 0, _, _ => none
  | f + 1, k, p => if k = 0 then none else
      let r := ptMul f (k / 2) (ptAdd p p)
      if k % 2 = 1 then ptAdd p r else r

/-- Public key of a private key, as x then y, 66 bytes each, big-endian. -/
def publicKey (d : Nat) : BitVec 1056 :=
  match ptMul 521 d (some pG) with
  | some (x, y) => BitVec.ofNat 1056 (x * 2 ^ 528 + y)
  | none => 0#1056

/-- The 132 bytes of a public key. -/
def keyBytes (k : BitVec 1056) : List Byte := beBytes 132 k.toNat

/-! RFC 6979 and ECDSA -/

/-- One candidate nonce from K and V, and the next V. -/
def rfcCandidate (k v : List Byte) : Nat × List Byte :=
  let v1 := hmac512 k v
  let v2 := hmac512 k v1
  (beNat (v1 ++ v2) / 2 ^ 503, v2)

/-- The signature with the first nonce that serves. -/
def rfcSign (d z : Nat) : Nat → List Byte → List Byte → Nat × Nat
  | 0, _, _ => (0, 0)
  | f + 1, k, v =>
    let c := rfcCandidate k v
    let again := let k' := hmac512 k (c.2 ++ [0#8]); rfcSign d z f k' (hmac512 k' c.2)
    if c.1 = 0 ∨ pOrder ≤ c.1 then again
    else
      match ptMul 521 c.1 (some pG) with
      | none => again
      | some (x, _) =>
        let r := x % pOrder
        let s := invMod pOrder c.1 * ((z + r * d) % pOrder) % pOrder
        if r = 0 ∨ s = 0 then again else (r, s)

/-- ECDSA signature of a message with private key d (R426): r and s. -/
def ecdsaSign (d : Nat) (m : List Byte) : Nat × Nat :=
  let h := sha512 m
  let z := beNat h
  let t := beBytes 66 d ++ beBytes 66 (z % pOrder)
  let v0 := List.replicate 64 1#8
  let k1 := hmac512 (List.replicate 64 0#8) (v0 ++ [0#8] ++ t)
  let v1 := hmac512 k1 v0
  let k2 := hmac512 k1 (v1 ++ [1#8] ++ t)
  rfcSign d z 64 k2 (hmac512 k2 v1)

/-- A signature as 132 bytes: r, then s, big-endian. -/
def sigBytes (x : Nat × Nat) : List Byte := beBytes 66 x.1 ++ beBytes 66 x.2

/-- A public key that names a point of the curve. -/
def onCurve (x y : Nat) : Bool :=
  decide (x < pField) && decide (y < pField) && y * y % pField == subMod pField (x * x * x + pB) (3 * x)

/-- ECDSA verification of a signature over a message. -/
def ecdsaVerify (key : BitVec 1056) (m : List Byte) (r s : Nat) : Bool :=
  let x := key.toNat / 2 ^ 528
  let y := key.toNat % 2 ^ 528
  if !onCurve x y || r == 0 || s == 0 || decide (pOrder ≤ r) || decide (pOrder ≤ s) then false
  else
    let z := beNat (sha512 m)
    let w := invMod pOrder s
    match ptAdd (ptMul 521 (z * w % pOrder) (some pG)) (ptMul 521 (r * w % pOrder) (some (x, y))) with
    | some (u, _) => u % pOrder == r
    | none => false

/-! Keys of the keep (R427) -/

/-- ASCII bytes of a label. -/
def ascii (l : List Nat) : List Byte := l.map (BitVec.ofNat 8)

/-- derive(seed, label, v). -/
def derive (seed : List Byte) (label : List Nat) (v : Nat) : Nat :=
  let t (i : Nat) := hmac512 seed (ascii label ++ leBytes 4 v ++ [BitVec.ofNat 8 i])
  beNat (t 1 ++ t 2) % (pOrder - 1) + 1

/-- The seed as bytes. -/
def seedBytes : List Byte := beBytes 64 Config.pufSeed.toNat

/-- DIK, AK of a keep SVN, and NK. -/
def dikOf : Nat := derive seedBytes [0x44, 0x49, 0x4B] 0
def akOf (svn : Nat) : Nat := derive seedBytes [0x41, 0x4B] svn
def nkOf : List Byte := hmac512 seedBytes (ascii [0x4E, 0x4F, 0x4E, 0x43, 0x45])

end Sys2Proof.Machine
end

