-- ==== Sys2Proof/Machine/Gen.lean ====
section
/-!
DEFINITION. The counter generator (R215, R216) and the draws made from it (R98, R217).
-/
namespace Sys2Proof.Machine

/-- Rotate a 32-bit word left (R215). -/
def rotl32 (x : BitVec 32) (n : Nat) : BitVec 32 := x.rotateLeft n

/-- The rotation constants of Table 7.8, one pair per round. -/
def genRot : List (Nat × Nat) :=
  [(16, 24), (12, 4), (8, 20), (24, 12), (20, 8), (4, 28), (28, 16), (12, 20), (16, 4), (8, 12)]

/-- The four words the generator works on. -/
structure GenWords where
  a : BitVec 32
  b : BitVec 32
  c : BitVec 32
  d : BitVec 32
deriving DecidableEq, Repr

/-- Key word k[s mod 3] of R215. -/
def genKey (key : BitVec 64) (s : Nat) : BitVec 32 :=
  let k0 := key.extractLsb' 0 32
  let k1 := key.extractLsb' 32 32
  match s % 3 with
  | 0 => k0
  | 1 => k1
  | _ => k0 ^^^ k1 ^^^ 0x9E37_79B9#32

/-- inject(s) of R215. -/
def genInject (key : BitVec 64) (s : Nat) (x : GenWords) : GenWords :=
  { a := x.a + genKey key s, b := x.b + genKey key (s + 1), c := x.c + genKey key (s + 2), d := x.d + BitVec.ofNat 32 s }

/-- One round of R215: mix, exchange, and inject after every odd round. -/
def genRound (key : BitVec 64) (r : Nat) (rot : Nat × Nat) (x : GenWords) : GenWords :=
  let a := x.a + x.b
  let b := rotl32 x.b rot.1 ^^^ a
  let c := x.c + x.d
  let d := rotl32 x.d rot.2 ^^^ c
  let y : GenWords := { a := a, b := d, c := c, d := b }
  if r % 2 = 1 then genInject key ((r + 1) / 2) y else y

/-- The rounds from round `r` on. -/
def genRounds (key : BitVec 64) : Nat → List (Nat × Nat) → GenWords → GenWords
  | _, [], x => x
  | r, rot :: rots, x => genRounds key (r + 1) rots (genRound key r rot x)

/-- The generator: a 64-bit key and a 128-bit counter to a 128-bit output (R215). -/
def genBlock (key : BitVec 64) (ctr : BitVec 128) : BitVec 128 :=
  let x : GenWords :=
    { a := ctr.extractLsb' 0 32, b := ctr.extractLsb' 32 32, c := ctr.extractLsb' 64 32, d := ctr.extractLsb' 96 32 }
  let y := genRounds key 0 genRot (genInject key 0 x)
  (y.d ++ y.c ++ y.b ++ y.a)

/-- The counter of Table 7.9 from its fields. -/
def genCtr (tensor step strm pos : Nat) : BitVec 128 :=
  BitVec.ofNat 128 (pos % 2 ^ 48 + (strm % 2 ^ 24) * 2 ^ 48 + (step % 2 ^ 40) * 2 ^ 72 + (tensor % 2 ^ 16) * 2 ^ 112)

/-- The generator's output for a job key and counter fields, as a number. -/
def genAt (key : BitVec 64) (tensor step strm pos : Nat) : Nat := (genBlock key (genCtr tensor step strm pos)).toNat

/-- The random value U of R98 for element `pos` of tensor `tid`: bits [15:0]. -/
def drawSr (key : BitVec 64) (tid step pos : Nat) : Nat := genAt key tid step 0xFF_FFF0 pos % 65536

/-- The random value u of R149 for a promotion. -/
def drawPromote (key : BitVec 64) (ltag step pos : Nat) : Nat := genAt key ltag step 0xFF_FFF1 pos % 65536

/-- The sign bit sgn(p) of R168. -/
def drawSign (key : BitVec 64) (rid sstep p : Nat) : Bool := genAt key rid sstep 0xFF_FFF2 p % 2 == 1

/-- The VRAND draw of index d (R217): the 16-bit part d mod 8 of the output block at element position d div 8. -/
def drawAt (key : BitVec 64) (tid step strm d : Nat) : Nat :=
  (genAt key tid step strm (d / 8) >>> (16 * (d % 8))) % 65536

end Sys2Proof.Machine
end

