-- ==== Sys2Proof/Machine/Num.lean ====
section
/-!
DEFINITION. Exact binary arithmetic and its roundings: binary32 and bfloat16 (R81, R82, R96), the flyer's functions
rounded once (R518). A value is read exactly, computed exactly, and rounded explicitly at the end.
-/
namespace Sys2Proof.Machine

/-- A floating value read from its bits: NaN, a signed infinity, or (-1)^neg × m × 2^e exactly. -/
inductive Fv where
  | nan
  | inf (neg : Bool)
  | fin (neg : Bool) (m : Nat) (e : Int)
deriving DecidableEq, Repr

/-- Reads a binary value with `p` significand bits, whose smallest subnormal is 2^emin and whose exponent field has 8
bits (binary32: 24, -149; bfloat16: 8, -133). -/
def readFp (p : Nat) (emin : Int) (b : Nat) : Fv :=
  let f := b % 2 ^ (p - 1)
  let ex := (b >>> (p - 1)) % 256
  let neg := (b >>> (p + 7)) % 2 == 1
  if ex = 255 then (if f = 0 then .inf neg else .nan)
  else if ex = 0 then .fin neg f emin
  else .fin neg (f + 2 ^ (p - 1)) (emin + (ex : Int) - 1)

/-- A binary32 value read exactly (R81). -/
def read32 (b : F32) : Fv := readFp 24 (-149) b.toNat

/-- A bfloat16 value read exactly (R81). -/
def read16 (b : B16) : Fv := readFp 8 (-133) b.toNat

/-- num/den × 2^e cut into units of 2^q: the whole number of units and how the remainder stands to one unit: numerator
and denominator of the rest. -/
def cutAt (num den : Nat) (e q : Int) : Nat × Nat × Nat :=
  let s := e - q
  let num' := if 0 ≤ s then num <<< s.toNat else num
  let den' := if 0 ≤ s then den else den <<< (-s).toNat
  (num' / den', num' % den', den')

/-- The exponent of the unit that a positive value num/den × 2^e has in a format of `p` significand bits with smallest
unit 2^emin. -/
def unitOf (p : Nat) (emin : Int) (num den : Nat) (e : Int) : Int :=
  let k0 : Int := (Nat.log2 num : Int) - (Nat.log2 den : Int)
  -- 2^k0 may exceed num/den by less than a factor of 2
  let k := if (cutAt num den 0 k0).1 = 0 then k0 - 1 else k0
  max (k + e - ((p : Int) - 1)) emin

/-- Round to nearest-even (R96) as a magnitude code: units counted from zero in code order, so that code order is value
order. The caller bounds the code. -/
def rneCode (p : Nat) (emin : Int) (num den : Nat) (e : Int) : Nat :=
  if num = 0 then 0 else
  let q := unitOf p emin num den e
  let (n, r, d) := cutAt num den e q
  let n' := if 2 * r > d ∨ (2 * r = d ∧ n % 2 = 1) then n + 1 else n
  n' + (q - emin).toNat * 2 ^ (p - 1)

/-- A binary result of `p` significand bits from an exact positive or zero magnitude: round to nearest-even, infinity
beyond the range. -/
def roundFp (p : Nat) (emin : Int) (neg : Bool) (num den : Nat) (e : Int) : Nat :=
  let c := rneCode p emin num den e
  min c (255 * 2 ^ (p - 1)) + (if neg then 2 ^ (p + 7) else 0)

/-- The canonical quiet NaN of binary32 (R82). -/
def nan32 : F32 := 0x7FC0_0000#32

/-- The canonical quiet NaN of bfloat16 (R82). -/
def nan16 : B16 := 0x7FC0#16

/-- Infinity of binary32 with a sign. -/
def inf32 (neg : Bool) : F32 := if neg then 0xFF80_0000#32 else 0x7F80_0000#32

/-- Zero of binary32 with a sign. -/
def zero32 (neg : Bool) : F32 := if neg then 0x8000_0000#32 else 0#32

/-- rne32 of an exact magnitude with a sign. -/
def rnd32 (neg : Bool) (num den : Nat) (e : Int) : F32 := BitVec.ofNat 32 (roundFp 24 (-149) neg num den e)

/-- rne16 of an exact magnitude with a sign. -/
def rnd16 (neg : Bool) (num den : Nat) (e : Int) : B16 := BitVec.ofNat 16 (roundFp 8 (-133) neg num den e)

/-- The exact value as binary32 (rne32 of R91, R116). -/
def toF32 : Fv → F32
  | .nan => nan32
  | .inf n => inf32 n
  | .fin n m e => rnd32 n m 1 e

/-- The exact value as bfloat16 (rne16 of R91). -/
def toB16 : Fv → B16
  | .nan => nan16
  | .inf n => if n then 0xFF80#16 else 0x7F80#16
  | .fin n m e => rnd16 n m 1 e

/-- A finite value as a signed number of units of 2^e. -/
def sgnI (neg : Bool) (m : Nat) : Int := if neg then -(m : Int) else m

/-- The exact sum of two values under IEEE 754 with round to nearest-even's zero signs. -/
def addFv : Fv → Fv → Fv
  | .nan, _ => .nan
  | _, .nan => .nan
  | .inf a, .inf b => if a = b then .inf a else .nan
  | .inf a, _ => .inf a
  | _, .inf b => .inf b
  | .fin na ma ea, .fin nb mb eb =>
    let e := min ea eb
    let x := sgnI na (ma <<< (ea - e).toNat) + sgnI nb (mb <<< (eb - e).toNat)
    if x = 0 then .fin (na && nb) 0 e else .fin (decide (x < 0)) x.natAbs e

/-- The exact product of two values under IEEE 754. -/
def mulFv : Fv → Fv → Fv
  | .nan, _ => .nan
  | _, .nan => .nan
  | .inf a, .inf b => .inf (a != b)
  | .inf a, .fin nb mb _ => if mb = 0 then .nan else .inf (a != nb)
  | .fin na ma _, .inf b => if ma = 0 then .nan else .inf (na != b)
  | .fin na ma ea, .fin nb mb eb => .fin (na != nb) (ma * mb) (ea + eb)

/-- The value with its sign changed. -/
def negFv : Fv → Fv
  | .nan => .nan
  | .inf a => .inf (!a)
  | .fin n m e => .fin (!n) m e

/-- The value scaled by 2^k. -/
def scaleFv (k : Int) : Fv → Fv
  | .fin n m e => .fin n m (e + k)
  | v => v

/-- Zero or not. -/
def Fv.isZero : Fv → Bool
  | .fin _ m _ => m == 0
  | _ => false

/-- Inf or NaN. -/
def Fv.isNonFinite : Fv → Bool
  | .fin _ _ _ => false
  | _ => true

/-- a < b for values that are not NaN; false when either is NaN. -/
def ltFv (a b : Fv) : Bool :=
  match a, b with
  | .nan, _ => false
  | _, .nan => false
  | .inf na, .inf nb => na && !nb
  | .inf na, .fin _ _ _ => na
  | .fin _ _ _, .inf nb => !nb
  | .fin na ma ea, .fin nb mb eb =>
    let e := min ea eb
    decide (sgnI na (ma <<< (ea - e).toNat) < sgnI nb (mb <<< (eb - e).toNat))

/-- rne32(a + b). -/
def fadd (a b : F32) : F32 := toF32 (addFv (read32 a) (read32 b))
/-- rne32(a − b). -/
def fsub (a b : F32) : F32 := toF32 (addFv (read32 a) (negFv (read32 b)))
/-- rne32(a × b). -/
def fmul (a b : F32) : F32 := toF32 (mulFv (read32 a) (read32 b))
/-- fma32(a, b, c): a × b + c formed exactly and rounded once. -/
def ffma (a b c : F32) : F32 := toF32 (addFv (mulFv (read32 a) (read32 b)) (read32 c))
/-- −a. -/
def fneg (a : F32) : F32 := toF32 (negFv (read32 a))
/-- a < b. -/
def flt (a b : F32) : Bool := ltFv (read32 a) (read32 b)
/-- Inf or NaN. -/
def isNF (a : F32) : Bool := (read32 a).isNonFinite

/-- rne32(a / b) under IEEE 754. -/
def fdiv (a b : F32) : F32 :=
  match read32 a, read32 b with
  | .nan, _ => nan32
  | _, .nan => nan32
  | .inf _, .inf _ => nan32
  | .inf na, .fin nb _ _ => inf32 (na != nb)
  | .fin na _ _, .inf nb => zero32 (na != nb)
  | .fin na ma ea, .fin nb mb eb =>
    if mb = 0 then (if ma = 0 then nan32 else inf32 (na != nb)) else rnd32 (na != nb) ma mb (ea - eb)

/-- 1.0 in binary32. -/
def one32 : F32 := 0x3F80_0000#32

/-- The reciprocal of R518. -/
def frecip (a : F32) : F32 := fdiv one32 a

/-- Square root correctly rounded (R232). The radicand is widened until its root has 40 bits and the remainder becomes
a sticky bit. -/
def fsqrt (a : F32) : F32 :=
  match read32 a with
  | .nan => nan32
  | .inf n => if n then nan32 else inf32 false
  | .fin n m e =>
    if m = 0 then zero32 n else if n then nan32 else
    let e' := if e % 2 = 0 then e - 80 else e - 81
    let x := m <<< (e - e').toNat
    let r := Nat.sqrt x
    -- a sticky unit below the root when the root is inexact
    rnd32 false (2 * r + (if r * r = x then 0 else 1)) 1 (e' / 2 - 1)

/-- Reciprocal square root of R518: −Inf for −0.0, as the rule gives it. -/
def frsqrt (a : F32) : F32 :=
  match read32 a with
  | .nan => nan32
  | .inf n => if n then nan32 else zero32 false
  | .fin n m e =>
    if m = 0 then inf32 n else if n then nan32 else
    -- 1/sqrt(m 2^e) = sqrt(2^(2k)/m) 2^(-k-e/2) with k = 120 and e made even
    let (m', e') := if e % 2 = 0 then (m, e) else (2 * m, e - 1)
    let x := 2 ^ 240 / m'
    let r := Nat.sqrt x
    let exact := r * r * m' == 2 ^ 240
    rnd32 false (2 * r + (if exact then 0 else 1)) 1 (-120 - e' / 2 - 1)

/-- Bits of the fixed-point fractions in which the flyer's functions are summed. Assumption 6. -/
def fxBits : Nat := 320

/-- The series sum of terms t_k = prev × num / (den × k) in fixed point: exp of a non-negative fixed-point argument. -/
def expSeries : Nat → Nat → Nat → Nat → Nat → Nat
  | 0, _, _, _, acc => acc
  | n + 1, x, k, t, acc =>
    let t' := (t * x) >>> fxBits
    let t'' := t' / k
    expSeries n x (k + 1) t'' (acc + t'')

/-- exp(x) for a fixed-point x in [0, 1). -/
def expFx (x : Nat) : Nat := expSeries 80 x 1 (2 ^ fxBits) (2 ^ fxBits)

/-- The series z + z³/3 + z⁵/5 + … in fixed point. -/
def atanhSeries : Nat → Nat → Nat → Nat → Nat → Nat
  | 0, _, _, _, acc => acc
  | n + 1, z2, k, p, acc => atanhSeries n z2 (k + 2) ((p * z2) >>> fxBits) (acc + p / k)

/-- ln((1 + z)/(1 − z)) for a fixed-point z in [0, 1/3]. -/
def lnFx (z : Nat) : Nat := 2 * atanhSeries 110 ((z * z) >>> fxBits) 1 z 0

/-- ln 2 in fixed point. -/
def ln2Fx : Nat := lnFx (2 ^ fxBits / 3)

/-- exp of the exact value (-1)^neg × x/2^fxBits, where x is not zero, as binary32. -/
def expOfFx (neg : Bool) (x : Nat) : F32 :=
  let k := x / ln2Fx
  let r := x % ln2Fx
  if neg then
    -- exp(-(k ln2 + r)) = exp(ln2 - r) 2^(-k-1)
    rnd32 false (expFx (ln2Fx - r)) 1 (-(k : Int) - 1 - fxBits)
  else rnd32 false (expFx r) 1 ((k : Int) - fxBits)

/-- exp of R518. -/
def fexp (a : F32) : F32 :=
  match read32 a with
  | .nan => nan32
  | .inf n => if n then zero32 false else inf32 false
  | .fin n m e =>
    if m = 0 then one32
    else if flt (0x43000000#32) a then inf32 false                -- beyond 128 the result is out of range
    else if flt a (0xC3000000#32) then zero32 false               -- below −128 it rounds to +0.0
    else expOfFx n (if 0 ≤ e + fxBits then m <<< (e + fxBits).toNat else m >>> (-(e + fxBits)).toNat)

/-- exp2 of R518: exact at integers. -/
def fexp2 (a : F32) : F32 :=
  match read32 a with
  | .nan => nan32
  | .inf n => if n then zero32 false else inf32 false
  | .fin n m e =>
    if m = 0 then one32
    else if flt (0x43800000#32) a then inf32 false                -- beyond 256
    else if flt a (0xC3800000#32) then zero32 false               -- below −256
    else
      let x := if 0 ≤ e + fxBits then m <<< (e + fxBits).toNat else m >>> (-(e + fxBits)).toNat
      let k := x / 2 ^ fxBits
      let r := x % 2 ^ fxBits
      if r = 0 then rnd32 false 1 1 (if n then -(k : Int) else k)
      else if n then rnd32 false (expFx (((2 ^ fxBits - r) * ln2Fx) >>> fxBits)) 1 (-(k : Int) - 1 - fxBits)
      else rnd32 false (expFx ((r * ln2Fx) >>> fxBits)) 1 ((k : Int) - fxBits)

/-- ln of a positive finite value m × 2^e as a signed fixed-point number, times 1. -/
def lnOf (m : Nat) (e : Int) : Int :=
  let l := Nat.log2 m
  let k : Int := e + l
  -- f = m / 2^l in [1, 2); z = (f − 1)/(f + 1)
  let z := ((m - 2 ^ l) <<< fxBits) / (m + 2 ^ l)
  k * ln2Fx + lnFx z

/-- The natural logarithm of R518. -/
def fln (a : F32) : F32 :=
  match read32 a with
  | .nan => nan32
  | .inf n => if n then nan32 else inf32 false
  | .fin n m e =>
    if m = 0 then inf32 true else if n then nan32 else
    let x := lnOf m e
    if a = one32 then zero32 false else rnd32 (decide (x < 0)) x.natAbs 1 (-(fxBits : Int))

/-- log2 of R518: exact at powers of two. -/
def flog2 (a : F32) : F32 :=
  match read32 a with
  | .nan => nan32
  | .inf n => if n then nan32 else inf32 false
  | .fin n m e =>
    if m = 0 then inf32 true else if n then nan32 else
    let l := Nat.log2 m
    if m = 2 ^ l then
      let k : Int := e + l
      rnd32 (decide (k < 0)) k.natAbs 1 0
    else
      let x := lnOf m e
      rnd32 (decide (x < 0)) x.natAbs ln2Fx 0

/-- binary32 from a natural number, rounded to nearest-even. -/
def fOfNat (n : Nat) : F32 := rnd32 false n 1 0

/-- 2^k as binary32, rounded. -/
def fPow2 (k : Int) : F32 := rnd32 false 1 1 k

/-- bfloat16 widened to binary32, exactly (R81); any NaN becomes the canonical one (R82). -/
def widen16 (b : B16) : F32 := toF32 (read16 b)

/-- binary32 rounded to bfloat16 (Table 3.11). -/
def narrow16 (a : F32) : B16 := toB16 (read32 a)

/-- Any NaN as the canonical one; every other value as it stands (R82). -/
def canon32 (a : F32) : F32 := if read32 a = .nan then nan32 else a

/-- rne_int of R153: m × 2^e to the nearest integer, ties to even, with a sign. -/
def rneInt (neg : Bool) (m : Nat) (e : Int) : Int :=
  let (n, r, d) := cutAt m 1 e 0
  sgnI neg (if 2 * r > d ∨ (2 * r = d ∧ n % 2 = 1) then n + 1 else n)

end Sys2Proof.Machine
end

