-- ==== Sys2Proof/Machine/Formats.lean ====
section
/-!
DEFINITION. The eight formats (R80 to R87), the rounding of narrow elements (R96, R97), scale choice (R91 to R94),
the X128 window (R152 to R154) and the promotions of the bobbin (R148).
-/
namespace Sys2Proof.Machine

/-- Width in bits of a format code of Table 3.1. -/
def fmtBits (f : Nat) : Nat :=
  match f with
  | 0 => 32 | 1 => 16 | 2 => 8 | 3 => 8 | 4 => 6 | 5 => 6 | 6 => 4 | 7 => 4 | _ => 0

/-- A narrow format: codes 2 to 7 (R80). -/
def isNarrow (f : Nat) : Bool := decide (2 ≤ f) && decide (f ≤ 7)

/-- A 4-bit format: E2M1 or G4. -/
def is4bit (f : Nat) : Bool := f == 6 || f == 7

/-- Significand bits of a narrow format, the hidden one included; G4 has the one (R83). -/
def fmtP (f : Nat) : Nat := match f with | 2 => 4 | 3 => 3 | 4 => 4 | 5 => 3 | 6 => 2 | _ => 1

/-- Exponent of the smallest non-zero magnitude of a narrow format (Table 3.1). -/
def fmtEmin (f : Nat) : Int := match f with | 2 => -9 | 3 => -16 | 4 => -3 | 5 => -4 | 6 => -1 | _ => -3

/-- The code of the largest finite magnitude (Tables 3.1 and 3.2). -/
def fmtTop (f : Nat) : Nat := match f with | 2 => 0x7E | 3 => 0x7B | 4 => 31 | 5 => 31 | _ => 7

/-- emax of the scale rules: the exponent of the largest finite magnitude. -/
def fmtEmax (f : Nat) : Int := match f with | 2 => 8 | 3 => 15 | 4 => 2 | 5 => 4 | 6 => 2 | _ => 3

/-- Eight times M of the scale rules: 1.75, 1.75, 1.875, 1.75, 1.5, 1. -/
def fmtM16 (f : Nat) : Nat := match f with | 2 => 28 | 3 => 28 | 4 => 30 | 5 => 28 | 6 => 24 | _ => 16

/-- The magnitude that code `u` (sign removed) of a narrow format names: a count of units 2^e. -/
def magOf (f u : Nat) : Nat × Int :=
  let p := fmtP f
  let ex := u >>> (p - 1)
  if ex = 0 then (u, fmtEmin f) else (u % 2 ^ (p - 1) + 2 ^ (p - 1), fmtEmin f + (ex : Int) - 1)

/-- The value of a narrow element code (Table 3.2, R84, R85). -/
def readNarrow (f code : Nat) : Fv :=
  let w := fmtBits f
  let neg := (code >>> (w - 1)) % 2 == 1
  let u := code % 2 ^ (w - 1)
  if f = 2 ∧ u = 0x7F then .nan
  else if f = 3 ∧ u ≥ 0x7C then (if u = 0x7C then .inf neg else .nan)
  else if f = 7 ∧ u = 0 then .fin false 0 0
  else .fin neg (magOf f u).1 (magOf f u).2

/-- The magnitude code below or at num/den × 2^e on a narrow grid, not above the format's largest (R97). -/
def floorCode (f num den : Nat) (e : Int) : Nat :=
  if num = 0 then 0 else
  let p := fmtP f
  let q := unitOf p (fmtEmin f) num den e
  min ((cutAt num den e q).1 + (q - fmtEmin f).toNat * 2 ^ (p - 1)) (fmtTop f)

/-- Round a magnitude num/den × 2^e on a narrow grid (R96, R97): nearest-even, or stochastic with the draw `u`.
A magnitude above the largest is written as the largest (R92). -/
def roundNarrow (f : Nat) (sr : Bool) (u num den : Nat) (e : Int) : Nat :=
  let lo := floorCode f num den e
  if lo = fmtTop f then lo else
  let (ml, el) := magOf f lo
  let (mh, eh) := magOf f (lo + 1)
  -- everything in units of 2^g
  let g := min e (min el eh)
  let x := num <<< (e - g).toNat                       -- over den
  let l := ml <<< (el - g).toNat
  let h := mh <<< (eh - g).toNat
  let below := x - l * den
  if below = 0 then lo
  else if sr then
    let fd := below * 65536 / ((h - l) * den)
    if fd + u ≥ 65536 then lo + 1 else lo
  else
    let span := (h - l) * den
    if 2 * below > span ∨ (2 * below = span ∧ lo % 2 = 1) then lo + 1 else lo

/-- Block length from its code (Table 3.6). -/
def blenOf (c : Nat) : Nat := 16 <<< c

/-- A widened narrow element, before the tensor scale: v × 2^(s − 127) (R87, R104). -/
def elemFv (f code scale : Nat) : Fv :=
  if scale = 0xFF then .nan else scaleFv ((scale : Int) - 127) (readNarrow f code)

/-- One member of a written block's outlier list: its BF16 value and index (R91). -/
structure Outlier where
  value : B16
  index : Nat
deriving DecidableEq, Repr

/-- A block as R91 to R94 write it: scale, element codes, side-list members, and what it counts. -/
structure Block where
  scale : Nat
  codes : List Nat
  out : List Outlier
  nonFinite : Bool
  outOvf : Nat
  under : Bool
deriving DecidableEq, Repr

/-- The absolute bits of a binary32 value: for values that are not NaN their order is the order of magnitudes. -/
def absBits (x : F32) : Nat := x.toNat % 2 ^ 31

/-- Insert an index into a list kept by descending magnitude, the lower index first among equals. -/
def insDesc (xs : List (Nat × Nat)) (i m : Nat) : List (Nat × Nat) :=
  match xs with
  | [] => [(i, m)]
  | (j, k) :: r => if m > k then (i, m) :: (j, k) :: r else (j, k) :: insDesc r i m

/-- The four indices of largest magnitude, descending: cand[0..3] of R91. -/
def top4 (x : List F32) : List (Nat × Nat) :=
  (x.zipIdx.foldl (fun acc p => (insDesc acc p.2 (absBits p.1)).take 4) [])

/-- The outlier list of R91 and the number left in the block. -/
def pickOut (x : List F32) (oslot oshift : Nat) : List Nat × Nat :=
  let cand := top4 x
  let ref := (cand.getD 3 (0, 0)).2
  let refV := scaleFv oshift (read32 (BitVec.ofNat 32 ref))
  ((cand.take 2).foldl (fun (acc : List Nat × Nat) c =>
    if ltFv refV (read32 (BitVec.ofNat 32 c.2)) then
      (if acc.1.length < oslot then (acc.1 ++ [c.1], acc.2) else (acc.1, acc.2 + 1))
    else acc) ([], 0))

/-- The settings with which a writer forms a block: the header's fields, the rounding and where the draws come from. -/
structure BlockRule where
  fmt : Nat
  oslot : Nat
  oshift : Nat
  mx : Bool
  tsc : Bool
  tscale : F32
  sr : Bool
  key : BitVec 64
  tid : Nat
  step : Nat
deriving DecidableEq, Repr

/-- The block exponent of R91 for the largest magnitude (as absolute bits) that stays in the block. -/
def blockExp (f : Nat) (mx : Bool) (amax : Nat) : Int :=
  if amax = 0 then -127 else
  match read32 (BitVec.ofNat 32 amax) with
  | .fin _ m e =>
    let l := Nat.log2 m
    let ea : Int := e + l
    let fits := decide (16 * m ≤ fmtM16 f * 2 ^ l)
    max (if mx || fits then ea - fmtEmax f else ea - fmtEmax f + 1) (-127)
  | _ => -127

/-- The element code of a value: the rounded magnitude with its sign, and sign 0 for zero (R84, R91). -/
def codeOf (f : Nat) (sr : Bool) (u : Nat) (x : F32) (e : Int) : Nat :=
  match read32 x with
  | .fin neg m ex =>
    let c := roundNarrow f sr u m 1 (ex - e)
    if c = 0 then 0 else c + (if neg then 2 ^ (fmtBits f - 1) else 0)
  | _ => 0

/-- The non-finite block of R93. -/
def nonFiniteBlock (n ovf : Nat) : Block :=
  { scale := 0xFF, codes := List.replicate n 0, out := [], nonFinite := true, outOvf := ovf, under := false }

/-- Forms one block by R91: `pos` is the element position of element 0 for the draws. -/
def formBlock (r : BlockRule) (pos : Nat) (xs : List F32) : Block :=
  let trec := frecip r.tscale
  let x := if r.tsc then xs.map (fun v => fmul v trec) else xs
  if x.any isNF then nonFiniteBlock x.length 0 else
  let (out, ovf) := if r.oslot = 0 then ([], 0) else pickOut x r.oslot r.oshift
  let outV := out.map (fun i => (⟨narrow16 (x.getD i 0#32), i⟩ : Outlier))
  if outV.any (fun o => (read16 o.value).isNonFinite) then nonFiniteBlock x.length ovf else
  let amax := (x.zipIdx.foldl (fun m p => if out.contains p.2 then m else max m (absBits p.1)) 0)
  let e := blockExp r.fmt r.mx amax
  let codes := x.zipIdx.map (fun p =>
    if out.contains p.2 then 0
    else codeOf r.fmt r.sr (if r.sr then drawSr r.key r.tid r.step (pos + p.2) else 0) p.1 e)
  { scale := (e + 127).toNat, codes := codes, out := outV, nonFinite := false, outOvf := ovf,
    under := codes.all (· == 0) && decide (amax ≠ 0) }

/-- The X128 code NF (R152). -/
def x128NF : BitVec 128 := 0x8000_0000_0000_0000_0000_0000_0000_0000#128

/-- x128_add of R153 with window exponent `l`. -/
def x128Add (l : Int) (i : BitVec 128) (a : Fv) : BitVec 128 :=
  if i = x128NF then x128NF else
  match a with
  | .fin neg m e =>
    let n := rneInt neg m (e - l)
    if n.natAbs ≥ 2 ^ 119 then x128NF else
    let r := i.toInt + n
    if r ≤ -(2 ^ 127 : Int) ∨ r ≥ (2 ^ 127 : Int) then x128NF else BitVec.ofInt 128 r
  | _ => x128NF

/-- The value an X128 total reads as (R152, R154). -/
def x128Fv (l : Int) (i : BitVec 128) : Fv :=
  if i = x128NF then .nan
  else if i.toInt.natAbs ≥ 2 ^ 119 then .inf (decide (i.toInt < 0))
  else .fin (decide (i.toInt < 0)) i.toInt.natAbs l

/-- promote_fp32 of R148 with the draw u. -/
def promoteSr (u : Nat) (t c : F32) : F32 :=
  match addFv (read32 t) (read32 c) with
  | .fin neg m e =>
    if m = 0 then zero32 false else
    -- the code of the magnitude below, and the code above it
    let q := unitOf 24 (-149) m 1 e
    let (n, rest, d) := cutAt m 1 e q
    let lo := n + (q + 149).toNat * 2 ^ 23
    -- |x| above the largest finite binary32 gives infinity with its sign
    let code := if lo > 0x7F7F_FFFF ∨ (lo = 0x7F7F_FFFF ∧ rest ≠ 0) then 0x7F80_0000
                else if rest = 0 then lo
                else if rest * 65536 / d + u ≥ 65536 then lo + 1 else lo
    BitVec.ofNat 32 (code + (if neg then 2 ^ 31 else 0))
  | v => toF32 v

/-- promote_pair of R148 on (hi, lo). -/
def promotePair (hi lo c : F32) : F32 × F32 :=
  let s := fadd hi c
  if isNF hi || isNF c || isNF s then (s, zero32 false) else
  let e := toF32 (addFv (addFv (read32 hi) (read32 c)) (negFv (read32 s)))
  let l := fadd lo e
  let h := fadd s l
  if isNF h then (h, zero32 false) else
  let r := toF32 (addFv (read32 l) (negFv (addFv (read32 h) (negFv (read32 s)))))
  (h, if absBits r = 0 then zero32 false else r)

end Sys2Proof.Machine
end

