-- ==== Sys2Proof/Machine/Mem.lean ====
section
/-!
DEFINITION. A byte memory as plain data: (address, byte) pairs with strictly rising addresses and no byte 0. An address
that is not listed reads as 0, which is what power-up writes to the distaff and to the HBM (R449 steps 8 and 12,
R450). Wider accesses are built from bytes, little-endian (R10).
-/
namespace Sys2Proof.Machine

/-- A byte memory. -/
abbrev Mem := List Host.Cell

/-- One byte read. -/
def memGet : Mem → Nat → Byte
  | [], _ => 0#8
  | (k, c) :: m, a => if a = k then c else memGet m a

/-- One byte written; writing 0 removes the entry, so that equal memories are equal data. -/
def memPut : Mem → Nat → Byte → Mem
  | [], a, b => if b = 0#8 then [] else [(a, b)]
  | (k, c) :: m, a, b =>
    if a < k then (if b = 0#8 then (k, c) :: m else (a, b) :: (k, c) :: m)
    else if a = k then (if b = 0#8 then m else (a, b) :: m)
    else (k, c) :: memPut m a b

/-- The canonical form: addresses strictly rising, no byte 0. -/
def Memory.wf : Mem → Bool
  | [] => true
  | [(_, c)] => c != 0#8
  | (k, c) :: (k', c') :: m => c != 0#8 && decide (k < k') && Memory.wf ((k', c') :: m)

/-- `n` bytes from address `a`. -/
def memRead (m : Mem) (a : Nat) : Nat → List Byte
  | 0 => []
  | n + 1 => memGet m a :: memRead m (a + 1) n

/-- A byte list written from address `a` on. -/
def memWrite (m : Mem) (a : Nat) : List Byte → Mem
  | [] => m
  | b :: bs => memWrite (memPut m a b) (a + 1) bs

/-- An n-byte little-endian number. -/
def memNat (m : Mem) (a n : Nat) : Nat := leNat (memRead m a n)

end Sys2Proof.Machine
end

