-- ==== Sys2Proof/Machine/Spindle.lean ====
section
/-!
DEFINITION. The state of one spindle position (Table 2.1): the six streams with their queues, the semaphores, the
distaff with its check bits and full/empty bits, the whorl and its ports, the bobbin, the sampled-tile check, the
carder's transfers, the loft, the hank, the reeler and the position's counters.
-/
namespace Sys2Proof.Machine

/-- A loop counter (R70). -/
structure LoopCtr where
  value : Nat
  armed : Bool
deriving DecidableEq, Repr

/-- A word in an engine queue: its offset from the stream base and the word, or the event code of a fault marker
(R63, R68), and the sc in which it entered; the first word of a frame carries the loop counters as they stood then (R66). -/
structure QEntry where
  woff : Nat
  word : KWord
  marker : Option Nat
  loops : List LoopCtr := []
  at_ : Nat := 0
deriving DecidableEq, Repr

/-- A line fetch in flight: word offset of the first word it keeps, the sc in which its data arrive, and the words its bank delivers, or the
local offset of the poisoned one among them (R63, R55). -/
structure Fetch where
  woff : Nat
  due : Nat
  words : List KWord
  poison : Option Nat
deriving DecidableEq, Repr

/-- One instruction stream (R59 to R66): its table entry, what the treadle has fetched, its queue, and the state of
its issue. `free` is the sc from which the next word may issue, `doneAt` the sc in which every instruction issued so far
has completed. `fresh`: the next word that enters the queue is the first of a frame. `frameFirst` and `frameLoops` are the
offset of the frame's first word and the loop counters there. -/
structure Stream where
  base : Nat
  len : Nat
  en : Bool
  next : Nat
  flights : List Fetch
  ctrl : List QEntry
  queue : List QEntry
  fetchStop : Bool
  loops : List LoopCtr
  fresh : Bool
  frameFirst : Nat
  frameLoops : List LoopCtr
  finished : Bool
  halted : Bool
  dead : Bool
  free : Nat
  doneAt : Nat
  waitSince : Option Nat
  frameSc : Nat
  overRaised : Bool
deriving DecidableEq, Repr

/-- A stream before any job: disabled. -/
def Stream.reset : Stream :=
  { base := 0, len := 0, en := false, next := 0, flights := [], ctrl := [], queue := [], fetchStop := false,
    loops := List.replicate 8 ⟨0, false⟩, fresh := true, frameFirst := 0, frameLoops := List.replicate 8 ⟨0, false⟩, finished := false, halted := false, dead := false,
    free := 0, doneAt := 0, waitSince := none, frameSc := 0, overRaised := false }

/-- An SSIG that has issued and acts 2 sc later (R76). -/
structure Sig where
  at_ : Nat
  sem : Nat
  count : Nat
  stream : Nat
  woff : Nat
deriving DecidableEq, Repr

/-- One feed element as the whorl receives it: the element code and its block scale (BF16: the value, scale 127). -/
structure FElem where
  code : Nat
  scale : Nat
deriving DecidableEq, Repr

/-- An outlier slot entry carried by a feed word: the value (NaN where the block's scale is 0xFF) and its K position in
the word (R116). -/
structure FOut where
  value : B16
  k : Nat
deriving DecidableEq, Repr

/-- A feed word with its tags (R111): the sc it entered, its elements, the outlier slots its blocks hold (`slots`) and
those that are filled, the freeze mask (R198), poison (R114), the BF16 copies of the pre-quantisation values (R182), and the elements
whose widening for such a copy leaves the binary32 range (R104). -/
structure FWord where
  at_ : Nat
  fmt : Nat
  blen : Nat
  oslot : Nat
  tscale : F32
  elems : List FElem
  slots : Nat
  outs : List FOut
  mask : Option (Nat × Nat)
  poison : Option Nat
  pre : List B16
  wide : List Nat
deriving DecidableEq, Repr

/-- What a feed channel runs (R113, R173, R196, R198). -/
inductive FeedKind where
  | feed | trot | transpose | fmask
deriving DecidableEq, Repr

/-- A feed word as it is formed (R111 to R113, R172, R173, R195, R196): the word with its tags, the ranges it reads, those of the shadow's
elements (R184), the lines of its reads, the blocks that TROT forms with their number and TID, and whether a widening leaves the binary32
range (R104). -/
structure Built where
  word : FWord
  reads : List (Nat × Nat)
  side : List (Nat × Nat) := []
  lines : Nat
  blocks : List (Nat × Block)
  tid : Nat
  wide : Bool := false
deriving DecidableEq, Repr

/-- One item of a feed channel: the instruction word, how many of its words have entered, the shadow attached to a
TFEED (format, base), the tensor headers as its issue read them, after the rotation record of a TROT, and the words of its rotation buffer
that have not entered (R175, R196). -/
structure FeedItem where
  kind : FeedKind
  word : KWord
  woff : Nat
  issued : Nat
  entered : Nat
  shadow : Option (Nat × Nat)
  head : List Nat := []
  buf : List Built := []
deriving DecidableEq, Repr

/-- A feed port with its channel (R111, R113): the FIFO of at most 64 words, the channel's items, the mask waiting to
be attached with the poisoned word it was read from (R198), the shadow waiting for the next TFEED (R184), the next free
read of the channel (four to an sc), the last entry (two to an sc), the sc in which the last 64 words left, the latest first,
and the sc in which the last two groups left the rotation buffer (R175). -/
structure FeedPort where
  fifo : List FWord
  chan : List FeedItem
  mask : Option (Nat × Nat)
  maskPoison : Option Nat
  shadow : Option (Nat × Nat)
  cursor : Nat
  lastIn : Nat
  left : List Nat
  bufs : List Nat
deriving DecidableEq, Repr

/-- An empty feed port. -/
def FeedPort.reset : FeedPort :=
  { fifo := [], chan := [], mask := none, maskPoison := none, shadow := none, cursor := 0, lastIn := 0, left := [],
    bufs := [] }

/-- A stationary plane of one half (R115, R136): its words in K order, with the load counter at its MLOAD (R181), the end
of the last occupation that used it (R118), the sc from which an MSTREAM may name it (R120) and the sc of its MLOAD's completion. -/
structure Plane where
  valid : Bool
  fmt : Nat
  kr : Nat
  nc : Nat
  tscale : F32
  rows : List FWord
  loadNo : Nat
  busyTill : Nat
  readyAt : Nat
  doneAt : Nat := 0
deriving DecidableEq, Repr

/-- A plane not loaded. -/
def Plane.reset : Plane :=
  { valid := false, fmt := 0, kr := 0, nc := 0, tscale := one32, rows := [], loadNo := 0, busyTill := 0,
    readyAt := 0 }

/-- A whorl instruction that is consuming words: its queue entry, the sc of its issue and the sc its next word is due, the K
indices or rows it has taken, the plane words it has loaded, the bank and first row of its results and the promotion counter
it uses (R150, R157), whether it had a bubble, the accumulators and K indices of its open chunk with the operands' tensor
scales and the freeze mask, and for the check (R180 to R182) the selection counter's value, the copies of both operands and the
results handed to it. -/
structure WOp where
  cls : Nat
  q : QEntry
  issued : Nat
  due : Nat
  taken : Nat
  words : List FWord
  bank : Nat
  row : Nat
  pc : Nat
  bubbled : Bool
  acc : List (List F32)
  chunk : Nat
  ta : F32
  tb : F32
  mask : Option (Nat × Nat)
  last : Nat
  sel : Option Nat
  ca : List (List B16)
  cb : List (List B16)
  cq : List (List F32)
  seen : Nat := 0
deriving DecidableEq, Repr

/-- A row of values handed to the bobbin and not yet promoted (R146): the half, bank, row, the columns with their chunk
sums, BEGIN, the columns an FMASK freezes, the layer tag, the promotion counter of R150, and the sc in which its
instruction issued. -/
structure Handed where
  at_ : Nat
  bank : Nat
  row : Nat
  vals : List (Nat × F32)
  frozen : List Nat
  begin_ : Bool
  ltag : Nat
  pc : Nat
  issued : Nat
deriving DecidableEq, Repr

/-- A bobbin layout (R141). -/
structure Layout where
  live : Nat
  cmpt : Bool
  acc : Nat
  roww : Nat
  clog : Nat
  win : Int
deriving DecidableEq, Repr

/-- The layout at job start (R141). -/
def Layout.reset : Layout := { live := 0, cmpt := false, acc := 0, roww := 0, clog := 3, win := 0 }

/-- A data op on a drain path (R158): the word, the sc of its issue, the bank it acts on, its layout, and the sc of its
completion once it has started. -/
structure DataOp where
  q : QEntry
  issued : Nat
  bank : Nat
  layout : Layout
  doneAt : Option Nat
deriving DecidableEq, Repr

/-- A pending sampled-tile check of a half (R182): the layer tag, the selection counter's value, the first row and
column of the sub-tile, the copies, the handed results, the frozen elements, the sc from which it is ready, and the sc in which the VCHECK
that judges it clears it. -/
structure Check where
  ltag : Nat
  sel : Nat
  a : List (List B16)
  b : List (List B16)
  q : List (List F32)
  frozen : List (Nat × Nat)
  ready : Option Nat
  clearAt : Option Nat
deriving DecidableEq, Repr

/-- One half of the whorl with its partition of the bobbin (R132, R140): planes, operations in progress, path times,
handed rows, layout, promotion counter, totals by (bank, row, column), rows that are not clear, poisoned elements, elements that hold bits in error with their masks, the draw
number of a partition that became undefined (R134), the drain path and the check counters. -/
structure Half where
  planes : List Plane
  load : Option WOp
  strm : Option WOp
  loadFree : Nat
  strmFree : Nat
  handed : List Handed
  bankDone : List Nat
  layout : Layout
  pc : Nat
  tot : List (Nat × BitVec 128)
  used : List Nat
  poison : List Nat
  errs : List (Nat × Nat)
  undef : Option Nat
  drain : List DataOp
  drainFree : Nat
  sel : Nat
  loads : Nat
  check : Option Check
deriving DecidableEq, Repr

/-- A half before any job. -/
def Half.reset : Half :=
  { planes := [Plane.reset, Plane.reset], load := none, strm := none, loadFree := 0, strmFree := 0, handed := [],
    bankDone := [0, 0], layout := Layout.reset, pc := 0, tot := [], used := [], poison := [], errs := [], undef := none,
    drain := [], drainFree := 0, sel := 0, loads := 0, check := none }

/-- The whorl, its ports and the bobbin halves; `busy` holds the occupations of the frame's stream paths (Table 4.14). -/
structure Whorl where
  split : Bool
  halves : List Half
  ports : List FeedPort
  busy : List (Nat × Nat)
deriving DecidableEq, Repr

/-- A whorl before any job; H1_CLOG resets to 0 (Table 5.7). -/
def Whorl.reset : Whorl :=
  { split := false, halves := [Half.reset, { Half.reset with layout := { Layout.reset with clog := 0 } }], ports := List.replicate 4 FeedPort.reset, busy := [] }

/-- The kinds of accesses that travel over the die mesh, the bridges and the ports (R256, R281). -/
inductive AccKind where
  | getLine | putLine | addPacket | cfe
deriving DecidableEq, Repr

/-- The fields of a CFE as its target needs them (Table 10.2). -/
structure CfeArg where
  op : Nat
  state : Bool
  lword : Nat
  timeout : Nat
  acq : Nat
deriving DecidableEq, Repr

/-- One access of a carder: its kind, the sending logical spindle, the port it arrived through (none: this device), its
number among its carder's accesses and its instruction's number, the instruction's word offset, the device address and
length, the local offset, its data with the 4-byte granules of them that are poisoned, the source format, first element and
values of an add packet (its poisoned elements) with its block length code, outlier slots and tensor scale, the CFE fields, the final-flag attribute, LOFT, the route latency, the sc of its presentation or arrival, and in thousandths of an rc the time at which it was sent, the spans
of time whose stretches have delayed it, and the stretches of a sender that waits for its answer, each with what it takes (R42, R46). -/
structure Access where
  kind : AccKind
  src : Nat
  via : Option Nat
  tag : Nat
  inst : Nat
  woff : Nat
  addr : Nat
  len : Nat
  local_ : Nat
  data : List Byte
  poison : List Nat
  fmt : Nat
  elem : Nat
  vals : List F32
  wide : List Nat
  blen : Nat
  oslot : Nat
  tscale : F32
  cfe : Option CfeArg
  final : Bool
  loft : Bool
  lat : Nat
  at_ : Nat
  hdr : Nat := 0
  hdrBad : Option Nat := none
  sentAt : Nat := 0
  spans : List (Nat × Nat) := []
  waits : List (Nat × Nat × Nat) := []
deriving DecidableEq, Repr

/-- A carder instruction that has issued and is not complete: its number and word offset, how many of its lines are still to
present and to arrive, and whether it holds the issue of stream C. -/
structure CJob where
  inst : Nat
  woff : Nat
  toPresent : Nat
  toArrive : Nat
  hold : Bool
deriving DecidableEq, Repr

/-- A write sent and not yet acknowledged (R260): its number, device address and length, the final-flag attribute, and
the sc of its sender in which it lands, once that is known. -/
structure Sent where
  tag : Nat
  addr : Nat
  len : Nat
  final : Bool
  landAt : Option Nat
deriving DecidableEq, Repr

/-- A write has not landed by sc t of its sender. -/
def Sent.onWay (t : Nat) (x : Sent) : Bool := match x.landAt with | some u => decide (t < u) | none => true

/-- One line of the loft (R58): line address, whether its data have arrived, its bytes with their poisoned granules, the
mask of bits in error, and the number of the access that fills it. The list of a spindle's lines is kept with the most
recently used first. -/
structure LoftLine where
  line : Nat
  filled : Bool
  data : List Byte
  poison : List Nat
  errs : Nat
  tag : Nat
deriving DecidableEq, Repr

/-- A loft hit that waits for the data of the miss that allocated its way (R58): the number of that miss, and the hit. -/
structure LoftWait where
  tag : Nat
  acc : Access
deriving DecidableEq, Repr

/-- The hank record (Table 7.6). -/
structure HankRec where
  base : Nat
  size : Nat
  cellar : Nat
  csize : Nat
  hi : Nat
  lo : Nat
  fault : Bool
  cwm : Nat
  lpf : Nat
deriving DecidableEq, Repr

/-- No hank. -/
def HankRec.reset : HankRec :=
  { base := 0, size := 0, cellar := 0, csize := 0, hi := 0, lo := 0, fault := false, cwm := 0, lpf := 0 }

/-- One entry of the hank (R204): its first line (in the region, or from CELLAR), tag, data lines, push number, and the sc in which the POP
that has started on it completes and frees its lines (R207). -/
structure HankEntry where
  line : Nat
  tag : Nat
  lines : Nat
  seq : Nat
  popAt : Option Nat
deriving DecidableEq, Repr

/-- An entry that no POP has started on. -/
def HankEntry.live (e : HankEntry) : Bool := e.popAt.isNone

/-- An entry in transfer (R208): spill or refill, the entry, the cellar line of its first line, the next line, the sc of its last line
transfer, and the sc from which it may move the next. -/
structure Mover where
  refill : Bool
  ent : HankEntry
  cell : Nat
  next : Nat
  last : Option Nat
  ready : Nat := 0
deriving DecidableEq, Repr

/-- A PUSH or POP that waits (R206, R207): the entry and the sc of its issue. -/
structure HankWait where
  q : QEntry
  since : Nat
deriving DecidableEq, Repr

/-- The hank of a spindle (R203 to R214): the record, the region entries with the oldest first, the cellar entries with the
oldest first, the next free region line, the mover, the lines spent in the frame, the push number, the waiter, and whether
E-0x363 was raised in this frame. -/
structure Hank where
  record : HankRec
  region : List HankEntry
  cellar : List HankEntry
  newest : Nat
  mover : Option Mover
  spent : Nat
  seq : Nat
  wait : Option HankWait
  warned : Bool
deriving DecidableEq, Repr

/-- An empty hank. -/
def Hank.reset : Hank :=
  { record := HankRec.reset, region := [], cellar := [], newest := 0, mover := none, spent := 0, seq := 0,
    wait := none, warned := false }

/-- The POPs that have completed by sc t free their entries, which are the newest of the region (R207). -/
def Hank.settle (t : Nat) (h : Hank) : Hank :=
  let r := (h.region.reverse.dropWhile fun e => e.popAt.any (· ≤ t)).reverse
  match h.region[r.length]? with
  | some e => { h with region := r, newest := e.line }
  | none => h

/-- An armed reeler buffer (Table 9.7). -/
structure Buffer where
  base : Nat
  nel : Nat
  acc : Nat
  win : Int
deriving DecidableEq, Repr

/-- A CFE in the wait table (R284): the access and its expiry e (R286). -/
structure WaitEntry where
  acc : Access
  expiry : Nat
deriving DecidableEq, Repr

/-- A conversion that waits to run (R270): its RCLOSE, the buffer it closed and the sc of its issue. -/
structure Conv where
  q : QEntry
  buf : Buffer
  at_ : Nat
deriving DecidableEq, Repr

/-- A reeler (R266 to R284): the arrival queue, the final-flag writes held beside it, the buffers, the wait table, the sc from which it is
free with the local offset that an add packet it works on addresses, the conversions that wait, the sc by which all that it has written has
landed, and the words whose state last changed with the sc from which a CFE may act on them. -/
structure Reeler where
  queue : List Access
  held : List Access
  buffers : List (Option Buffer)
  waits : List WaitEntry
  free : Nat
  cur : Option Nat
  convs : List Conv
  lastLand : Nat
  landing : List (Nat × Nat)
deriving DecidableEq, Repr

/-- An idle reeler. -/
def Reeler.reset : Reeler :=
  { queue := [], held := [], buffers := List.replicate 16 none, waits := [], free := 0, cur := none, convs := [], lastLand := 0,
    landing := [] }

/-- The 32-bit counters of a position (Tables 3.12, 4.14, 5.9, 6.14, 7.16, 8.14, 9.16, 10.7, 13.x, 20.7). -/
structure Counters where
  blkUnder : Nat
  nonFin : Nat
  outOvf : Nat
  x128Sat : Nat
  optNf : Nat
  whorlBusy : Nat
  whorlBubble : Nat
  whorlInstr : Nat
  bobbinStall : Nat
  qskip : Nat
  qdrift : Nat
  hankStall : Nat
  spilled : Nat
  refilled : Nat
  reelBusy : Nat
  reelPeak : Nat
  loftHits : Nat
  loftMisses : Nat
  fePeak : Nat
  meshHold : Nat
  hbmHold : Nat
  eccCorr : Nat
  eccPoison : Nat
deriving DecidableEq, Repr

/-- Every counter 0. -/
def Counters.reset : Counters :=
  { blkUnder := 0, nonFin := 0, outOvf := 0, x128Sat := 0, optNf := 0, whorlBusy := 0, whorlBubble := 0,
    whorlInstr := 0, bobbinStall := 0, qskip := 0, qdrift := 0, hankStall := 0, spilled := 0, refilled := 0,
    reelBusy := 0, reelPeak := 0, loftHits := 0, loftMisses := 0, fePeak := 0, meshHold := 0, hbmHold := 0,
    eccCorr := 0, eccPoison := 0 }

/-- The distaff of a position (R54, R278, R472): its bytes, the words marked full, the poisoned words, the words that
hold bits in error with their masks, and the next line of the scrub. -/
structure Distaff where
  mem : Mem
  full : List Nat
  poison : List Nat
  errs : List (Nat × Nat)
  scrub : Nat
deriving DecidableEq, Repr

/-- A distaff as power-up leaves it: zero, empty, no error. -/
def Distaff.reset : Distaff := { mem := [], full := [], poison := [], errs := [], scrub := 0 }

/-- An event a unit raises (R487, R519): its code, its disposition (0 reported only, 1 stop fault, 2 bell fault, 3 stop fault
confined to a half of a split whorl, R134), the
stream and word offset where it names one, and its detail fields, the record of Table 10.4 where it has one, and the
sc of its position in which it is raised where that is not the present one (R359). -/
structure Ev where
  code : Nat
  kind : Nat
  stream : Nat
  woff : Nat
  da : Nat
  db : Nat
  rcd : Option Nat
  at_ : Option Nat := none
deriving DecidableEq, Repr

/-- What a write of an engine brings about when it becomes visible or, for counts, when its bank accepts it (R55, R95, R253, R254, R268):
the sc, the local offset and bytes, the local offsets of words marked poisoned, the non-finite flag, increments of the counters of
Table 3.12 and of SPN_NUM_X128SAT, whether the reeler writes it, whorl instructions that complete, and the event raised in that sc. A line of a local copy holds its source, and
as its data what the writes made so far leave there; `fresh` marks the sc in which such lines, visible 9 sc later, are read (R206, R256). -/
structure Pend where
  at_ : Nat
  off : Nat
  data : List Byte
  poison : List Nat
  nf : Bool
  under : Nat
  nonFin : Nat
  ovf : Nat
  sat : Nat
  reel : Bool := false
  instr : Nat := 0
  ev : Option Ev := none
  src : Option Nat := none
  fresh : Bool := false
deriving DecidableEq, Repr

/-- The clock of a position (R37 to R40): local cycle counter, its value at the last bell, reference count in 56ths of an sc, cycles lost
to droops since the last bell, further cycles lost in 224ths of an sc with the rc up to which those are counted, whether a droop stretches
the oscillator, the rc at which that stretch or this frame began, entries into stretching, and the recorded values. -/
structure Clock where
  lc : Nat
  bellLc : Nat
  ref56 : Nat
  lost : Nat
  lost224 : Nat
  countedTo : Nat
  stretching : Bool
  since : Nat
  events : Nat
  lastBell : Nat
  lastEvents : Nat
  total : Nat
deriving DecidableEq, Repr

/-- A clock at reset. -/
def Clock.reset : Clock :=
  { lc := 0, bellLc := 0, ref56 := 0, lost := 0, lost224 := 0, countedTo := 0, stretching := false, since := 0, events := 0, lastBell := 0, lastEvents := 0, total := 0 }

/-- The carder's transfers and the loft. -/
structure Carder where
  jobs : List CJob
  present : List Access
  sent : List Sent
  nextTag : Nat
  loft : List LoftLine
  loftWaits : List LoftWait
deriving DecidableEq, Repr

/-- An idle carder with an empty loft. -/
def Carder.reset : Carder :=
  { jobs := [], present := [], sent := [], nextTag := 0, loft := [], loftWaits := [] }

/-- Service state of the position (Table 20.5). -/
structure Service where
  oos : Bool
  cause : Nat
  stream : Nat
deriving DecidableEq, Repr

/-- One spindle position. `fetchFree` is the sc of the treadle's next fetch at the earliest, `pend` the writes that are not visible yet in
the order of their sc. -/
structure Spindle where
  streams : List Stream
  sems : List Nat
  sigs : List Sig
  fetchFree : Nat
  distaff : Distaff
  pend : List Pend
  whorl : Whorl
  carder : Carder
  hank : Hank
  reeler : Reeler
  ctr : Counters
  clock : Clock
  outliers : Nat
  syncErr : Nat
  marked : Bool
  halfRun : Option Nat
  fendPhase : Option Nat
  skipping : Nat
  service : Service
deriving DecidableEq, Repr

/-- A position at reset. -/
def Spindle.reset : Spindle :=
  { streams := List.replicate 6 Stream.reset, sems := List.replicate 16 0, sigs := [], fetchFree := 0, distaff := Distaff.reset,
    pend := [],
    whorl := Whorl.reset, carder := Carder.reset, hank := Hank.reset, reeler := Reeler.reset,
    ctr := Counters.reset, clock := Clock.reset, outliers := 0, syncErr := 0, marked := false,
    halfRun := none, fendPhase := none, skipping := 0, service := { oos := false, cause := 0, stream := 7 } }

end Sys2Proof.Machine
end

