-- ==== Sys2Proof/Machine/Package.lean ====
section
/-!
DEFINITION. The state outside the spindle positions: belfry and jobs, register file, fabric and HBM, ply ports, host
interface, lantern, thermal sites, keep, pins and boundary scan.
-/
namespace Sys2Proof.Machine

/-- The bell generator and the device's time (R19 to R35): bells since reset, reference time, slip counters, the reference
time of the last bell, the latest frame-end retirement of the frame (reference time, logical spindle), whether the
first bell has fired, the hold of R50, the reference time at which the last late host transfer completed and the logical
spindle that issued it (R33, R49). -/
structure BellGen where
  count : Nat
  refTime : Nat
  slipCount : Nat
  slipTotal : Nat
  lastBell : Nat
  lastSlip : Nat
  lastRet : Nat
  lastBy : Nat
  fired : Bool
  held : Bool
  waitTill : Nat
  waitBy : Nat
deriving DecidableEq, Repr

/-- An entry that is due to a completion ring (R358 to R360): the job (none: the device event ring), its type, code and 192-bit body, the
frame it arose in, and of an event the time in thousandths of an rc and the spindle it names, 0 for none (R359). -/
structure Entry where
  job : Option Nat
  type : Nat
  code : Nat
  body : Nat
  frame : Nat
  at_ : Nat := 0
  spd : Nat := 0
  slot : Option (Nat × List Byte) := none
deriving DecidableEq, Repr

/-- One side of a message channel (R301): the logical spindle bound to it, and for a sender the ring, credits, tail and count. The channel is
its port's owner's (R304). -/
structure ChanSide where
  spd : Nat
  entries : Nat
  lines : Nat
  ring : Nat
  linked : Bool
  credits : Nat
  tail : Nat
  sent : Nat
deriving DecidableEq, Repr

/-- A reply on its way to a position (R256, R281): what it answers and when it arrives, in the position's own count when it is `near` (a
loft hit, or a reply within the position), else in reference sc since the bell. -/
structure Reply where
  dst : Nat
  at_ : Nat
  near : Bool
  acc : Access
  data : List Byte
  poison : List Nat
  timeout : Bool
  ack : Bool
deriving DecidableEq, Repr

/-- An HBM line access (R340): the spindle (a port's attachment position for a partner's), the job whose credits it takes,
the access of the carder it is, whether it writes, the offset in the region, the data, their
poison, the symbols found in error, the sc of its presentation, then of its data's arrival or landing, and whether a hank mover moves it. -/
structure HbmAcc where
  pos : Nat
  job : Nat
  acc : Access
  write : Bool
  off : Nat
  data : List Byte
  poison : Bool
  errs : Nat
  at_ : Nat
  mover : Bool := false
deriving DecidableEq, Repr

/-- The line is one of the carder at position p, not of a partner whose port is attached there. -/
def HbmAcc.isOf (x : HbmAcc) (p : Nat) : Bool := x.pos == p && x.acc.via.isNone

/-- What a job has sent that has not landed or been answered, and the local counts of its spindles, in the order of their numbers (R272). -/
structure Flow where
  net : List Access
  replies : List Reply
  waiting : List HbmAcc
  granted : List HbmAcc
  counts : List Nat
deriving DecidableEq, Repr

/-- Nothing under way. -/
def Flow.none : Flow := { net := [], replies := [], waiting := [], granted := [], counts := [] }

/-- The schedule state that a checkpoint image of this device holds in a layout the manual leaves to the device (Table 20.3b): its
spindles, the channel sides bound to them, by port and channel, the sending side first, and what they have under way. -/
structure SavedJob where
  spindles : List Spindle
  chans : List (Nat × Nat × Option ChanSide × Option ChanSide)
  flow : Flow
deriving DecidableEq, Repr

/-- A checkpoint of a job that is outstanding (R480, R481): its descriptor's ring and index, AREA, LEN, whether it was taken, whether
its image but the header was written, the bell of its acceptance, then the close bell c,
and what was captured at bell c + 1: the header but its COUNTER, RDIGEST and DIGEST, and the schedule state. -/
structure Ckpt where
  ring : Nat
  idx : Nat
  area : Nat
  len : Nat
  taken : Bool
  written : Bool
  bell : Nat
  header : List Byte
  saved : SavedJob
deriving DecidableEq, Repr

/-- The numeric state of a job (R224). -/
structure Numeric where
  key : BitVec 64
  step : Nat
  nf : Bool
  a : Nat
  lse : Nat
  apply_ : Nat
  clean : Nat
  verdict : Bool
  skips : Nat
deriving DecidableEq, Repr

/-- Pace, budget and power state of a job (R322, R325, R396 to R400). -/
structure JobPower where
  npace : Nat
  nrun : Nat
  nhigh : Nat
  thr : Bool
  own : List Bool
  plag : List (List Bool)
  pup : List (List Bool)
  rebCount : Nat
  rebDue : Bool
  offset : Int
  learned : List (Nat × F32)
  q : F32
  rose : Bool
deriving DecidableEq, Repr

/-- A job slot (Table 14.9). `stepAt` is the step counter as the last bell found it; `rcptPrev` and `rcptPrevD` name the last job receipt
signed, and `rcptChain` is what the first job receipt since the start names instead (R411, R413); `mirrors` are the mirror records
read at the start, by logical number (R348); `abandoned`: a repair was abandoned (R478); `flow`: what a restore has loaded and the job's
first frame puts under way; `stopAt`: when a stop fault stopped its streams, in thousandths of an rc (R467), and whether one of them was
not confined to a half of a split whorl (R134). -/
structure Job where
  state : Nat
  reason : Nat
  ovf : Bool
  num : Numeric
  pwr : JobPower
  ports : Nat
  record : List Byte
  statlog : Nat
  rcptBase : Nat
  rcptSlots : Nat
  page : Nat
  phase : Nat
  fault : Option (Nat × Nat)
  stop : Bool
  stopAt : Nat := 0
  stopAll : Bool := false
  start : Option (Nat × Nat)
  startOk : Bool
  restoring : Bool
  stepAt : Nat
  firstBell : Nat
  statBells : Nat
  statSlips : Nat
  statSlip : Nat
  energy : List Nat
  rcptEnergy : List Nat
  rcptFirst : Nat
  rcptFirstRt : Nat
  rcptPrev : Nat
  rcptPrevD : BitVec 512
  rcptHeld : Bool
  rcptRestored : Bool
  rcptChain : Option (Nat × BitVec 512)
  mirrors : List (Nat × List Byte)
  abandoned : Bool
  flow : Flow
  statDue : Bool
  closeBell : Bool
  ckpt : Option Ckpt
  ckptArea : Nat
  ckptBell : Nat
deriving DecidableEq, Repr

/-- Numeric state of a slot before its first job (Tables 8.12 to 8.14). -/
def Numeric.reset : Numeric :=
  { key := 0#64, step := 0, nf := false, a := 0, lse := 0x7F, apply_ := 0x7F, clean := 0, verdict := false, skips := 0 }

/-- Power state of a slot before its first job. -/
def JobPower.reset : JobPower :=
  { npace := 0, nrun := 0, nhigh := 0, thr := false, own := [], plag := List.replicate 6 [],
    pup := List.replicate 6 [], rebCount := 0, rebDue := false, offset := 0, learned := [], q := zero32 false, rose := false }

/-- An Idle slot. -/
def Job.reset : Job :=
  { state := 0, reason := 0, ovf := false, num := Numeric.reset, pwr := JobPower.reset, ports := 0, record := [],
    statlog := 0, rcptBase := 0, rcptSlots := 0, page := 0, phase := 0, fault := none, stop := false, start := none,
    startOk := false, restoring := false, stepAt := 0, firstBell := 0, statBells := 0, statSlips := 0, statSlip := 0,
    energy := List.replicate 5 0, rcptEnergy := List.replicate 5 0, rcptFirst := 0, rcptFirstRt := 0, rcptPrev := 0,
    rcptPrevD := 0#512, rcptHeld := false, rcptRestored := false, rcptChain := none, mirrors := [], abandoned := false, flow := Flow.none, statDue := false, closeBell := false, ckpt := none,
    ckptArea := 0, ckptBell := 0 }

/-- A staged field: its register offset, the mask of the bits staged and their value (R455). -/
structure Staged where
  off : Nat
  mask : Nat
  value : Nat
deriving DecidableEq, Repr

/-- The register file (R13, R455 to R458): ST fields in effect where they differ from reset, staged fields, the commit
request with its TAG, the snapshot under validation with its TAG, and the last result. -/
structure Regs where
  eff : List (Nat × Nat)
  staged : List Staged
  request : Option Nat
  snap : Option (Nat × List Staged)
  result : Nat
  tag : Nat
  field : Nat
deriving DecidableEq, Repr

/-- Repair state (R475 to R478): the refills that wait, the running one first (job, logical number), the job of the last
hold, unremapped failures, and the numbers changed by a remap since power-up. -/
structure Repair where
  queue : List (Nat × Nat)
  active : Bool
  finished : List (Nat × Nat)
  failed : List Nat
  remapped : List Nat
deriving DecidableEq, Repr

/-- A reservation of a mesh link or bridge channel between two routers, or of a lane of a bridge between two spires (1,000 and more), at a
time in thousandths of an rc (R331, R341). -/
structure Link where
  src : Nat
  dst : Nat
  at_ : Nat
deriving DecidableEq, Repr

/-- A flit that has been admitted: the access it carries or answers (`back`), by the port it came through, its sender and its number, the
ratio of the clock that counts its steps, its reservations in the order of its route, and the spans of time whose stretches have delayed it. -/
structure Flit where
  via : Option Nat
  sender : Nat
  tag : Nat
  back : Bool
  ratio : Nat
  links : List Link
  spans : List (Nat × Nat) := []
deriving DecidableEq, Repr

/-- A flit whose sending time no admission foresees, not yet admitted (R332): as it goes when nothing holds it, its origin, the position
whose cycles count its way with the reference cycle since the bell of its first step, and its steps. -/
structure LateFlit where
  flit : Flit
  origin : Nat
  dst : Nat
  k : Nat
  steps : List (Nat × Nat × Nat)
deriving DecidableEq, Repr

/-- A write of a sending carder that landed in this frame, at a time in thousandths of an rc (R264). -/
structure Landing where
  key : Nat
  tag : Nat
  at_ : Nat
deriving DecidableEq, Repr

/-- The mesh and the bridges: accesses admitted and under way, replies under way, the flits that hold reservations, and the writes that
landed in this frame or will, and the flits that wait for their admission. An access under way carries its arrival in 56ths of its target's
reference sc since the bell; one of the target's own carder carries its sc. -/
structure Fabric where
  net : List Access
  replies : List Reply
  flits : List Flit
  lands : List Landing
  lates : List LateFlit := []
deriving DecidableEq, Repr

/-- The HBM stacks (R336 to R345): bytes by offset from the region's base, poisoned lines, lines with symbols in error, the
accesses that wait for a grant and those granted, credits of the cycle by (job, stack, channel), the cycle's number in the
frame, stack counters, readings, scrub lines with the line in error that is still to be written back, and self-refresh. -/
structure Hbm where
  mem : Mem
  poison : List Nat
  errs : List (Nat × Nat)
  waiting : List HbmAcc
  granted : List HbmAcc
  credits : List (Nat × Nat)
  cycle : Nat
  corr : List Nat
  uncorr : List Nat
  bg : List Nat
  corrSeen : List Nat
  hot : List Bool
  scrub : List Nat
  back : List (Option Nat)
  passes : List Nat
  selfRefresh : Bool
deriving DecidableEq, Repr

/-- An item at a port, and the transaction it becomes (Table 11.3): TYPE, the carder it comes from or answers and its number
there, ADDR, FINAL, FMT, BLEN, OSLOT, COUNT, FLAG, AUX, its payload, whether a word of the payload is poisoned, the time in
thousandths of an rc at which it reaches the port, its accesses, whether it has waited for a window (R299), and the device address of the
poisoned word, and the time in thousandths of an rc of its presentation by its carder. -/
structure PlyItem where
  type : Nat
  src : Nat
  tag : Nat
  addr : Nat
  final : Bool
  fmt : Nat
  blen : Nat
  oslot : Nat
  count : Nat
  flag : Bool
  aux : Nat
  data : List Byte
  poison : Bool
  at_ : Nat
  accs : List Access
  waited : Bool
  bad : Nat := 0
  pres : Nat := 0
deriving DecidableEq, Repr

/-- An item answers an access: a GETREP, a CFEREP or an ACK (Table 11.3). -/
def PlyItem.isAnswer (x : PlyItem) : Bool := x.type == 3 || x.type == 6 || x.type == 7

/-- An item of a type, without contents. -/
def PlyItem.blank (type : Nat) : PlyItem :=
  { type := type, src := 0, tag := 0, addr := 0, final := false, fmt := 0, blen := 0, oslot := 0, count := 1, flag := false,
    aux := 0, data := [], poison := false, at_ := 0, accs := [], waited := false }

/-- A frame as it was sent (R296): its header, its width and the lane carried on L16, and its transactions. -/
structure SentFrame where
  header : Nat
  width : Nat
  spare : Nat
  trans : List PlyItem
deriving DecidableEq, Repr

/-- A ply port (Tables 11.7 to 11.10). `raw` is the raw delay measured by the last training, which `boot` tells was a power-up's; `wire`
the transactions admitted and not yet in a frame that has ended, `frameAt` the time in fifths of an rc at which the frame under way began,
`last` the last frame sent, `shut` the frame until whose end a narrowing holds admission (R307); `tx` what the last window admitted. -/
structure Port where
  state : Nat
  step : Nat
  cls : Nat
  txw : Nat
  txsp : Nat
  rxw : Nat
  rxsp : Nat
  rxfail : List Nat
  request : Option (Nat × Nat × Nat)
  sendReq : Option (Nat × Nat × Nat)
  narrow : Bool
  seqIn : Nat
  seqOut : Nat
  paceN : Nat
  paceLag : Nat
  paceThr : Bool
  sentN : Nat
  sentLag : Nat
  sentThr : Bool
  errOut : Bool
  badSeen : Bool
  errSeen : Bool
  downFrames : Nat
  downOut : Nat
  corrected : List (Nat × Nat)
  items : List PlyItem
  sent : List PlyItem
  tx : List PlyItem
  window : Nat
  wire : List PlyItem
  frameAt : Nat
  last : Option SentFrame
  shut : Option Nat
  raw : Option Nat
  boot : Bool
  send : List (Option ChanSide)
  recv : List (Option ChanSide)
  fecCorr : Nat
  frameBad : Nat
  admitWait : Nat
  chStall : List Nat
deriving DecidableEq, Repr

/-- A port before training (Table 11.8). -/
def Port.reset : Port :=
  { state := 0, step := 0, cls := 0, txw := 0, txsp := 31, rxw := 0, rxsp := 31, rxfail := [], request := none,
    sendReq := none, narrow := false, seqIn := 0, seqOut := 0, paceN := 0, paceLag := 0, paceThr := false, sentN := 0,
    sentLag := 0, sentThr := false, errOut := false, badSeen := false, errSeen := false, downFrames := 0, downOut := 0,
    corrected := [], items := [], sent := [], tx := [], window := 0, wire := [],
    frameAt := 0, last := none, shut := none, raw := none, boot := false, send := List.replicate 8 none,
    recv := List.replicate 8 none, fecCorr := 0, frameBad := 0, admitWait := 0, chStall := List.replicate 8 0 }

/-- A submission ring (R353): head, tail, fetch error, and the tail as the last bell found it, which bounds what the fetcher may take
in this frame (R355). -/
structure SqRing where
  head : Nat
  tail : Nat
  err : Bool
  seen : Nat
deriving DecidableEq, Repr

/-- A submission ring when it is enabled. -/
def SqRing.reset : SqRing := { head := 0, tail := 0, err := false, seen := 0 }

/-- A completion ring or the device event ring (R358, R360): tail, head, phase, entries held, entries lost. -/
structure CqRing where
  tail : Nat
  head : Nat
  phase : Bool
  held : List Entry
  lost : Nat
deriving DecidableEq, Repr

/-- A descriptor in the device (R355, R356, R361): ring, index, its 64 bytes as a number, the job record fetched with a
JOB_START, the bell of its acceptance with its reference time (none: fetched), whether it has started, its status once its last
effect is in place, whether it has completed, the energy charged to it by class, the job its ring served at the
fetch, and whether that job was Held in a bell since. A descriptor stays until its request
completes. -/
structure Desc where
  ring : Nat
  idx : Nat
  word : Nat
  record : List Byte
  accepted : Option (Nat × Nat)
  started : Bool
  result : Option Nat
  done : Bool
  energy : List Nat
  job : Nat
  held : Bool
deriving DecidableEq, Repr

/-- A request that waits for its receipt or a job receipt that waits for the keep (R411). `chain` is what PREV and PREVD name for the first
job receipt since a start or restore (R413). -/
structure RcptReq where
  kind : Nat
  job : Nat
  flags : Nat
  reqtag : Nat
  firstBell : Nat
  firstRt : Nat
  lastBell : Nat
  endRt : Nat
  energy : List Nat
  step : Nat
  base : Nat
  slots : Nat
  chain : Option (Nat × BitVec 512)
deriving DecidableEq, Repr

/-- A CHOST transfer in flight (R366). -/
structure Xfer where
  pos : Nat
  lnum : Nat
  job : Nat
  get : Bool
  note : Bool
  tag : Nat
  lines : Nat
  local_ : Nat
  host : Nat
  frame : Nat
  late : Bool
deriving DecidableEq, Repr

/-- A completion ring when it is enabled. -/
def CqRing.reset : CqRing := { tail := 0, head := 0, phase := true, held := [], lost := 0 }

/-- What a job's snapshot finds at its close bell: every distaff's bytes by position, and those of HBM (R243). Since then `other` gives the bytes
that another writer has put at device addresses, and `own` names those that the job had already changed there. -/
structure Shot where
  job : Nat
  dist : List Mem
  hbm : Mem
  other : List (Nat × Byte) := []
  own : List Nat := []
deriving DecidableEq, Repr

/-- A message the device sends out of the block, by kind: 0 an MSI-X vector, 1 an answer on CXL.io or CXL.cache, 2 on DOE, 3 on the
sideband, 4 the value of a register read, 5 CXL.mem data after a poison flag, 6 bits at TDO; and its bytes. -/
structure OutMsg where
  kind : Nat
  bytes : List Byte
deriving DecidableEq, Repr

/-- The host interface (R350 to R372). `cxl` holds the dwords of the function's own registers that differ from reset (R350, R351). -/
structure Hif where
  sq : List SqRing
  cq : List CqRing
  due : List Entry
  turn : Nat
  fetched : Nat
  descs : List Desc
  receipts : List RcptReq
  signed : Nat
  link : Bool
  width : Nat
  fast : Bool
  perst : Bool
  host : Mem
  hostPoison : List Nat
  xfers : List Xfer
  shots : List Shot
  msix : Mem
  msixPend : List Nat
  out : List OutMsg
  evRecv : Option Nat
  alerts : List (List Byte)
  cxlWait : List (Nat × Nat × Option (List Byte))
  cxl : List (Nat × Nat)
deriving DecidableEq, Repr

/-- Regulator, oscillator and ageing state of a position (Tables 15.7 and 16.10): failed phases, converter, dark with its cause, excluded
droop sensors and their runs, cap percentage, cracked-bump run, wake state with the last ramp step, the bell of the request, whether a sample
since then has let the ramp start, and the rc of the last ramp step, VCORE and VSRAM currents in mA, the latest 100 samples, limit level, margin in steps of 5 mV, last ring-oscillator
counts and the bell of the last measurement, VCORE setpoint in force and the one it moves to in mV, the rc of the last increment, the
ratio in force and the one the reference count runs at, and bells without an owner. -/
structure PosPower where
  phfail : List Nat
  sramFail : Bool
  dark : Bool
  cause : Nat
  excl : List Nat
  droopRun : List Nat
  capPct : Nat
  bump : Bool
  bumpRun : Nat
  wake : Nat
  step : Nat
  wakeReq : Option Nat
  ready : Bool
  rampAt : Nat
  amps : Nat
  sram : Nat
  hist : List Nat
  level : Nat
  margin : Nat
  ro0 : Nat
  ro1 : Nat
  agedAt : Option Nat
  mv : Nat
  target : Nat
  stepAt : Nat
  ratio : Nat
  goal : Nat
  idle : Nat
deriving DecidableEq, Repr

/-- A position's power state before power-up. -/
def PosPower.reset : PosPower :=
  { phfail := [], sramFail := false, dark := false, cause := 0, excl := [], droopRun := List.replicate 8 0,
    capPct := 100, bump := false, bumpRun := 0, wake := 0, step := 0, wakeReq := none, ready := false, rampAt := 0, amps := 0, sram := 0,
    hist := [], level := 0, margin := 0, ro0 := 0, ro1 := 0, agedAt := none, mv := 450, target := 450, stepAt := 0, ratio := 56, goal := 56,
    idle := 0 }

/-- Power state of a spire (Tables 15.5, 15.6, 16.8). -/
structure SpirePower where
  edgeFail : Nat
  mv : Nat
  ma : Nat
  hist : List Nat
  edgeHist : List Nat
  rails : List Nat
  railHist : List (List Nat)
  vaonHist : List Nat
  hits : Nat
  vinSeen : Bool
deriving DecidableEq, Repr

/-- A spire's power state before power-up. -/
def SpirePower.reset : SpirePower :=
  { edgeFail := 0, mv := 0, ma := 0, hist := [], edgeHist := [], rails := [0, 0, 0, 0, 0],
    railHist := List.replicate 5 [], vaonHist := [], hits := 0, vinSeen := false }

/-- Energy in samples of 1 µW (975.2 ns each): by position (class 0), by spire (classes 1 to 3), and of VAON. -/
structure Meter where
  e0 : List (Nat × Nat)
  eSpire : List (List Nat)
  eAon : Nat
deriving DecidableEq, Repr

/-- No energy. -/
def Meter.zero : Meter := { e0 := [], eSpire := List.replicate 4 [0, 0, 0], eAon := 0 }

/-- The lantern: positions, spires, package power history, events raised in the bell, the bell's energy as a `Meter` holds it, idle energy
in units of 2^-16 uJ, VAON current, the lines and link bytes moved in the bell by payer (a job, or 9 more than 65,536 times a ring's number and
a descriptor's index) and as overhead, and the rc of the last sample with the energy that it added (R406). -/
structure Lantern where
  pos : List PosPower
  spire : List SpirePower
  pkgHist : List Nat
  raised : List Nat
  e0 : List (Nat × Nat)
  eSpire : List (List Nat)
  eAon : Nat
  idleUj : Nat
  vaon : Nat
  lines : List (Nat × Nat)
  ovhLines : Nat
  bytes : List (Nat × Nat)
  ovhBytes : Nat
  sampleAt : Nat
  fresh : Meter
deriving DecidableEq, Repr

/-- A thermal site (Table 17.6). `trace` holds the bells at which the pair's codes changed, with the codes, the latest first, as far back as a
stuck sensor is judged (R419). -/
structure Site where
  a : Nat
  b : Nat
  excl : List Nat
  suspect : Bool
  run : Nat
  acked : Bool
  warn : Bool
  blindAt : Option Nat
  trace : List (Nat × Nat × Nat)
deriving DecidableEq, Repr

/-- A site before its first sample. -/
def Site.reset : Site :=
  { a := 0, b := 0, excl := [], suspect := false, run := 0, acked := false, warn := false, blindAt := none, trace := [] }

/-- The thermal state: sites, thermistors, the bell of the last E-0x706, and the always-on trip records. -/
structure Thermal where
  sites : List Site
  inlet : Nat
  outlet : Nat
  coolantAt : Option Nat
  trip : Option (Nat × Nat × Nat)
  tripped : Bool
  tripDue : Bool
  vinTrip : List Nat
  vinOff : Bool
  comparators : List Nat
deriving DecidableEq, Repr

/-- What a slot of the flash holds (Table 18.2): nothing that was written, an image that the device was made with, or the bytes that an operation
wrote there. -/
inductive Stored where
  | erased
  | factory (svn : Nat) (floor : Bool) (digest : BitVec 512)
  | record (bytes : List Byte)
deriving DecidableEq, Repr

/-- A state sector (R430): its write sequence, the rollback floors, the operator's key and the configuration floor. -/
structure StateSector where
  seq : Nat
  floors : List Nat
  operator : Option (BitVec 1056)
  cfgFloor : Nat
deriving DecidableEq, Repr

/-- A valid configuration record (R439). -/
structure CfgRec where
  seq : Nat
  entries : List (Nat × Nat)
  digest : BitVec 512
deriving DecidableEq, Repr

/-- The vendor test record (R433): validity, digest, vf by ratio with overrides by position, core frequencies, CALID, UNC,
the sense-path and sensor coefficients and the trip-comparator trims as the words of the record, ring-oscillator test counts with
overrides by position, and the initial spare map as site codes. The manual gives no layout and no use of `sense` and `trims`: what
the commands bring as readings is already corrected by them (assumption 77). -/
structure TestRec where
  valid : Bool
  digest : BitVec 512
  vf : List Nat
  vfPos : List (Nat × List Nat)
  cores : Nat
  calid : Nat
  unc : Nat
  sense : List Nat
  trims : List Nat
  ro : Nat
  roPos : List (Nat × Nat)
  map : List Nat
deriving DecidableEq, Repr

/-- An entry of the margin log (R405): the position, its old and new margin in steps of 5 mV, the two corrected counts and the bell. -/
structure MarginEntry where
  pos : Nat
  old : Nat
  new : Nat
  ro0 : Nat
  ro1 : Nat
  bell : Nat
deriving DecidableEq, Repr

/-- The keep: flash and what it holds in its own memory (chapter 18). `floors`, `operator` and `cfgFloor` are the values in use, which the state
sectors hold (R430). `ring` is the counter ring by its 16 sectors, each reservation a bound and what stands in its complement's place, `resv` the
place of the next (R438). An entry of the margin log that was written in part is none (R431). -/
structure Keep where
  images : List (List Stored)
  preferred : List Nat
  floors : List Nat
  operator : Option (BitVec 1056)
  cfgFloor : Nat
  cfg : List Stored
  test : TestRec
  sectors : List (Option StateSector)
  ring : List (List (Nat × Nat))
  resv : Nat
  bound : Nat
  next : Nat
  marginLog : List (Option MarginEntry)
  dik : Nat
  ak : Nat
  akCert : List Byte
  nk : BitVec 512
  devid : BitVec 512
  nonce : BitVec 256
  stage : Nat
  stopped : Bool
  slots : List Nat
  ksvn : Nat
  cfgApplied : Bool
  log : List (Nat × Nat × BitVec 512)
  opState : Nat
  opCode : Nat
  op : Nat
  opLen : Nat
deriving DecidableEq, Repr

/-- Power-up and sleep (Tables 19.9, 19.10): the last step completed, the no-job state, whether the last power-up followed a deep sleep
and its time, the sleep state in effect (0 run, 1 light, 2 deep), a wake cause that arrived, RESET_N low, the power-up that waits for VIN at
step 1, VIN outside its window, BEL_COUNT as saved, the state entered whose E-0x010 is due, regulators off, VAON applied. -/
structure Power where
  step : Nat
  noJob : Bool
  deepWake : Bool
  timeUs : Nat
  sleep : Nat
  wakeDue : Bool
  reset : Bool
  waiting : Option PowerUp
  vinBad : Bool
  savedBell : Nat
  modeAt : Option Nat := none
  slept : Option Nat
  off : Bool
  vaon : Bool
deriving DecidableEq, Repr

/-- Pins and the TAP (R511 to R515): the trip pins and the alert, the straps and whether they are taken, the TAP's instruction and boundary register,
whether TRST_N is high, and whether the last scan found VSER and VSERH within range. -/
structure Pins where
  thermtrip : Bool
  vfault : Bool
  alert : Bool
  strap : Nat
  strapped : Bool
  tap : Nat
  cells : List Bool
  trstHigh : Bool
  ser : Bool
deriving DecidableEq, Repr

end Sys2Proof.Machine
end

