-- ==== Sys2Proof/Machine/State.lean ====
section
/-!
DEFINITION. The state of the block, the reasons a step can stop, and the state after reset.
-/
namespace Sys2Proof.Machine

/-- The state of the block. `pending` is the queue of commands that wait, first in first out. `images` holds, by the DIGEST of its
header, the schedule state of each checkpoint image written (assumption 43). `free` counts the draws of free values (the model's own field, assumption 3). -/
structure State where
  pending : List Instr
  bell : BellGen
  regs : Regs
  jobs : List Job
  map : List Nat
  xing : List (Nat × Nat)
  spindles : List Spindle
  fabric : Fabric
  hbm : Hbm
  ports : List Port
  hif : Hif
  lantern : Lantern
  thermal : Thermal
  keep : Keep
  repair : Repair
  power : Power
  pins : Pins
  syncCap : List (Nat × Nat)
  images : List (BitVec 512 × SavedJob)
  free : Nat
deriving DecidableEq, Repr

/-- Reasons to stop with a fault. -/
inductive Fault where
  /-- The command names a position, stream, half, port, channel, lane, ring, job, stack, site or spire that the spec does
  not give the block. Raised by the lookup that every meaning makes. Safe: no such unit exists. -/
  | noSuchUnit (kind : String) (index : Nat)
deriving DecidableEq, Repr

/-- Reasons to refuse. -/
inductive Refusal where
  /-- The command has no meaning in the model yet: raised by its arm of `exec`. Safe. -/
  | notModelled (mnemonic : String)
deriving DecidableEq, Repr

/-- The default spare map (R16) as site codes: logical n sits at site n + 12 (n div 144), since column 12 of each spire
is spare. -/
def defaultMap : List Nat := (List.range 576).map (fun n => n + 12 * (n / 144))

/-- The bell generator at reset (R21). -/
def BellGen.reset : BellGen :=
  { count := 0, refTime := 0, slipCount := 0, slipTotal := 0, lastBell := 0, lastSlip := 0, lastRet := 0, lastBy := 0,
    fired := false, held := false, waitTill := 0, waitBy := 0 }

/-- The flash and the keep at the first power-up of a part (assumption 8): images in slots A, no operator, a test record with
the default spare map. -/
def Keep.reset : Keep :=
  { images := List.replicate 3 [.factory 0 false 0#512, .erased], preferred := [0, 0, 0], floors := [0, 0, 0], operator := none,
    cfgFloor := 0, cfg := [.erased, .erased],
    test := { valid := true, digest := 0#512, vf := (List.range 64).map (fun n => 450 + 4 * n), vfPos := [],
              cores := 0x2020202020202020, calid := 0, unc := 15000, sense := [], trims := [], ro := 32768, roPos := [], map := defaultMap },
    sectors := [some { seq := 0, floors := [0, 0, 0], operator := none, cfgFloor := 0 }, none], ring := List.replicate 16 [], resv := 0,
    bound := 1, next := 0, marginLog := [], dik := 0, ak := 0, akCert := [], nk := 0#512, devid := 0#512, nonce := 0#256,
    stage := 0, stopped := false, slots := [0, 0, 0], ksvn := 0, cfgApplied := false, log := [],
    opState := 0, opCode := 0, op := 0, opLen := 0 }

/-- The machine right after reset: every register at the value the manual states, nothing powered up yet (R445, R449). -/
def State.reset : State :=
  { pending := [], bell := BellGen.reset,
    regs := { eff := [], staged := [], request := none, snap := none, result := 0, tag := 0, field := 0 },
    jobs := List.replicate 8 Job.reset, map := defaultMap, xing := [],
    spindles := List.replicate 624 Spindle.reset, fabric := { net := [], replies := [], flits := [], lands := [] },
    hbm := { mem := [], poison := [], errs := [], waiting := [], granted := [], credits := [], cycle := 0,
             corr := List.replicate 8 0, uncorr := List.replicate 8 0, bg := List.replicate 8 0, corrSeen := [],
             hot := List.replicate 8 false, scrub := List.replicate 8 0, back := List.replicate 8 none, passes := List.replicate 8 0,
             selfRefresh := false },
    ports := List.replicate 6 Port.reset,
    hif := { sq := List.replicate 64 SqRing.reset, cq := List.replicate 9 CqRing.reset, due := [], turn := 0,
             fetched := 0, descs := [], receipts := [], signed := 0, link := false, width := 0, fast := false,
             perst := true, host := [], hostPoison := [], xfers := [], shots := [], msix := (List.range 9).map (fun v => (16 * v + 12, 1#8)), msixPend := [], out := [],
             evRecv := none, alerts := [], cxlWait := [], cxl := [] },
    lantern := { pos := List.replicate 624 PosPower.reset, spire := List.replicate 4 SpirePower.reset, pkgHist := [],
                 raised := [], e0 := [], eSpire := List.replicate 4 [0, 0, 0], eAon := 0, idleUj := 0, vaon := 0,
                 lines := [], ovhLines := 0, bytes := [], ovhBytes := 0, sampleAt := 0, fresh := Meter.zero },
    thermal := { sites := List.replicate 640 Site.reset, inlet := 0, outlet := 0, coolantAt := none, trip := none,
                 tripped := false, tripDue := false, vinTrip := [], vinOff := false, comparators := [] },
    keep := Keep.reset,
    repair := { queue := [], active := false, finished := [], failed := [], remapped := [] },
    power := { step := 0, noJob := false, deepWake := false, timeUs := 0, sleep := 0, wakeDue := false, reset := true,
               waiting := none, vinBad := false, savedBell := 0, slept := none, off := false, vaon := true },
    pins := { thermtrip := false, vfault := false, alert := false, strap := 0, strapped := false, tap := 1, cells := [], trstHigh := false, ser := false },
    syncCap := [], images := [], free := 0 }

end Sys2Proof.Machine
end

