-- ==== Sys2Proof/Machine/Regs.lean ====
section
/-!
DEFINITION. The set-up registers' staged (ST) fields: where they lie, their reset values, and the values in effect
(R13, R455, chapter 21). The read of a whole register and the write and the commit stand in RegMap.lean and Commit.lean.
-/
namespace Sys2Proof.Machine

/-- True when `o` is a register of an instance block: base, stride, count. -/
def inBlock (o base stride count : Nat) : Bool := decide (base ≤ o) && decide ((o - base) % stride = 0) && decide ((o - base) / stride < count)

/-- The ST fields of the register at an offset, as [hi:lo] pairs (Tables 21.2 to 21.9). -/
def stFields (o : Nat) : List (Nat × Nat) :=
  if o = 0x08 then [(4, 0)]
  else if o = 0x10 then [(6, 0), (14, 8)]
  else if o = 0x18 then [(0, 0), (31, 8)]
  else if o = 0x50 then [(1, 0)]
  else if inBlock o 0x1008 0x40 8 then [(23, 16), (31, 24), (47, 32)]
  else if inBlock o 0x2000 8 144 then
    [(3, 0), (7, 4), (19, 16), (23, 20), (35, 32), (39, 36), (51, 48), (55, 52)]
  else if o = 0x10000 then [(11, 0), (19, 12), (20, 20)]
  else if o = 0x10008 then [(7, 0), (15, 8)]
  else if o = 0x10010 then [(7, 0)]
  else if inBlock o 0x11000 0x80 8 then [(7, 0), (15, 8), (27, 16)]
  else if inBlock o 0x11008 0x80 8 then [(0, 0), (1, 1), (12, 8), (31, 16), (47, 32)]
  else if o = 0x20008 then [(3, 0), (31, 8)]
  else if o = 0x20010 then [(63, 0)]
  else if o = 0x30008 || inBlock o 0x31000 0x20 64 || inBlock o 0x32000 0x100 8 then [(51, 12)]
  else if o = 0x30010 || inBlock o 0x32008 0x100 8 then [(0, 0), (1, 1), (6, 2)]
  else if inBlock o 0x31008 0x20 64 then [(0, 0), (3, 1), (8, 4)]
  else if decide (0x32000 ≤ o) && decide (o < 0x32800) && inBlock (o % 0x100) 0x40 8 9 then [(63, 0)]
  else if inBlock o 0x40000 0x100 6 then [(0, 0), (1, 1), (3, 2), (4, 4), (31, 16)]
  else if inBlock o 0x60000 8 8192 then [(62, 0)]
  else if decide (0x100000 ≤ o) && decide (o < 0x19C000) && o % 0x400 == 0x40 then [(4, 0), (5, 5), (7, 6), (19, 8), (47, 32)]
  else if decide (0x100000 ≤ o) && decide (o < 0x19C000) && o % 0x400 == 0x48 then [(15, 0), (31, 16), (47, 32), (63, 48)]
  else []

/-- The reset value of the ST fields of a register (their tables). -/
def stReset (o : Nat) : Nat :=
  if o = 0x08 then 16
  else if o = 0x10 then 0x035F
  else if o = 0x18 then 0x0100_0001
  else if inBlock o 0x1008 0x40 8 then 0x07D0_9E7F_0000
  else if o = 0x10000 then 3400 + put 16 12 + put 1 20
  else if o = 0x10008 then 0x0519
  else if o = 0x10010 then 15
  else if inBlock o 0x11000 0x80 8 then 56 + put 28 8 + put 2600 16
  else if inBlock o 0x11008 0x80 8 then 1 + put 8 8 + put 25 16 + put 200 32
  else if o = 0x30010 || inBlock o 0x32008 0x100 8 then 24
  else if inBlock o 0x31008 0x20 64 then 64
  else if inBlock o 0x40000 0x100 6 then 1 + put 64 16
  else if decide (0x100000 ≤ o) && decide (o < 0x19C000) && o % 0x400 == 0x40 then 0x0040_0002_00AC
  else if decide (0x100000 ≤ o) && decide (o < 0x19C000) && o % 0x400 == 0x48 then 0x0000_FFFF_0000_FFFF
  else 0

/-- A spare-map entry's 16 bits (Table 9.2): X, Y and REMAPPED. An unplaced number (R453) holds site 1,000. -/
def mapEntry (s : State) (n : Nat) : Nat :=
  let c := s.map.getD n 1000
  let xy := if c ≥ 624 then 15 + put 15 4 else (c % 156) / 12 + put (c % 12) 4
  xy + (if s.repair.remapped.contains n then 2 ^ 15 else 0)

/-- The word of BEL_SPARE_MAP that holds entries 4k to 4k + 3 (R497). -/
def mapWord (s : State) (k : Nat) : Nat :=
  mapEntry s (4 * k) + put (mapEntry s (4 * k + 1)) 16 + put (mapEntry s (4 * k + 2)) 32 + put (mapEntry s (4 * k + 3)) 48

/-- The value in effect of the ST fields of the register at `o`. -/
def st (s : State) (o : Nat) : Nat :=
  if inBlock o 0x2000 8 144 then mapWord s ((o - 0x2000) / 8)
  else (getKey o s.regs.eff).getD (stReset o)

/-- Set the ST fields in effect of a register. -/
def setSt (s : State) (o v : Nat) : State :=
  { s with regs := { s.regs with eff := if v = stReset o then delKey o s.regs.eff else insKey o v s.regs.eff } }

/-- Field [hi:lo] of a register's ST value. -/
def stf (s : State) (o hi lo : Nat) : Nat := fldN (st s o) hi lo

/-- The bell period P in rc (R19). -/
def period (s : State) : Nat := 2 ^ stf s 0x08 4 0
/-- The work window in rc (R23). -/
def workWin (s : State) : Nat := period s * stf s 0x10 6 0 / 100
/-- The stretch allowance in rc (R23). -/
def stretchWin (s : State) : Nat := period s * stf s 0x10 14 8 / 100
/-- The background window in rc (R23). -/
def backWin (s : State) : Nat := period s - workWin s - stretchWin s
/-- Elastic mode (R30). -/
def elastic (s : State) : Bool := stf s 0x18 0 0 == 1
/-- BEL_CTRL.SLIP_LIMIT (Table 1.7). -/
def slipLimit (s : State) : Nat := stf s 0x18 31 8

/-- SPN_QCHECK of a position. -/
def qcheck (s : State) (p : Nat) : Nat := st s (0x100040 + 0x400 * p)
/-- SPN_QSENS of a position. -/
def qsens (s : State) (p : Nat) : Nat := st s (0x100048 + 0x400 * p)

/-- Logical spindle n belongs to HIF_JOB_SET_j. -/
def inSet (s : State) (j n : Nat) : Bool := (st s (0x32040 + 0x100 * j + 8 * (n / 64))).testBit (n % 64)

/-- HIF_JOB_SET_j as ascending logical numbers. -/
def jobSet (s : State) (j : Nat) : List Nat := (List.range 576).filter (inSet s j)

/-- The slots HBM_PLAN reserves for job j in a page, stack and channel. -/
def planSlots (s : State) (j pg st_ ch : Nat) : Nat := st s (0x60000 + 8 * (((4 * j + pg) * 8 + st_) * 32 + ch))

end Sys2Proof.Machine
end

