-- ==== Sys2Proof/Machine/Ops.lean ====
section
/-!
DEFINITION. The named operations of the block: who owns a position, raising an event and what its disposition does
(R467, R487, R519), the step of one position, the issue of a word (R74), reads and writes of a distaff with its check bits
(R472), and the addresses of the device (R245 to R249).
-/
namespace Sys2Proof.Machine

/-- The outcome of a command. -/
abbrev Out := Host.Outcome State Fault Refusal

/-- Spindle at a site code. -/
def spAt (s : State) (p : Nat) : Spindle := s.spindles.getD p Spindle.reset
/-- Power state of a position. -/
def pwAt (s : State) (p : Nat) : PosPower := s.lantern.pos.getD p PosPower.reset
/-- Job slot. -/
def jobOf (s : State) (j : Nat) : Job := s.jobs.getD j Job.reset
/-- Change one spindle. -/
def modSp (s : State) (p : Nat) (f : Spindle → Spindle) : State := { s with spindles := modAt s.spindles p f }
/-- Change one job slot. -/
def modJob (s : State) (j : Nat) (f : Job → Job) : State := { s with jobs := modAt s.jobs j f }
/-- Change the power state of one position. -/
def modPw (s : State) (p : Nat) (f : PosPower → PosPower) : State :=
  { s with lantern := { s.lantern with pos := modAt s.lantern.pos p f } }

/-- The logical number at a position, if any (R250). -/
def lnumOf (s : State) (p : Nat) : Option Nat := s.map.findIdx? (· == p)
/-- The position of a logical number. -/
def posOf (s : State) (n : Nat) : Nat := s.map.getD n 1000
/-- A job runs: its slot is not Idle (R457). -/
def jobRuns (s : State) (j : Nat) : Bool := (jobOf s j).state != 0

/-- The job (slot not Idle) that owns a logical number. -/
def ownerOf (s : State) (n : Nat) : Option Nat :=
  (List.range 8).find? (fun j => (jobOf s j).state != 0 && inSet s j n)
/-- The job that owns a position. -/
def jobAt (s : State) (p : Nat) : Option Nat := (lnumOf s p).bind (ownerOf s)

/-- Disposition of an event code (Table 20.4): 0 reported, 1 stop fault, 2 bell fault. -/
def kindOf (code : Nat) : Nat :=
  if [0x111, 0x143, 0x201, 0x202, 0x203, 0x210, 0x211, 0x301, 0x302, 0x303, 0x304, 0x305, 0x312, 0x360, 0x361, 0x362,
      0x370, 0x407, 0x408, 0x409, 0x615, 0xA20, 0xA21, 0xA22, 0xA28, 0xA2B, 0xB01, 0xB03,
      0x602, 0x616, 0xA01, 0xA02].contains code then 1
  else if [0x311, 0x403, 0x404, 0x503, 0x504, 0x505, 0x606].contains code then 2
  else 0

/-- An event with no stream. -/
def ev (code da db : Nat) : Ev := { code := code, kind := kindOf code, stream := 7, woff := 0, da := da, db := db, rcd := none }
/-- An event of an instruction. -/
def evW (code stream woff da db : Nat) : Ev :=
  { code := code, kind := kindOf code, stream := stream, woff := woff, da := da, db := db, rcd := none }

/-- The 192-bit body of a TYPE 1 entry (Table 14.12, R519). -/
def evBody (s : State) (e : Ev) (lnum p : Option Nat) : Nat :=
  let pos := match p with | some c => put (c / 156) 10 + put (c % 156 / 12) 12 + put (c % 12) 16 | none => 0
  lnum.getD 0x3FF + pos + put e.stream 20 + put (e.woff % 2 ^ 32) 32 + put (s.bell.count % 2 ^ 32) 64
    + put (e.da % 2 ^ 32) 96 + put (e.db % 2 ^ 64) 128

/-- Put an entry among those due (R359). -/
def addDue (s : State) (e : Entry) : State := { s with hif := { s.hif with due := s.hif.due ++ [e] } }

/-! Shared time (R38, R40, R42) -/

/-- The fraction of the reference count that a position took over the last bell, in 56ths of an sc (R40). -/
def frac56 (s : State) (p : Nat) : Nat := (spAt s p).clock.ref56 % 56

/-- The cycles of a clock that are counted as lost since the last bell, in 56ths. -/
def lost56 (c : Clock) : Nat := 56 * c.lost + c.lost224 / 4

/-- What a position's clock has counted since the last bell, in 56ths of an sc: the reference count, and the local count from its value at the
bell, at the rc up to which lost cycles are known. -/
def countedRef (s : State) (p : Nat) : Nat := ((spAt s p).clock.countedTo - s.bell.lastBell) * (pwAt s p).goal
def countedLocal (s : State) (p : Nat) : Nat := countedRef s p + frac56 s p - lost56 (spAt s p).clock

/-- The position runs at the speed of its reference count. -/
def fullSpeed (w : PosPower) : Bool := w.level == 0 && w.ratio == w.goal

/-- 56ths of a cycle of position p from the last bell to the end of its local sc t: cycles lost so far are counted, and from there on each
local cycle lasts what the ratio in force and the limit level give it (R394, R397). -/
def since56 (s : State) (p t : Nat) : Nat :=
  let c := (spAt s p).clock
  let w := pwAt s p
  let d := 56 * (t - c.bellLc)
  if fullSpeed w || decide (d ≤ countedLocal s p) then d + lost56 c - frac56 s p
  else countedRef s p + (d - countedLocal s p) * 2 ^ w.level * w.goal / w.ratio

/-- The local sc of position p in which e 56ths of its reference cycles have passed since the bell. -/
def localAt (s : State) (p e : Nat) : Nat :=
  let c := (spAt s p).clock
  let w := pwAt s p
  if fullSpeed w || decide (e ≤ countedRef s p) then c.bellLc + cdiv (e + frac56 s p - lost56 c) 56
  else c.bellLc + cdiv (countedLocal s p + (e - countedRef s p) * w.ratio / (w.goal * 2 ^ w.level)) 56

/-- The first reference cycle of position q, by its number since the bell, that begins when e 56ths have passed or later; and what has passed
when cycle k ends. -/
def refCyc (s : State) (q e : Nat) : Nat := cdiv (e + frac56 s q) 56
def cycleEnd (s : State) (q k : Nat) : Nat := 56 * k - frac56 s q

/-- Reference sc since the bell at local sc t of position p. -/
def sinceBell (s : State) (p t : Nat) : Nat := refCyc s p (since56 s p t)

/-- The time, in thousandths of an rc, when e 56ths of position p's cycles have passed since the bell. -/
def tickOf (s : State) (p e : Nat) : Nat := s.bell.lastBell * 1000 + cdiv (e * 1000) (pwAt s p).goal

/-- The reference time of local sc t of a position in this frame. DESIGN CHOICE (assumption 78): an sc that ends between two reference cycles
counts at the end of the later. -/
def rcOf (s : State) (p t : Nat) : Nat := s.bell.lastBell + cdiv (since56 s p t) (pwAt s p).goal

/-- The loss of a position's cycles is known up to time t: no droop stretches it that is not counted up to there (assumption 79). -/
def lossKnown (s : State) (r t : Nat) : Bool :=
  let c := (spAt s r).clock
  !c.stretching || decide (t ≤ 1000 * c.since)

/-- The time of local sc t of position p is known. -/
def clockKnown (s : State) (p t : Nat) : Bool := lossKnown s p (tickOf s p (since56 s p t))

/-- The reference cycle of q since the bell that is `lat` on from the first that begins at or after the end of p's sc t (R42). -/
def arriveRef (s : State) (p q t lat : Nat) : Nat := refCyc s q (cdiv (since56 s p t * (pwAt s q).goal) (pwAt s p).goal) + lat

/-- Arrival at q, in q's sc, of what leaves p in its sc t and takes `lat` sc of the receiver (R42, R329). -/
def arriveAt (s : State) (p q t lat : Nat) : Nat := localAt s q (cycleEnd s q (arriveRef s p q t lat))

/-- Arrival at q of what leaves the die edge at reference time r, in rc (R42, R332). -/
def arriveRc (s : State) (q r lat : Nat) : Nat :=
  localAt s q (cycleEnd s q (refCyc s q ((r - s.bell.lastBell) * (pwAt s q).goal) + lat))

/-- The local sc of receiver q that has counted x 56ths of its reference cycles since the bell: x holds the stretches that have delayed what
arrives, so that the receiver counts them no second time (R42, R46). -/
def dueAt (s : State) (q x : Nat) : Nat :=
  let c := (spAt s q).clock
  c.bellLc + cdiv (x - lost56 c) 56

/-- A thermal, power or host event waits for the receiver that SetEventReceiver named, and SMB_ALERT_N goes low (Table 14.14,
Table 22.8). -/
def alertFor (s : State) (code body : Nat) : State :=
  if decide (0x500 ≤ code) && decide (code < 0x800) && s.hif.evRecv.isSome then
    { s with hif := { s.hif with alerts := s.hif.alerts ++ [leBytes 2 code ++ leBytes 24 body] }, pins := { s.pins with alert := true } }
  else s

/-- The time of an event in thousandths of an rc: that of its position's sc, or not before the last event of the frame (R359). -/
def eventTime (s : State) (p : Option Nat) : Nat :=
  match p with
  | some p => tickOf s p (since56 s p (spAt s p).clock.lc)
  | none => max (1000 * s.bell.refTime) (match s.hif.due.getLast? with | some e => if e.frame = s.bell.count then e.at_ else 0 | none => 0)

/-- The time of event e: its own sc where it names one. -/
def evTime (s : State) (e : Ev) (p : Option Nat) : Nat :=
  match p, e.at_ with
  | some q, some t => tickOf s q (since56 s q t)
  | _, _ => eventTime s p

/-- An event is posted (R368): on the job's ring where it names a job, else on the device event ring. -/
def postEv (s : State) (e : Ev) (j lnum p : Option Nat) : State :=
  let body := match e.rcd with | some r => r | none => evBody s e lnum p
  alertFor (addDue s { job := j, type := if e.rcd.isSome then 2 else 1, code := e.code, body := body, frame := s.bell.count,
                       at_ := evTime s e p, spd := match lnum with | some n => n + 1 | none => 0 }) e.code body

/-- The time of the event that came last. -/
def lastTime (s : State) : Nat := match s.hif.due.getLast? with | some e => e.at_ | none => 1000 * s.bell.refTime

/-- The first fault of a job is kept for the hold (R468); a stop fault stops its streams (R467), at the time of the event that it has
raised, with `all` also those of a half that runs on (R134). -/
def faultJob (s : State) (j code : Nat) (stop : Bool) (all : Bool := stop) : State :=
  modJob s j fun b => { b with fault := b.fault <|> some (code, s.bell.count), stop := b.stop || stop, stopAll := b.stopAll || all,
                               stopAt := if stop && !b.stop then lastTime s else b.stopAt }

/-- An event that names a position: posted for the job that owns it, with the effect of its disposition. -/
def raiseAt (s : State) (p : Nat) (e : Ev) : State :=
  let j := jobAt s p
  let s1 := postEv s e j (lnumOf s p) (some p)
  match j with
  | some j => if e.kind = 0 then s1 else faultJob s1 j e.code (e.kind != 2) (e.kind == 1)
  | none => s1

/-- An event that names no job (R368). -/
def raiseDev (s : State) (e : Ev) : State := postEv s e none none none

/-- An event of a job that names no spindle. -/
def raiseJob (s : State) (j : Nat) (e : Ev) : State :=
  let s1 := postEv s e (some j) none none
  if e.kind = 0 then s1 else faultJob s1 j e.code (e.kind == 1)

/-- Stream k of a spindle. -/
def strmOf (sp : Spindle) (k : Nat) : Stream := sp.streams.getD k Stream.reset
/-- Half h of a spindle. -/
def halfOf (sp : Spindle) (h : Nat) : Half := sp.whorl.halves.getD h Half.reset
/-- The class code of a word (R67). -/
def clsOf (w : KWord) : Nat := fld w 127 122

/-- A word of class c. -/
def isCls (c : Nat) (w : KWord) : Bool := clsOf w == c
/-- A word of class c whose field [hi:lo] is v. -/
def isOp (c hi lo v : Nat) (w : KWord) : Bool := clsOf w == c && fld w hi lo == v

/-- A checkpoint of the job is to be taken at this bell, which is a close bell after its acceptance (R481). -/
def takeDue (s : State) (b : Job) : Bool :=
  b.closeBell && match b.ckpt with | some c => !c.taken && decide (c.bell < s.bell.count) | none => false

/-- The job's streams dispatch nothing because of a checkpoint (R481). -/
def ckptHold (s : State) (b : Job) : Bool := takeDue s b || ((b.ckpt.map (·.taken)).getD false)

/-- The engines of a position have not stopped with it or with the device (R383, R423). -/
def live (s : State) (p : Nat) : Bool := !(pwAt s p).dark && !s.power.off

/-- The position is on and in service (R377, R383, R388, R474). -/
def powered (s : State) (p : Nat) : Bool :=
  (pwAt s p).wake == 0 && !(pwAt s p).dark && !(spAt s p).service.oos && !s.power.off

/-- Stream k of a position goes on after a stop fault: the other half's under R134, with its feeds. -/
def exempt (s : State) (p k : Nat) : Bool :=
  let h := (spAt s p).halfRun
  (h == some k || (k == 2 && h.isSome)) && match jobAt s p with | some j => !(jobOf s j).stopAll | none => false

/-- The job at position p dispatches words of stream k: it runs, nothing stops it (R134, R467), the position is on and does not skip. -/
def dispatches (s : State) (p k : Nat) : Bool :=
  match jobAt s p with
  | none => false
  | some j =>
    let b := jobOf s j
    b.state == 2 && (!b.stop || exempt s p k) && !s.bell.held && powered s p && !ckptHold s b
      && (spAt s p).skipping == 0

/-- What a step of one position may change: the spindle, the job's non-finite flag (R225), the events it raises and
the draws it takes. `runs` tells of each stream whether its job dispatches here, `cap` the sc in which a stop fault has stopped it; `late` is the sc in which the writes that are being made
become visible (none: at once), `reeler` that the reeler makes them. -/
structure Loc where
  sp : Spindle
  nf : Bool
  evs : List Ev
  free : Nat
  runs : Nat → Bool
  cap : Option Nat
  late : Option Nat
  reeler : Bool

/-- The sc of position p in which a stop fault has stopped the streams of its running job (R467). -/
def stopSc (s : State) (p : Nat) : Option Nat :=
  match jobAt s p with
  | some j =>
    let b := jobOf s j
    if b.state == 2 && b.stop then some (localAt s p ((b.stopAt - s.bell.lastBell * 1000) * (pwAt s p).goal / 1000)) else none
  | none => none

/-- The position as it stands. -/
def openPos (s : State) (p : Nat) : Loc :=
  { sp := spAt s p, nf := false, evs := [], free := s.free, runs := dispatches s p, cap := stopSc s p, late := none, reeler := false }

/-- The job's non-finite flag set (R225). -/
def setNf (s : State) (p : Nat) : State :=
  match jobAt s p with
  | some j => modJob s j fun b => { b with num := { b.num with nf := true } }
  | none => s

/-- The port and channel for whose credit the head word of stream C waits (R302). -/
def chanWait (sp : Spindle) : Option (Nat × Nat) :=
  let c := strmOf sp 4
  match c.waitSince, c.queue with
  | some _, q :: _ => if fld q.word 127 122 == 0x22 && fld q.word 121 120 == 1 then some (fld q.word 119 117, fld q.word 116 114) else none
  | _, _ => none

/-- The sc up to which a word of stream k counts that it waits, when the clock moves on to sc t: until its streams stopped, where they
have. -/
def Loc.waitsTo (l : Loc) (k t : Nat) : Nat :=
  if l.runs k then t else match l.cap with | some c => max l.sp.clock.lc (min t c) | none => l.sp.clock.lc

/-- PLY_CH_STALL counts the sc by which the clock of a position moves on while its stream C waits for a credit (R302, R320). -/
def tallyChan (s : State) (p : Nat) (l : Loc) : State :=
  match chanWait (spAt s p) with
  | some (q, c) =>
    let n := (openPos s p).waitsTo 4 l.sp.clock.lc - (spAt s p).clock.lc
    if n = 0 then s else
    { s with ports := modAt s.ports q fun x => { x with chStall := modAt x.chStall c (sat32 · n) } }
  | none => s

/-- The effect of a position's step on the state: its spindle, the flag, then its events in the order raised. -/
def closePos (s : State) (p : Nat) (l : Loc) : State :=
  let s1 := { modSp (tallyChan s p l) p (fun _ => l.sp) with free := l.free }
  let s2 := if l.nf then setNf s1 p else s1
  l.evs.foldl (fun t e => raiseAt t p e) s2

/-- A step of one position. -/
def runPos (s : State) (p : Nat) (f : Loc → Loc) : State := closePos s p (f (openPos s p))

/-- The lookup of a position. -/
def onPos (s : State) (p : Nat) (f : Loc → Loc) : Out :=
  if p < 624 then .next (runPos s p f) else .fault (.noSuchUnit "position" p)

/-- A unit of a count. -/
def onUnit (kind : String) (n i : Nat) (r : State) : Out := if i < n then .next r else .fault (.noSuchUnit kind i)

/-! Lines and bytes that energy is charged by (R408) -/

/-- The payer key of a descriptor. -/
def descKey (r i : Nat) : Nat := 9 + 65536 * r + i
/-- n more under a key. -/
def addKey (k n : Nat) (l : List (Nat × Nat)) : List (Nat × Nat) := if n = 0 then l else insKey k ((getKey k l).getD 0 + n) l
/-- HBM lines moved for a payer; payer 8 is no job: overhead. -/
def payLines (s : State) (k n : Nat) : State :=
  if k = 8 then { s with lantern := { s.lantern with ovhLines := s.lantern.ovhLines + n } }
  else { s with lantern := { s.lantern with lines := addKey k n s.lantern.lines } }
/-- Bytes moved over the host link for a payer. -/
def payBytes (s : State) (k n : Nat) : State :=
  if k = 8 then { s with lantern := { s.lantern with ovhBytes := s.lantern.ovhBytes + n } }
  else { s with lantern := { s.lantern with bytes := addKey k n s.lantern.bytes } }

/-! Loc operations -/

def Loc.raise (l : Loc) (e : Ev) : Loc := { l with evs := l.evs ++ [e] }
def Loc.flag (l : Loc) : Loc := { l with nf := true }
def Loc.mod (l : Loc) (f : Spindle → Spindle) : Loc := { l with sp := f l.sp }
def Loc.count (l : Loc) (f : Counters → Counters) : Loc := l.mod fun p => { p with ctr := f p.ctr }

/-- Change stream k. -/
def Loc.strm (l : Loc) (k : Nat) (f : Stream → Stream) : Loc := l.mod fun p => { p with streams := modAt p.streams k f }
/-- The distaff. -/
def Loc.dist (l : Loc) (f : Distaff → Distaff) : Loc := l.mod fun p => { p with distaff := f p.distaff }
/-- The carder. -/
def Loc.card (l : Loc) (f : Carder → Carder) : Loc := l.mod fun p => { p with carder := f p.carder }
/-- The hank. -/
def Loc.hankM (l : Loc) (f : Hank → Hank) : Loc := l.mod fun p => { p with hank := f p.hank }
/-- The reeler. -/
def Loc.reel (l : Loc) (f : Reeler → Reeler) : Loc := l.mod fun p => { p with reeler := f p.reeler }
/-- Change half h. -/
def Loc.half (l : Loc) (h : Nat) (f : Half → Half) : Loc :=
  l.mod fun p => { p with whorl := { p.whorl with halves := modAt p.whorl.halves h f } }
/-- Feed port q of a spindle. -/
def portOf (sp : Spindle) (q : Nat) : FeedPort := sp.whorl.ports.getD q FeedPort.reset
/-- Change feed port q. -/
def Loc.fport (l : Loc) (q : Nat) (f : FeedPort → FeedPort) : Loc :=
  l.mod fun p => { p with whorl := { p.whorl with ports := modAt p.whorl.ports q f } }

/-! The distaff (R54, R472) -/

/-- Bytes of a local distaff. -/
def distSize : Nat := 0x01C0_0000
/-- A range of bytes lies wholly in the local distaff. -/
def inDist (a n : Nat) : Bool := decide (a + n ≤ distSize)
/-- `n` bytes at a local offset. -/
def Loc.rd (l : Loc) (a n : Nat) : List Byte := memRead l.sp.distaff.mem a n
/-- An n-byte little-endian number. -/
def Loc.rdN (l : Loc) (a n : Nat) : Nat := memNat l.sp.distaff.mem a n
/-- A binary32 at a local offset. -/
def Loc.rd32 (l : Loc) (a : Nat) : F32 := BitVec.ofNat 32 (l.rdN a 4)
/-- A bfloat16 at a local offset. -/
def Loc.rd16 (l : Loc) (a : Nat) : B16 := BitVec.ofNat 16 (l.rdN a 2)

/-- The words (offset div 8) a byte range touches, as first and last. -/
def wordsOf (a n : Nat) : Nat × Nat := (a / 8, (a + n - 1) / 8)
/-- Word w lies in the range of words. -/
def inWords (r : Nat × Nat) (w : Nat) : Bool := decide (r.1 ≤ w) && decide (w ≤ r.2)
/-- Word w is covered whole by the byte range. -/
def wholeWord (a n w : Nat) : Bool := decide (a ≤ 8 * w) && decide (8 * w + 8 ≤ a + n)

/-- A read of a byte range finds the errors its words hold: one bit is corrected and counted, two poison the word, count and
raise E-0x306 (R471, R472). -/
def Loc.scrub (l : Loc) (a n : Nat) : Loc :=
  if n = 0 then l else
  let r := wordsOf a n
  let hit := l.sp.distaff.errs.filter (fun e => inWords r e.1)
  hit.foldl (fun l e =>
    let l := l.dist fun d => { d with errs := delKey e.1 d.errs }
    if popN 72 e.2 ≤ 1 then l.count fun c => { c with eccCorr := sat32 c.eccCorr 1 }
    else ((l.dist fun d => { d with poison := insNat e.1 d.poison }).count
            fun c => { c with eccPoison := sat32 c.eccPoison 1 }).raise (ev 0x306 (8 * e.1) 0)) l

/-- The first poisoned word of a byte range, as a local offset. -/
def Loc.poisonIn (l : Loc) (a n : Nat) : Option Nat :=
  if n = 0 then none else
  let r := wordsOf a n
  (l.sp.distaff.poison.find? (inWords r)).map (8 * ·)

/-- Bytes written in their bank: whole words take fresh check bits and lose errors and poison, words written in part are read
first (R472); the listed words (local offsets) are marked poisoned. -/
def Loc.store (l : Loc) (a : Nat) (bs : List Byte) (pw : List Nat) : Loc :=
  let n := bs.length
  if n = 0 then l else
  let r := wordsOf a n
  let part (w : Nat) := inWords r w && !wholeWord a n w
  let l := l.dist fun d =>
    { d with errs := d.errs.filter (fun e => !wholeWord a n e.1), poison := d.poison.filter (fun w => !wholeWord a n w) }
  let l := (l.sp.distaff.errs.filter (fun e => part e.1)).foldl (fun l e => l.scrub (8 * e.1) 8) l
  l.dist fun d => { d with mem := memWrite d.mem a bs, poison := pw.foldl (fun q o => insNat (o / 8) q) d.poison }

/-! Writes that become visible later (R55, R253, R254) -/

/-- Put a write in its place by sc, after those of the same sc and before the reads of it. -/
def insPend (e : Pend) : List Pend → List Pend
  | [] => [e]
  | x :: xs => if e.at_ < x.at_ || (e.at_ == x.at_ && x.fresh && !e.fresh) then e :: x :: xs else x :: insPend e xs

/-- A write of bytes that becomes visible in sc t. -/
def Pend.bytes (t a : Nat) (bs : List Byte) (pw : List Nat) : Pend :=
  { at_ := t, off := a, data := bs, poison := pw, nf := false, under := 0, nonFin := 0, ovf := 0, sat := 0 }

/-- A write waits for its sc. -/
def Loc.push (l : Loc) (e : Pend) : Loc := l.mod fun p => { p with pend := insPend e p.pend }

/-- A write whose listed words (local offsets) are marked poisoned: at once, or in the sc in which the writes being made become visible. -/
def Loc.wrP (l : Loc) (a : Nat) (bs : List Byte) (pw : List Nat) : Loc :=
  match l.late with
  | none => l.store a bs pw
  | some t => if bs.isEmpty then l else l.push { Pend.bytes t a bs pw with reel := l.reeler }

/-- A write of bytes. -/
def Loc.wr (l : Loc) (a : Nat) (bs : List Byte) : Loc := l.wrP a bs []

/-- The writes that `f` makes become visible in sc t. -/
def Loc.seenAt (l : Loc) (t : Nat) (f : Loc → Loc) : Loc := { f { l with late := some t } with late := l.late }

/-- The flag set by a write: in the sc in which its bank accepts it, 4 sc before it is visible (R55, R95). -/
def Loc.flagW (l : Loc) : Loc :=
  match l.late with
  | none => l.flag
  | some t => l.push { Pend.bytes (t - 4) 0 [] [] with nf := true }

/-- The flag is set when a written value is Inf or NaN (R225). -/
def Loc.flagIf (l : Loc) (b : Bool) : Loc := if b then l.flagW else l

/-- The memory as every write made so far leaves it. -/
def Spindle.soon (p : Spindle) : Mem := p.pend.foldl (fun m e => memWrite m e.off e.data) p.distaff.mem

/-- The 4-byte granules of a byte range whose words are poisoned. -/
def Loc.granules (l : Loc) (a n : Nat) : List Nat :=
  (List.range (cdiv n 4)).filter fun g => l.sp.distaff.poison.contains ((a + 4 * g) / 8)

/-- Bytes written with poisoned granules. -/
def Loc.wrG (l : Loc) (a : Nat) (bs : List Byte) (gs : List Nat) : Loc := l.wrP a bs (gs.map fun g => a + 4 * g)

/-- The lines of local copies that are visible 9 sc after sc t read their sources in sc t, errors and poison with them (R206, R256, R472). -/
def Loc.copyRead (l : Loc) (t : Nat) : Loc :=
  let mine (x : Pend) : Bool := x.src.isSome && x.at_ == t + 9
  let n := l.evs.length
  let l : Loc := (l.sp.pend.filter mine).foldl (fun l x => l.scrub (x.src.getD 0) x.data.length) l
  let l := { l with evs := l.evs.take n ++ (l.evs.drop n).map fun (v : Ev) => { v with at_ := some t } }
  let read (x : Pend) : Pend :=
    let o := x.src.getD 0
    { x with data := l.rd o x.data.length, poison := (l.granules o x.data.length).map fun g => x.off + 4 * g }
  l.mod fun p => { p with pend := p.pend.map fun x => if mine x then read x else x }

/-- A write becomes visible, or what goes with it comes about. -/
def Loc.landOne (l : Loc) (e : Pend) : Loc :=
  let l := if e.fresh then l.copyRead e.at_ else l
  let l := l.store e.off e.data e.poison
  let l := if e.nf then l.flag else l
  let l := match e.ev with | some v => { l with evs := l.evs ++ [{ v with at_ := some e.at_ }] } | none => l
  (l.mod fun p => { p with outliers := p.outliers + e.ovf }).count fun c => { c with
                             blkUnder := sat32 c.blkUnder e.under, nonFin := sat32 c.nonFin e.nonFin, outOvf := sat32 c.outOvf e.ovf,
                             x128Sat := sat32 c.x128Sat e.sat, whorlInstr := sat32 c.whorlInstr e.instr }

/-- Of the first n writes under way, those whose sc has come by sc t are visible, in their order. -/
def Loc.landN : Nat → Nat → Loc → Loc
  | 0, _, l => l
  | n + 1, t, l =>
    match l.sp.pend with
    | e :: rest => if e.at_ ≤ t then landN n t ((l.mod fun p => { p with pend := rest }).landOne e) else l
    | [] => l

/-- The writes whose sc has come by sc t are visible. -/
def Loc.land (l : Loc) (t : Nat) : Loc := l.landN l.sp.pend.length t

/-! What counts every sc that a word waits (R159, R209) -/

/-- Nothing of the engine of stream k is in flight whose completion is not yet known. -/
def engineIdle (sp : Spindle) (k : Nat) : Bool :=
  match k with
  | 0 | 1 =>
    let h := halfOf sp k
    h.load.isNone && h.strm.isNone && h.handed.isEmpty && h.drain.all (·.doneAt.isSome)
  | 2 => sp.whorl.ports.all (fun q => q.chan.isEmpty)
  | 4 => sp.carder.jobs.isEmpty && sp.hank.wait.isNone
  | 5 => sp.reeler.convs.isEmpty
  | _ => true

/-- The earliest sc, from t, in which no data op held by the drain path acts on a bank; none while that is not known. -/
def bankFree (x : Half) (bank t : Nat) : Option Nat :=
  x.drain.foldl (fun a d => if d.bank ≠ bank then a else
    match a, d.doneAt with | some m, some e => some (max m (e + 1)) | _, _ => none) (some t)

/-- The drain path holds fewer than two data ops from this sc on (Table 5.4). -/
def pathFree (x : Half) (t : Nat) : Option Nat :=
  let known := (x.drain.filterMap (·.doneAt)).map (· + 1)
  let open_ := x.drain.length - known.length
  if x.drain.length < 2 then some t
  else if open_ ≥ 2 then none
  else if open_ = 1 then some (known.foldl max t)
  else some (max t (known.foldl min (known.headD t)))

/-- The sc from t on in which Table 5.4 lets a whorl word of half h issue; none while that is not known. -/
def bobbinFree (sp : Spindle) (h : Nat) (w : KWord) (t : Nat) : Option Nat :=
  let x := halfOf sp h
  let op := fld w 121 119
  if isCls 0x09 w || isCls 0x0A w then bankFree x x.layout.live t
  else if isCls 0x0C w then
    if op = 0 then (if engineIdle sp h then some (max t (strmOf sp h).doneAt) else none)
    else if op = 1 then bankFree x (1 - x.layout.live) t
    else if 5 ≤ op then some t
    else match pathFree x t, (if op != 4 && bitOf w 118 then bankFree x (1 - x.layout.live) t else some t) with
      | some a, some b => some (max a b)
      | _, _ => none
  else some t

/-- The sc up to `t` in which Table 5.4 holds the head word of half h, from the present on. The sc in which the E-0xA20 check
holds a word counts with its rejection. -/
def bobbinHeld (l : Loc) (h t : Nat) : Nat :=
  let q := strmOf l.sp h
  match q.queue with
  | e :: _ =>
    let t := l.waitsTo h t
    if (h == 0 || l.sp.whorl.split) && q.en && !q.finished && !q.dead && q.waitSince.isNone && e.marker.isNone then
      let a := max l.sp.clock.lc (max q.free e.at_)
      (match bobbinFree l.sp h e.word a with | some u => min t u | none => t) - a
    else 0
  | [] => 0

/-- The counts of waiting words as the clock moves on to sc t: SPN_BOBBIN_STALL, which an sc that holds words of both halves adds 2 to
(DESIGN CHOICE, assumption 89), and SPN_HANK_STALL. -/
def Loc.tally (l : Loc) (t : Nat) : Loc :=
  let n := bobbinHeld l 0 t + bobbinHeld l 1 t
  let m := if l.sp.hank.wait.isSome then l.waitsTo 4 t - l.sp.clock.lc else 0
  l.count fun c => { c with bobbinStall := sat32 c.bobbinStall n, hankStall := sat32 c.hankStall m }

/-- The local clock brought to sc t at least: what waits counts, writes become visible, POPs complete. Commands come in the order of time
(assumption 1). -/
def Loc.at_ (l : Loc) (t : Nat) : Loc :=
  let t := max l.sp.clock.lc t
  ((l.tally t).land t).mod fun p => { p with hank := p.hank.settle t, clock := { p.clock with lc := t } }

/-- The poisoned words of a byte range, as local offsets. -/
def Loc.poisoned (l : Loc) (a n : Nat) : List Nat :=
  if n = 0 then [] else (l.sp.distaff.poison.filter (inWords (wordsOf a n))).map (8 * ·)

/-- A write of a binary32 or bfloat16. -/
def Loc.wr32 (l : Loc) (a : Nat) (v : F32) : Loc := l.wr a (leBytes 4 v.toNat)
def Loc.wr16 (l : Loc) (a : Nat) (v : B16) : Loc := l.wr a (leBytes 2 v.toNat)

/-- The device address of a local offset (R246). -/
def ownAddr (s : State) (p a : Nat) : Nat := (lnumOf s p).getD 0 * 0x0200_0000 + a

/-! Issue (R74) -/

/-- The words of stream k may issue on the position as sp: its job dispatches here, the stream has not finished its frame, no wait holds it, and
the time of the sc is known. -/
def mayIssueOn (s : State) (p k : Nat) (sp : Spindle) : Bool :=
  let q := strmOf sp k
  dispatches s p k && clockKnown s p (max sp.clock.lc q.free) && q.en && !q.finished && !q.dead && q.waitSince.isNone
    && (k != 4 || (sp.hank.wait.isNone && sp.carder.present.isEmpty && !sp.carder.jobs.any (·.hold)
          && decide ((s.hbm.waiting.filter (·.isOf p)).length ≤ 64)))

/-- The words of stream k may issue. -/
def mayIssue (s : State) (p k : Nat) : Bool := mayIssueOn s p k (spAt s p)

/-- The head word of stream k takes the sc t from which it may issue. -/
def issueAt (l : Loc) (k : Nat) : Nat := max l.sp.clock.lc (strmOf l.sp k).free

/-- The sc from which a word that waits for every earlier instruction issues (R76), once all are known. -/
def fenceAt (l : Loc) (k : Nat) : Nat := max (issueAt l k) (strmOf l.sp k).doneAt

/-- The head word issues in sc t, holds the engine's issue for `occ` sc and completes at `done` (R74). -/
def Loc.pop (l : Loc) (k t occ done : Nat) : Loc :=
  (l.at_ t).strm k fun q => { q with queue := q.queue.tail, free := max q.free (t + occ), doneAt := max q.doneAt done,
                                     waitSince := none }

/-- The stream dispatches nothing more. -/
def Loc.kill (l : Loc) (k : Nat) : Loc := l.strm k fun q => { q with dead := true }

/-- The head word raises an event at issue and does nothing else. -/
def Loc.reject (l : Loc) (k code da db : Nat) (q : QEntry) : Loc :=
  ((l.pop k (issueAt l k) 1 0).kill k).raise (evW code k q.woff da db)

/-- Position p as the sc finds it from which the head word of stream k may issue. -/
def issuePos (s : State) (p k : Nat) : Loc := (openPos s p).land (issueAt (openPos s p) k)

/-- The head word of stream k, when it is a word that `want` selects and the stream may issue, does `body` on the position as its sc of
issue sees it, unless that gives nothing: then, as in every other case, the word waits and nothing happens (assumption 2). -/
def issueW (s : State) (p k : Nat) (want : KWord → Bool) (body : QEntry → Loc → Option Loc) : Out :=
  if k < 6 then
    if p < 624 then
      match (strmOf (spAt s p) k).queue with
      | q :: _ =>
        .next (if mayIssue s p k && q.marker.isNone && want q.word then ((body q (issuePos s p k)).map (closePos s p)).getD s else s)
      | [] => .next s
    else .fault (.noSuchUnit "position" p)
  else .fault (.noSuchUnit "stream" k)

/-- The same for a word that never waits. -/
def issue (s : State) (p k : Nat) (want : KWord → Bool) (body : QEntry → Loc → Loc) : Out := issueW s p k want fun q l => some (body q l)

/-- An engine instruction whose poisoned source is consumed (R473): E-0x302 naming the word. -/
def Loc.consume (l : Loc) (s : State) (p k : Nat) (q : QEntry) (off : Nat) : Loc :=
  (l.kill k).raise (evW 0x302 k q.woff k (ownAddr s p off))

/-- Reads of ranges by a consuming engine: errors are found, then poison (R472, R473). -/
def Loc.reading (l : Loc) (rs : List (Nat × Nat)) : Loc := rs.foldl (fun l r => l.scrub r.1 r.2) l
/-- The first poisoned word among ranges. -/
def Loc.anyPoison (l : Loc) (rs : List (Nat × Nat)) : Option Nat := rs.findSome? (fun r => l.poisonIn r.1 r.2)

/-! Addresses (R245, R249) -/

/-- Where a device address lies (Table 9.1). -/
inductive Where
  | distaff (n off : Nat)
  | hbm (off : Nat)
  | host (a : Nat)
  | partner (port a : Nat)
  | regs (off : Nat)
  | unmapped
deriving DecidableEq, Repr

/-- First byte of the HBM region. -/
def hbmBase : Nat := 0x0000_0100_0000_0000
/-- Bytes of HBM. -/
def hbmSize : Nat := 768000000000

/-- The region of an address. -/
def whereIs (a : Nat) : Where :=
  if a < 0x0000_0004_8000_0000 then
    (if a % 0x0200_0000 < distSize then .distaff (a / 0x0200_0000) (a % 0x0200_0000) else .unmapped)
  else if decide (hbmBase ≤ a) && decide (a < hbmBase + hbmSize) then .hbm (a - hbmBase)
  else if decide (0x0010_0000_0000_0000 ≤ a) && decide (a < 0x0020_0000_0000_0000) then .host (a - 0x0010_0000_0000_0000)
  else if decide (0x0100_0000_0000_0000 ≤ a) && decide (a < 0x0106_0000_0000_0000) then
    .partner ((a - 0x0100_0000_0000_0000) / 0x0001_0000_0000_0000) (a % 0x0001_0000_0000_0000)
  else if decide (0x0800_0000_0000_0000 ≤ a) && decide (a < 0x0800_0000_0040_0000) then .regs (a - 0x0800_0000_0000_0000)
  else .unmapped

/-- The HBM line of a region offset lies in this stack and channel (R337). -/
def stackOf (off : Nat) : Nat := 2 * (off / 192000000000) + (off % 192000000000 / 64) % 2
def chanOf (off : Nat) : Nat := (off % 192000000000 / 64 / 2) % 32

/-- Spire of a position. -/
def spireOf (p : Nat) : Nat := p / 156

/-- Bridges and hops of a route (R328, R329). -/
def bridges (a b : Nat) : Nat :=
  (if spireOf a % 2 = spireOf b % 2 then 0 else 1) + (if spireOf a / 2 = spireOf b / 2 then 0 else 1)
def gcol (p : Nat) : Nat := p % 156 / 12 + 13 * (spireOf p % 2)
def grow (p : Nat) : Nat := p % 12 + 12 * (spireOf p / 2)
def hops (a b : Nat) : Nat :=
  (max (gcol a) (gcol b) - min (gcol a) (gcol b)) + (max (grow a) (grow b) - min (grow a) (grow b)) - bridges a b
/-- One-way latency in sc over the mesh (Table 1.2): 2 per hop, 24 per bridge. -/
def routeLat (a b : Nat) : Nat := 2 * hops a b + 24 * bridges a b

/-- Class latency of a port in sc (R295). -/
def classLat (c : Nat) : Nat := 1024 + 512 * c

/-! The loft (R58) and acquires (R260) -/

/-- A loft line lies in the domain of an acquire of this scope (Table 9.4). -/
def acquires (s : State) (p scope : Nat) (line : Nat) : Bool :=
  if scope ≥ 4 then true
  else if scope = 3 then
    match whereIs line with
    | .distaff n _ => spireOf (posOf s n) == spireOf p
    | .hbm off => off / 192000000000 == spireOf p
    | _ => false
  else false

/-- An acquire takes effect: its lines leave the loft. -/
def Loc.acquire (l : Loc) (s : State) (p scope : Nat) : Loc :=
  l.card fun c => { c with loft := c.loft.filter (fun x => !acquires s p scope x.line) }

/-- A write of the own carder to a byte range invalidates the loft lines it touches (R258). -/
def Loc.loftWrite (l : Loc) (a n : Nat) : Loc :=
  l.card fun c => { c with loft := c.loft.filter (fun x => !overlaps a n x.line 64) }

/-- A write is in the domain of a release of this scope (Table 9.4). -/
def released (s : State) (p scope : Nat) (addr : Nat) : Bool :=
  match whereIs addr with
  | .distaff n _ => if some n = lnumOf s p then decide (scope ≥ 2) else
      decide (scope ≥ 4) || (scope == 3 && spireOf (posOf s n) == spireOf p)
  | .hbm off => decide (scope ≥ 4) || (scope == 3 && off / 192000000000 == spireOf p)
  | .partner _ _ => decide (scope ≥ 5)
  | _ => false

/-- The release scope of a carder's operation is met: every write of its domain has been acknowledged (R260). -/
def releaseMet (s : State) (p scope : Nat) (sp : Spindle) : Bool :=
  !sp.carder.sent.any (fun x => released s p scope x.addr)

/-- The job that owns a port (R304). -/
def portOwner (s : State) (q : Nat) : Option Nat :=
  (List.range 8).find? fun j => (jobOf s j).state != 0 && (jobOf s j).ports.testBit q

/-- n bytes whose value the manual leaves open (assumption 3), and the state after their draw. -/
def drawBytes (s : State) (n : Nat) : List Byte × State :=
  ((List.range n).map fun i => Config.freeByte (s.free + i), { s with free := s.free + n })

/-! The record of a snapshot's close bell (R243) -/

/-- n bytes from device address a as the close bell found them. -/
def shotBytes (s : State) (x : Shot) (a n : Nat) : List Byte :=
  match whereIs a with
  | .distaff k off => memRead (x.dist.getD (posOf s k) []) off n
  | .hbm off => memRead x.hbm off n
  | _ => List.replicate n 0#8

/-- n bytes from device address a as they stand. -/
def bytesNow (s : State) (a n : Nat) : List Byte :=
  match whereIs a with
  | .distaff k off => memRead (spAt s (posOf s k)).distaff.mem off n
  | .hbm off => memRead s.hbm.mem off n
  | _ => List.replicate n 0#8

/-- Bytes that someone other than the job of a snapshot is about to write. -/
def shotOther (s : State) (a : Nat) (bs : List Byte) (x : Shot) : Shot :=
  let olds := (shotBytes s x a bs.length).zip (bytesNow s a bs.length)
  (olds.zip bs).zipIdx.foldl (fun x v =>
    let k := a + v.2
    if (getKey k x.other).getD v.1.1.1 = v.1.1.2 then { x with other := insKey k v.1.2 x.other } else { x with own := insNat k x.own }) x

/-- Bytes that job `who`, or none, is about to write at a device address: noted for the snapshots of other jobs. -/
def shotWrite (s : State) (who : Option Nat) (a : Nat) (bs : List Byte) : State :=
  if s.hif.shots.isEmpty then s
  else { s with hif := { s.hif with shots := s.hif.shots.map fun x => if who = some x.job then x else shotOther s a bs x } }

end Sys2Proof.Machine
end

