-- ==== Sys2Proof/Machine/CxlRegs.lean ====
section
/-!
DEFINITION. What the CXL function shows of itself (R350, R351): its BARs, the AER capability and the Register Locator in configuration space,
and the component registers behind BAR4/5 with the RAS and HDM decoder capabilities. The manual names these by their standards; their layouts,
reset values and places are PRESUMED (assumption 76).
-/
namespace Sys2Proof.Machine

/-! Dwords by their place: offsets of configuration space, and 65,536 more than offsets behind BAR4/5 -/

/-- Log2 of the size of BAR k / 2 (Table 14.2). -/
def barLog (k : Nat) : Nat := if k = 0 then 22 else 16

/-- Value at reset of a dword that holds state. -/
def cxlReset (o : Nat) : Nat :=
  match o with
  | 0x108 => 0x0040_0000 | 0x10C => 0x0046_2030 | 0x114 => 0x0000_E000
  | 0x1_1104 => 0x0001_CFFF | 0x1_1108 => 0x0001_CFFF | 0x1_1110 => 0x0000_007F
  | _ => 0

/-- Bits that a write sets in a dword, and bits that a write of 1 clears. -/
def cxlWritable (o : Nat) : Nat × Nat :=
  if o = 0x10 ∨ o = 0x18 ∨ o = 0x20 then (2 ^ 32 - 2 ^ barLog ((o - 0x10) / 8), 0)
  else if o = 0x14 ∨ o = 0x1C ∨ o = 0x24 then (2 ^ 32 - 1, 0)
  else match o with
    | 0x104 | 0x110 | 0x1_1100 | 0x1_110C => (0, 2 ^ 32 - 1)
    | 0x108 | 0x10C | 0x114 => (2 ^ 32 - 1, 0)
    | 0x1_1104 | 0x1_1108 => (0x0001_CFFF, 0)
    | 0x1_1110 => (0x7F, 0)
    | 0x1_1204 => (3, 0)
    | 0x1_1210 | 0x1_1218 => (0xF000_0000, 0)
    | 0x1_1214 | 0x1_121C => (2 ^ 32 - 1, 0)
    | 0x1_1220 => (0x3FF, 0)
    | _ => (0, 0)

/-- The dword as it stands. -/
def cxlHeld (s : State) (o : Nat) : Nat := (getKey o s.hif.cxl).getD (cxlReset o)

/-- A dword takes a value. -/
def cxlPut (o new : Nat) (s : State) : State :=
  { s with hif := { s.hif with cxl := if new = cxlReset o then delKey o s.hif.cxl else insKey o new s.hif.cxl } }

/-- A dword is written. -/
def cxlSet (o v : Nat) (s : State) : State :=
  let w := cxlWritable o
  let old := cxlHeld s o
  let new := (old - (old &&& (w.1 ||| (w.2 &&& v)))) + (v &&& w.1)
  if w = (0, 0) then s else cxlPut o new s

/-- A host access error is reported (R350): in the RAS capability as poison received for a read and as an internal error for a write that the
link rejects, and in AER as an uncorrectable internal error. PRESUMED (assumption 76): the bits, from the standards. -/
def cxlError (s : State) (write : Bool) : State :=
  let ras := if write then 2 ^ 14 else 2 ^ 10
  cxlPut 0x104 (cxlHeld s 0x104 ||| 2 ^ 22) (cxlPut 0x1_1100 (cxlHeld s 0x1_1100 ||| ras) s)

/-- The decoder is committed: its control asks for it, and base and size name a window of the range, one way (R350). -/
def hdmCommitted (s : State) : Bool :=
  let size := cxlHeld s 0x1_1218 + put (cxlHeld s 0x1_121C) 32
  (cxlHeld s 0x1_1220).testBit 9 && fldN (cxlHeld s 0x1_1220) 7 4 == 0 && size != 0 && decide (size ≤ 767993839616)

/-- What a read of a dword returns; none where the place is not one that the manual or this model knows. -/
def cxlDword (s : State) (o : Nat) : Option Nat :=
  let held := some (cxlHeld s o)
  if o = 0x10 ∨ o = 0x18 ∨ o = 0x20 then some (cxlHeld s o + 4)
  else if o = 0x14 ∨ o = 0x1C ∨ o = 0x24 then held
  else if 0x104 ≤ o ∧ o < 0x12C then held
  else match o with
    | 0x100 => some (0x0002_0001 + put 0x148 20)
    | 0x14C => some (0x1E98 + put 0x14 20)
    | 0x150 => some 8
    | 0x154 => some (4 + put 1 8)
    | 0x158 => some 0
    | 0x1_1000 => some (1 + put 1 16 + put 1 20 + put 2 24)
    | 0x1_1004 => some (2 + put 2 16 + put 0x100 20)
    | 0x1_1008 => some (5 + put 1 16 + put 0x200 20)
    | 0x1_1200 => some 0
    | 0x1_1220 => some (cxlHeld s o + put (b2n (hdmCommitted s)) 10)
    | _ => if 0x1_0000 ≤ o then held else none

/-- A byte of configuration space: one that the model does not know is the standard's or the part's. -/
def cfgByte (s : State) (o : Nat) : Byte :=
  match cxlDword s (o / 4 * 4) with
  | some v => BitVec.ofNat 8 (v / 2 ^ (8 * (o % 4)))
  | none =>
    let f := Config.foreignByte 0 o
    match o with | 0x148 => 0x23#8 | 0x149 => 0#8 | 0x14A => (f &&& 0xF0#8) ||| 1#8 | _ => f

/-- Eight bytes of the component registers. -/
def compSlot (s : State) (o : Nat) : Nat := ((cxlDword s (0x1_0000 + o)).getD 0) + put ((cxlDword s (0x1_0004 + o)).getD 0) 32

/-- A write of n bytes to the component registers. -/
def compWrite (o n v : Nat) (s : State) : State :=
  let s := cxlSet (0x1_0000 + o) (v % 2 ^ 32) s
  if n = 8 then cxlSet (0x1_0004 + o) (v / 2 ^ 32 % 2 ^ 32) s else s

end Sys2Proof.Machine
end

