-- ==== Sys2Proof/Machine/Array.lean ====
section
/-!
DEFINITION. The array of the whorl (R114 to R128): the arithmetic of R115 and R116, the consumption of feed words with bubbles, operand
checks, and the faults of R134.

An MLOAD, MSTREAM or MSHAPE that has issued stands in its half as a `WOp`. `pump` lets it take the words its ports hold, each in the sc it
is due or, when it entered later, after bubbles; a word not in the port yet is waited for.
-/
namespace Sys2Proof.Machine

/-! Arithmetic (R115, R116) -/

/-- K indices taken in a step and sc per step of an operand pair (Table 4.1). -/
def pairOf (fa fb : Nat) : Nat × Nat :=
  if is4bit fa && is4bit fb then (2, 1) else if fa == 1 || fb == 1 then (1, 4) else (1, 1)

/-- The value of an element with its block scale. -/
def effOf (fmt : Nat) (e : FElem) : Fv := if fmt = 1 then read16 (BitVec.ofNat 16 e.code) else elemFv fmt e.code e.scale

/-- The product of a pair: exact, infinite above the FP32 range (R115). -/
def prodFv (a b : Fv) : Fv :=
  let p := mulFv a b
  let r := toF32 p
  if isNF r then read32 r else p

/-- One product rounded. -/
def q1 (a b : Fv) : F32 := toF32 (prodFv a b)
/-- Two products summed exactly and rounded once. -/
def q2 (a b c d : Fv) : F32 := toF32 (addFv (prodFv a b) (prodFv c d))

/-- The sum over K of R116 at ρ up to 1. -/
def dot1 : List Fv → List Fv → F32 → F32
  | a :: as, w :: ws, s => dot1 as ws (fadd s (q1 a w))
  | _, _, s => s

/-- The sum over K of R116 at ρ = 2. -/
def dot2 : List Fv → List Fv → F32 → F32
  | a :: b :: as, w :: x :: ws, s => dot2 as ws (fadd s (q2 a w b x))
  | a :: _, w :: _, s => fadd s (toF32 (addFv (prodFv a w) (.fin false 0 0)))
  | _, _, s => s

/-- s × tt where tt is not 1. -/
def byTt (tt s : F32) : F32 := if tt = one32 then s else fmul s tt

/-- The values of column n of a plane by K index. -/
def planeCol (pl : Plane) (n : Nat) : List Fv := pl.rows.map fun w => effOf pl.fmt (w.elems.getD n ⟨0, 127⟩)

/-- One MSTREAM result element (R116). -/
def streamElem (two : Bool) (a col : List Fv) (outs : List FOut) (tt : F32) : F32 :=
  let s := if two then dot2 a col (zero32 false) else dot1 a col (zero32 false)
  byTt tt (outs.foldl (fun s o => fadd s (toF32 (mulFv (read16 o.value) (col.getD o.k (.fin false 0 0))))) s)

/-- One MSTREAM result row. -/
def streamRow (fa : Nat) (pl : Plane) (w : FWord) : List F32 :=
  let a := w.elems.map (effOf fa)
  (List.range pl.nc).map fun n =>
    streamElem ((pairOf fa pl.fmt).1 == 2) a (planeCol pl n) w.outs (fmul w.tscale pl.tscale)

/-- One step of MSHAPE's accumulators: one or two K indices (R116). -/
def shapeStep (fa fb : Nat) (acc : List (List F32)) (a b : List FWord) : List (List F32) :=
  let va (w : FWord) (i : Nat) := effOf fa (w.elems.getD i ⟨0, 127⟩)
  let vb (w : FWord) (j : Nat) := effOf fb (w.elems.getD j ⟨0, 127⟩)
  acc.zipIdx.map fun r => r.1.zipIdx.map fun c =>
    match a, b with
    | [x], [y] =>
      if (pairOf fa fb).1 = 2 then fadd c.1 (toF32 (addFv (prodFv (va x r.2) (vb y c.2)) (.fin false 0 0)))
      else fadd c.1 (q1 (va x r.2) (vb y c.2))
    | x :: x2 :: _, y :: y2 :: _ => fadd c.1 (q2 (va x r.2) (vb y c.2) (va x2 r.2) (vb y2 c.2))
    | _, _ => c.1

/-- Output element (i, j) is frozen (Table 7.5). -/
def frozenAt (m : Option (Nat × Nat)) (i j : Nat) : Bool :=
  match m with
  | none => false
  | some (g, b) => b.testBit (match g with | 0 => i | 1 => i / 16 * 8 + j / 16 | 2 => i / 32 * 4 + j / 32 | _ => 0)

/-- Mo × No of a SHAPE code (Table 4.6). -/
def shapeOf (c : Nat) : Nat × Nat :=
  match c with
  | 0 => (128, 128) | 1 => (128, 64) | 2 => (64, 128) | 3 => (64, 64) | 4 => (128, 32) | _ => (32, 128)

/-! Rows of the bobbin (R142 to R144) -/

/-- Bytes of a total. -/
def accBytes (acc : Nat) : Nat := match acc with | 0 => 4 | 1 => 8 | _ => 16
/-- Row width Wr: while split it is 64 (R142). -/
def rowWidth (split : Bool) (y : Layout) : Nat := if split || y.roww == 1 then 64 else 128
/-- Rows of a partition (Table 5.1). -/
def rowsOf (split : Bool) (y : Layout) : Nat :=
  (if split then 131072 else 262144) / (rowWidth split y * accBytes y.acc)
/-- The first row a BROW or ROW field names when `m` rows from it exist (R143, R144). -/
def bobRow (split : Bool) (h : Nat) (y : Layout) (f m : Nat) : Option Nat :=
  if y.cmpt then
    let a := f % 8
    let r := f / 8
    if r + m > 128 then none
    else if split then (if a / 4 = h then some ((a - 4 * h) * 128 + r) else none)
    else some (a * 128 + r)
  else if f + m ≤ rowsOf split y then some f else none
/-- Chunk length C (R146). -/
def chunkLen (y : Layout) : Nat := 2 ^ (y.clog + 5)

/-! Occupation of the stream paths (Table 4.14) -/

/-- The part of [a, b) that no interval of the list covers, the intervals being disjoint. -/
def newBusy (l : List (Nat × Nat)) (a b : Nat) : Nat :=
  (b - a) - (l.map fun x => min b x.2 - max a x.1).foldl (· + ·) 0

/-- An interval joined to the list. -/
def joinBusy (l : List (Nat × Nat)) (a b : Nat) : List (Nat × Nat) :=
  let hit := l.filter fun x => decide (x.1 < b) && decide (a < x.2)
  (hit.foldl (fun y x => (min y.1 x.1, max y.2 x.2)) (a, b)) :: l.filter fun x => !(decide (x.1 < b) && decide (a < x.2))

/-- A stream path is occupied for sc t to e − 1. -/
def Spindle.occupied (sp : Spindle) (t e : Nat) : Spindle :=
  { sp with ctr := { sp.ctr with whorlBusy := sat32 sp.ctr.whorlBusy (newBusy sp.whorl.busy t e) },
            whorl := { sp.whorl with busy := joinBusy sp.whorl.busy t e } }

/-- The occupations in progress are counted up to sc t: what a read of SPN_WHORL_BUSY finds. -/
def Spindle.countBusy (sp : Spindle) (t : Nat) : Spindle :=
  (sp.whorl.halves.filterMap (·.strm)).foldl (fun sp o => if o.issued < t then sp.occupied o.issued t else sp) sp

/-! Faults of the whorl (R134) -/

/-- A pending check is held in sc t: a VCHECK has not cleared it by then (R185, R188). -/
def Half.checkHeld (x : Half) (t : Nat) : Bool :=
  match x.check with | some c => c.clearAt.all (t < ·) | none => false

/-- A pending check that sc t finds held is discarded (R188). -/
def Loc.dropCheck (l : Loc) (h t : Nat) : Loc :=
  let n := b2n ((halfOf l.sp h).checkHeld t)
  (l.half h fun x => { x with check := none }).count fun c => { c with qskip := sat32 c.qskip n }

/-- The MSTREAM or MSHAPE in progress in a half aborts in sc t: its rows do not reach the bobbin, its path is free. -/
def Loc.abortStrm (l : Loc) (h t : Nat) : Loc :=
  match (halfOf l.sp h).strm with
  | none => l
  | some o =>
    let l := (l.mod (·.occupied o.issued (t + 1))).half h fun x =>
      { x with strm := none, strmFree := t + 1, handed := x.handed.filter (·.issued != o.issued) }
    if o.sel.isSome then l.dropCheck h t else l

/-- What a fault confined to half h does beside aborting the instruction: in split mode it stops that half's stream alone, the other half's
runs on unless a stop fault has stopped it, and the half's partition of the bobbin becomes undefined (R134). -/
def Loc.halfStop (l : Loc) (h : Nat) : Loc :=
  let l := l.kill h
  if l.sp.whorl.split then
    let o := strmOf l.sp (1 - h)
    let run := o.en && !o.finished && !o.dead && (l.cap.isNone || l.sp.halfRun == some (1 - h))
    let l := l.half h fun x => { x with undef := some l.free, tot := [], poison := [] }
    { l with free := l.free + 1, sp := { l.sp with halfRun := if run then some (1 - h) else none } }
  else l

/-- A stop fault that R134 confines to a half while the whorl is split. -/
def Loc.confined (l : Loc) (e : Ev) : Ev := if l.sp.whorl.split then { e with kind := 3 } else e

/-- A whorl fault of half h. -/
def Loc.whorlFault (l : Loc) (h : Nat) (e : Ev) : Loc := (l.halfStop h).raise (l.confined e)

/-- A whorl word that faults at issue. One of Table 5.4 that the E-0xA20 check rejects counts the sc in which the check holds it (R159; DESIGN
CHOICE, assumption 66). -/
def Loc.whorlReject (l : Loc) (h t code da db : Nat) (q : QEntry) : Loc :=
  let held := code == 0xA20 && [0x09, 0x0A, 0x0C].contains (clsOf q.word)
  ((l.pop h t 1 t).count fun c => { c with bobbinStall := sat32 c.bobbinStall (b2n held) }).whorlFault h (evW code h q.woff da db)

/-- The head word of stream k raises E-0xA20 and does nothing else; on W0 and W1 it is a fault of that half (R134). -/
def Loc.illegal (l : Loc) (k : Nat) (q : QEntry) : Loc :=
  if k < 2 then l.whorlReject k (issueAt l k) 0xA20 0 0 q else l.reject k 0xA20 0 0 q

/-! Words from the ports (R114, R119) -/

/-- The west and north port of a half (Table 4.2). -/
def westPort (h : Nat) : Nat := 2 * h
def northPort (h : Nat) : Nat := 2 * h + 1

/-- `n` words leave a port in sc t. -/
def Loc.popWords (l : Loc) (q n t : Nat) : Loc :=
  l.fport q fun f => { f with fifo := f.fifo.drop n, left := (List.replicate n t ++ f.left).take 64 }

/-- The sc in which every one of the words has entered. -/
def lastEntry (ws : List FWord) : Nat := ws.foldl (fun m w => max m w.at_) 0

/-- The first check of Table 4.11 that a word fails: 0 format, 1 width, 3 outliers, 6 mask. -/
def wordCheck (w : FWord) (fmt width : Nat) (outOk maskOk : Bool) : Option Nat :=
  if w.fmt != fmt then some 0
  else if w.elems.length != width then some 1
  else if !outOk && w.oslot != 0 then some 3
  else if !maskOk && w.mask.isSome then some 6
  else none

/-- The event a consumed word raises: poison, or a failing check (R114, R138). -/
def wordEvent (s : State) (p h port : Nat) (q : QEntry) (w : FWord) (chk : Option Nat) : Option Ev :=
  match w.poison, chk with
  | some off, _ => some (evW 0x302 h q.woff h (ownAddr s p off))
  | none, some c => some (evW 0xA28 h q.woff (port + put c 2) 0)
  | none, none => none

/-- The counted sc of occupations that are still to come in sc t: a read does not find them yet (Table 4.14). -/
def Spindle.busyAhead (sp : Spindle) (t : Nat) : Nat := (sp.whorl.busy.map fun x => x.2 - max x.1 t).foldl (· + ·) 0

/-- Bubbles counted (Table 4.14). -/
def Loc.bubbles (l : Loc) (n : Nat) : Loc := l.count fun c => { c with whorlBubble := sat32 c.whorlBubble n }

/-! Occupation, counters and completion -/

/-- An MSTREAM or MSHAPE of half h that issued in sc `t` ends its occupation in `e` and completes in `c`, when it counts
(Table 4.14). DESIGN CHOICE (assumption 102): the occupation of an MSHAPE, which R126 lays on the array, is one of the stream path. -/
def Loc.strmEnd (l : Loc) (h t e c bank : Nat) : Loc :=
  let l := l.half h fun x => { x with strm := none, strmFree := e, bankDone := modAt x.bankDone bank (max c) }
  ((l.mod (·.occupied t e)).strm h fun q => { q with doneAt := max q.doneAt c }).push { Pend.bytes c 0 [] [] with instr := 1 }

/-- The copies and results of a selected instruction become its pending check, ready in sc c (R182). -/
def Loc.fillCheck (l : Loc) (h : Nat) (sel : Option Nat) (a b : List (List B16)) (q : List (List F32))
    (frozen : List (Nat × Nat)) (c : Nat) : Loc :=
  match sel with
  | none => l
  | some v => l.half h fun x => { x with check := x.check.map fun k =>
      if k.sel = v then { k with a := a, b := b, q := q, frozen := frozen, ready := some c } else k }

/-- q of R181 for a selection counter value; 0 for the value 0 of a counter that has wrapped (DESIGN CHOICE, assumption 90). -/
def selIdx (s : State) (p v : Nat) : Nat := v / 2 ^ fldN (qcheck s p) 4 0 - 1

/-! MLOAD -/

/-- The plane a word's PLANE field names. -/
def planeF (w : KWord) : Nat := fld w 113 113

/-- The words of one step at a port, none while they are not all there. -/
def wordsAt (l : Loc) (port n : Nat) : Option (List FWord) :=
  let ws := (portOf l.sp port).fifo.take n
  if ws.length < n then none else some ws

/-- The 16 elements of kept columns from c0 on hold one whose widening leaves the range (R104, R182). -/
def keptOver (c0 : Nat) (w : FWord) : Bool := w.wide.any fun i => decide (c0 ≤ i) && decide (i < c0 + 16)

/-- The first kept column of a plane with l = `loadNo` (R181). For a plane that was loaded unsplit and then split the spec does not say which
columns are kept: each half takes them on its own NC (DESIGN CHOICE, assumption 29). -/
def keptCol (pl : Plane) : Nat := 16 * (pl.loadNo % cdiv pl.nc 16)

/-- Words of a PE row that an MLOAD takes next (R118). -/
def loadWords (o : WOp) : Nat := if is4bit (fld o.q.word 121 118) then min 2 (fld o.q.word 88 80 - o.taken) else 1

/-- The sc in which the MLOAD in progress takes its next words, once they are in the port (R118, R119). -/
def loadAt (l : Loc) (h : Nat) (o : WOp) : Option Nat := (wordsAt l (northPort h) (loadWords o)).map fun ws => max o.due (lastEntry ws)

/-- One PE row of the MLOAD in progress taken in sc t (R118, R119). -/
def loadStep (s : State) (p h t : Nat) (o : WOp) (l : Loc) : Loc :=
  let w := o.q.word
  let fmt := fld w 121 118
  let kr := fld w 88 80
  let nc := fld w 72 64
  let n := loadWords o
  let ws := (portOf l.sp (northPort h)).fifo.take n
  let l := (l.bubbles (t - o.due - o.seen)).popWords (northPort h) n t
  match ws.findSome? fun x => wordEvent s p h (northPort h) o.q x (wordCheck x fmt nc false false) with
  | some e => (l.half h fun x => { x with load := none, loadFree := max x.loadFree (t + 1) }).whorlFault h { e with at_ := some t }
  | none =>
    let l := if ws.any (keptOver (keptCol ((halfOf l.sp h).planes.getD (planeF w) Plane.reset))) then l.flag else l
    let o' := { o with taken := o.taken + n, words := o.words ++ ws, due := t + 1, seen := 0, bubbled := o.bubbled || decide (t > o.due) }
    if o'.taken < kr then l.half h fun x => { x with load := some o' }
    else
      let row := (if is4bit fmt then (kr + 1) / 2 else kr) - 1
      let c := t + 128 - row
      let ts := (o'.words.head?.map (·.tscale)).getD one32
      let rdy := if o'.bubbled then c else o.issued + 1
      let done (pl : Plane) := { pl with valid := true, rows := o'.words, tscale := ts, readyAt := rdy, doneAt := c }
      let l := l.half h (fun x => { x with load := none, loadFree := c, planes := modAt x.planes (planeF w) done })
      l.strm h fun q => { q with doneAt := max q.doneAt c }

/-! MSTREAM -/

/-- The check of Table 4.11 that a row fails. DESIGN CHOICE (assumption 64): of several, the one named is the first of format, width,
outliers, then mask, with depth between outliers and mask. -/
def rowCheck (a : FWord) (fa : Nat) (pl : Plane) : Option Nat :=
  let deep := decide (pl.kr > 128) && (pairOf fa pl.fmt).1 != 2
  match wordCheck a fa pl.kr true false with
  | some 6 => if deep then some 2 else some 6
  | some c => some c
  | none => if deep then some 2 else none

/-- One row of the MSTREAM in progress taken in sc t (R121 to R123). -/
def rowStep (s : State) (p h t : Nat) (o : WOp) (l : Loc) : Loc :=
  let w := o.q.word
  let x := halfOf l.sp h
  let fa := fld w 121 118
  let pl := x.planes.getD (planeF w) Plane.reset
  match (portOf l.sp (westPort h)).fifo with
  | [] => l
  | a :: _ =>
    let l := (l.bubbles (t - o.due - o.seen)).popWords (westPort h) 1 t
    match wordEvent s p h (westPort h) o.q a (rowCheck a fa pl) with
    | some e => (l.abortStrm h t).whorlFault h { e with at_ := some t }
    | none =>
      let r := max (pairOf fa pl.fmt).2 (cdiv a.slots 8)
      let vs := streamRow fa pl a
      let i := o.taken
      let m := fld w 95 80
      let hand : Handed :=
        { at_ := t + 258 + r, bank := o.bank, row := o.row + i, vals := vs.zipIdx.map fun v => (v.2, v.1), frozen := [],
          begin_ := bitOf w 112, ltag := fld w 31 16, pc := o.pc, issued := o.issued }
      let q := match o.sel with | some v => selIdx s p v | none => 0
      let r0 := 16 * (q % cdiv m 16)
      let c0 := keptCol pl
      let mine := o.sel.isSome && decide (r0 ≤ i) && decide (i < r0 + 16)
      let o' := { o with taken := i + 1, due := t + r, seen := 0,
                         ca := if mine then o.ca ++ [a.pre] else o.ca,
                         cq := if mine then o.cq ++ [(vs.drop c0).take 16] else o.cq }
      let l := l.half h fun x => { x with handed := x.handed ++ [hand] }
      let l := if mine && !a.wide.isEmpty then l.flag else l
      if i + 1 < m then l.half h fun x => { x with strm := some o' }
      else
        let b := ((List.range pl.nc).drop c0).take 16 |>.map fun j => pl.rows.map fun k => k.pre.getD j 0#16
        let l := l.strmEnd h o.issued (t + r) hand.at_ o.bank
        let l := l.half h fun x => { x with planes := modAt x.planes (planeF w) fun y => { y with busyTill := t + r } }
        l.fillCheck h o.sel o'.ca b o'.cq [] hand.at_

/-- A row breaks a check that does not look at the plane's elements. -/
def rowFails (fa : Nat) (pl : Plane) (a : FWord) : Bool := a.poison.isSome || (rowCheck a fa pl).isSome

/-- The sc in which rows that wait at a port are taken from sc `due` on, to the first that fails. -/
def failAt (fa : Nat) (pl : Plane) (due : Nat) : List FWord → Option (List Nat)
  | [] => none
  | a :: as =>
    let t := max due a.at_
    if rowFails fa pl a then some [t]
    else (failAt fa pl (t + max (pairOf fa pl.fmt).2 (cdiv a.slots 8)) as).map (t :: ·)

/-- The sc of the rows of an MSTREAM that issued under the exception of R120, to the first that fails, when its plane is not loaded yet. -/
def earlyFail (l : Loc) (h : Nat) (o : WOp) : Option (List Nat) :=
  failAt (fld o.q.word 121 118) ((halfOf l.sp h).planes.getD (planeF o.q.word) Plane.reset) o.due
    ((portOf l.sp (westPort h)).fifo.take (fld o.q.word 95 80 - o.taken))

/-- Such rows are taken, and the last of them stops the half while the plane still loads. -/
def earlyStep (s : State) (p h : Nat) (o : WOp) (ts : List Nat) (l : Loc) : Loc :=
  let x := halfOf l.sp h
  let fa := fld o.q.word 121 118
  let pl := x.planes.getD (planeF o.q.word) Plane.reset
  let ws := (portOf l.sp (westPort h)).fifo.take ts.length
  let t := (ts.getLast?).getD 0
  let due := ws.zip ts |>.foldl (fun d x => (d.1 + (x.2 - d.2), x.2 + max (pairOf fa pl.fmt).2 (cdiv x.1.slots 8))) (0, o.due)
  let l := ts.foldl (fun l u => l.popWords (westPort h) 1 u) (l.bubbles (due.1 - o.seen))
  match ws.getLast?.bind fun a => wordEvent s p h (westPort h) o.q a (rowCheck a fa pl) with
  | some e => (l.abortStrm h t).whorlFault h { e with at_ := some t }
  | none => l

/-! MSHAPE -/

/-- The rows of one chunk of a tile handed to the bobbin, four to an sc (R127). -/
def chunkRows (o : WOp) (sums : List (List F32)) (no base : Nat) (begin_ : Bool) (pc : Nat) : List Handed :=
  sums.zipIdx.map fun r =>
    let cols := r.1.zipIdx.map fun v => (v.2, v.1)
    { at_ := base + r.2 / 4 + 1, bank := o.bank, row := o.row + r.2,
      vals := cols.filter fun v => !frozenAt o.mask r.2 v.1,
      frozen := (List.range no).filter (frozenAt o.mask r.2), begin_ := begin_, ltag := fld o.q.word 31 16, pc := pc,
      issued := o.issued }

/-- Words that an MSHAPE takes next from each port (R126). -/
def tileWords (o : WOp) : Nat := min (pairOf (fld o.q.word 121 118) (fld o.q.word 117 114)).1 (fld o.q.word 103 80 - o.taken)

/-- One step of the MSHAPE in progress taken in sc t: one or two K indices of both operands (R126 to R128). Where a west and a north word fail
in that sc, the event is the west word's (DESIGN CHOICE, assumption 86). -/
def tileStep (s : State) (p h t : Nat) (o : WOp) (l : Loc) : Loc :=
  let w := o.q.word
  let fa := fld w 121 118
  let fb := fld w 117 114
  let (mo, no) := shapeOf (fld w 113 111)
  let (kp, sc) := pairOf fa fb
  let k := fld w 103 80
  let n := tileWords o
  let as := (portOf l.sp (westPort h)).fifo.take n
  let bs := (portOf l.sp (northPort h)).fifo.take n
  let l := ((l.bubbles (t - o.due - o.seen)).popWords (westPort h) n t).popWords (northPort h) n t
  let fst := o.taken == 0
  let ta := if fst then (as.map (·.tscale)).headD one32 else o.ta
  let tb := if fst then (bs.map (·.tscale)).headD one32 else o.tb
  let chk (x : FWord) (f width : Nat) (ts : F32) (maskOk : Bool) : Option Nat :=
    match wordCheck x f width false true with
    | some c => some c
    | none => if x.tscale != ts then some 4 else if !maskOk && x.mask.isSome then some 6 else none
  let ea := as.zipIdx.findSome? fun x => wordEvent s p h (westPort h) o.q x.1 (chk x.1 fa mo ta (fst && x.2 == 0))
  let eb := bs.findSome? fun x => wordEvent s p h (northPort h) o.q x (chk x fb no tb false)
  match ea <|> eb with
  | some e => (l.abortStrm h t).whorlFault h { e with at_ := some t }
  | none =>
    let y := (halfOf l.sp h).layout
    let cl := chunkLen y
    let mask := if fst then (as.map (·.mask)).headD none else o.mask
    let acc := shapeStep fa fb o.acc as bs
    let chunk := o.chunk + n
    let taken := o.taken + n
    let kref := min cl k
    let sel := match o.sel with | some v => selIdx s p v | none => 0
    let r0 := 16 * (sel % cdiv mo 16)
    let c0 := 16 * (sel % cdiv no 16)
    let keep (o0 : Nat) (ws : List FWord) := ((ws.zipIdx.filter fun x => decide (o.taken + x.2 < kref)).map
      fun x => ((x.1.pre.drop o0).take 16))
    let o1 := { o with taken := taken, chunk := chunk, acc := acc, ta := ta, tb := tb, mask := mask, due := t + sc, seen := 0,
                       ca := if o.sel.isSome then o.ca ++ keep r0 as else o.ca,
                       cb := if o.sel.isSome then o.cb ++ keep c0 bs else o.cb }
    let took (o0 : Nat) (ws : List FWord) := ws.zipIdx.any fun x => decide (o.taken + x.2 < kref) && keptOver o0 x.1
    let l := if o.sel.isSome && (took r0 as || took c0 bs) then l.flag else l
    if chunk < cl && taken < k then l.half h fun x => { x with strm := some o1 }
    else
      let tt := fmul ta tb
      let sums := acc.map fun r => r.map (byTt tt)
      let pc := ((halfOf l.sp h).pc + 1) % 2 ^ 30
      let rows := chunkRows o1 sums no (t + sc + mo + no + 2) (bitOf w 110 && decide (taken ≤ cl)) pc
      let l := l.half h fun x => { x with handed := x.handed ++ rows, pc := pc }
      let o2 := { o1 with chunk := 0, acc := List.replicate mo (List.replicate no (zero32 false)),
                          due := t + sc + (cdiv mo 4 - cl / kp * sc),
                          cq := if o.sel.isSome && decide (taken ≤ cl) then
                                  ((sums.drop r0).take 16).map fun r => (r.drop c0).take 16 else o.cq }
      if taken < k then l.half h fun x => { x with strm := some o2 }
      else
        let c := t + sc + mo + no + cdiv mo 4 + 2
        let l := l.strmEnd h o.issued (t + sc) c o.bank
        let mr := min 16 (mo - r0)
        let nr := min 16 (no - c0)
        let tr (m : Nat) (xs : List (List B16)) := (List.range m).map fun i => xs.map fun r => r.getD i 0#16
        let fz := (List.range mr).flatMap fun i => ((List.range nr).filter fun j => frozenAt mask (r0 + i) (c0 + j)).map fun j => (i, j)
        l.fillCheck h o.sel (tr mr o2.ca) (tr nr o2.cb) o2.cq fz c

/-- Steps repeated while they can be taken, at most `n` times. -/
def drive (step : Loc → Option Loc) : Nat → Loc → Loc
  | 0, l => l
  | n + 1, l => match step l with | some l' => drive step n l' | none => l

/-- The sc in which the MSTREAM or MSHAPE in progress takes its next words, once they are in the port. An MSTREAM that issued under the
exception of R120 takes its rows in those sc also where its MLOAD has a bubble afterwards (DESIGN CHOICE, assumption 87); until the plane is
loaded, only a row that fails is looked at. -/
def strmAt (l : Loc) (h : Nat) (o : WOp) : Option Nat :=
  if o.cls = 9 then
    if ((halfOf l.sp h).planes.getD (planeF o.q.word) Plane.reset).valid then
      (wordsAt l (westPort h) 1).map fun ws => max o.due (lastEntry ws)
    else (earlyFail l h o).bind (·.getLast?)
  else
    match wordsAt l (westPort h) (tileWords o), wordsAt l (northPort h) (tileWords o) with
    | some as, some bs => some (max o.due (max (lastEntry as) (lastEntry bs)))
    | _, _ => none

/-- The next words that an instruction of half h takes by sc `lim`, in the order of their sc. DESIGN CHOICE (assumption 65): an MLOAD takes
its words ahead of an MSHAPE that is due in the same sc. -/
def pumpStep (s : State) (p h lim : Nat) (l : Loc) : Option Loc :=
  let x := halfOf l.sp h
  let a := x.load.bind fun o => (loadAt l h o).map fun t => (t, o)
  let b := x.strm.bind fun o => (strmAt l h o).map fun t => (t, o)
  let strm (t : Nat) (o : WOp) :=
    if o.cls = 9 then
      match if (x.planes.getD (planeF o.q.word) Plane.reset).valid then none else earlyFail l h o with
      | some ts => earlyStep s p h o ts l
      | none => rowStep s p h t o l
    else tileStep s p h t o l
  match a, b with
  | some (t, o), some (u, m) =>
    if t ≤ u then (if t ≤ lim then some (loadStep s p h t o l) else none) else if u ≤ lim then some (strm u m) else none
  | some (t, o), none => if t ≤ lim then some (loadStep s p h t o l) else none
  | none, some (u, m) => if u ≤ lim then some (strm u m) else none
  | none, none => none

/-- Bubbles of an instruction that waits for a word in sc t, or took one later than it was due, that are not counted yet. -/
def WOp.waiting (o : WOp) (taken : Option Nat) (t : Nat) : Nat := min (taken.getD t) t - o.due - o.seen

/-- The bubbles of a half up to sc t that are not counted yet: what a read of SPN_WHORL_BUBBLE finds beside the count. -/
def bubblesNow (l : Loc) (h t : Nat) : Nat :=
  let x := halfOf l.sp h
  (match x.load with | some o => o.waiting (loadAt l h o) t | none => 0) + match x.strm with | some o => o.waiting (strmAt l h o) t | none => 0

/-- The bubbles up to sc t have been read and are not counted again. -/
def Loc.bubblesSeen (l : Loc) (t : Nat) : Loc :=
  [0, 1].foldl (fun m h => m.half h fun x =>
    { x with load := x.load.map fun o => { o with seen := o.seen + o.waiting (loadAt l h o) t },
             strm := x.strm.map fun o => { o with seen := o.seen + o.waiting (strmAt l h o) t } }) l

/-- Steps for the words that the ports of a half can hold. -/
def pumpSteps : Nat := 130

/-- The instructions of half h take the words that are due by sc t. -/
def pumpTo (s : State) (p h t : Nat) (l : Loc) : Loc := drive (pumpStep s p h t) pumpSteps l

/-- The instructions of half h take the words that are due by now. -/
def pump (s : State) (p h : Nat) (l : Loc) : Loc := pumpTo s p h l.sp.clock.lc l

/-- The position as a word of stream k finds it in sc t: a half's earlier instructions have taken what is due by then. -/
def pumped (s : State) (p k t : Nat) (l : Loc) : Loc := if k < 2 then pumpTo s p k t l else l

/-- The head word of stream k does `f` in sc t, unless what its half takes of the ports until then stops the stream (R134). -/
def pumpThen (s : State) (p k t : Nat) (f : Loc → Loc) (l : Loc) : Loc :=
  let l := pumped s p k t l
  if k < 2 && (strmOf l.sp k).dead then l else f l

/-- The head word of stream k breaks a limit: E-0xA20 in the sc of its issue. -/
def illegalAt (s : State) (p k : Nat) (q : QEntry) (l : Loc) : Loc := pumpThen s p k (issueAt l k) (·.illegal k q) l

/-- The instructions of half h take the words that are there while `c` holds: the words they wait for are those of the time that passes. -/
def pumpWhile (s : State) (p h : Nat) (c : Half → Bool) (l : Loc) : Loc :=
  drive (fun m => if c (halfOf m.sp h) then pumpStep s p h (2 ^ 64) m else none) pumpSteps l

/-- What the earlier instructions of stream k can still take, for a word that waits for all of them (R76). -/
def pumpAll (s : State) (p k : Nat) (l : Loc) : Loc :=
  if k < 2 then pumpWhile s p k (fun x => x.load.isSome || x.strm.isSome) l else l

end Sys2Proof.Machine
end

