-- ==== Sys2Proof/Machine/Treadle.lean ====
section
/-!
DEFINITION. The treadle: fetch, JUMP and LOOP, DLY, FEND, HALT and the words that are illegal at dispatch (R59 to R79).
-/
namespace Sys2Proof.Machine

/-- Queue depths (Table 2.3). -/
def depthOf (k : Nat) : Nat := match k with | 0 => 32 | 1 => 32 | 2 => 64 | 3 => 128 | 4 => 64 | _ => 32

/-- Free slots of a stream (R63). DESIGN CHOICE (assumption 80): an SWAIT that has issued and waits takes its slot until it is satisfied or times
out. -/
def freeSlots (k : Nat) (q : Stream) : Nat :=
  depthOf k - q.queue.length - (q.flights.map (·.words.length)).foldl (· + ·) 0 - q.ctrl.length

/-- The treadle may fetch for the stream: enabled, room for four words, nothing that may still redirect it past its end. -/
def fetchable (k : Nat) (q : Stream) : Bool :=
  q.en && !q.fetchStop && !q.halted && q.ctrl.isEmpty && decide (4 ≤ freeSlots k q)
    && (decide (q.next < q.len) || q.flights.isEmpty)

/-- The job at a position runs, and stream k of it may fetch and end its waits (R467, R469). -/
def treadleRuns (s : State) (p k : Nat) : Bool :=
  match jobAt s p with
  | none => false
  | some j => (jobOf s j).state == 2 && (!(jobOf s j).stop || exempt s p k) && !s.bell.held && !s.power.off

/-- The treadle fetches for stream k of the job at a position: while the job runs, and while it starts from an image, so that its first frame opens
with the words of the hold fetched again (R66, R486; DEDUCED, assumption 96). -/
def treadleFetches (s : State) (p k : Nat) : Bool :=
  treadleRuns s p k || match jobAt s p with
    | some j => (jobOf s j).state == 1 && (jobOf s j).restoring && !s.bell.held && !s.power.off
    | none => false

/-- The stream with the most free slots, the lower number among equals, of those that may fetch (R63). -/
def chooseStream (s : State) (p : Nat) (sp : Spindle) : Option Nat :=
  ((List.range 6).filter (fun k => treadleFetches s p k && fetchable k (strmOf sp k))).foldl
    (fun best k => match best with
      | none => some k
      | some b => if freeSlots k (strmOf sp k) > freeSlots b (strmOf sp b) then some k else some b) none

/-- A fault marker at the end of a stream's queue; nothing further is fetched (R68). -/
def addMarker (woff code : Nat) (q : Stream) : Stream :=
  { q with queue := q.queue ++ [{ woff := woff, word := 0#128, marker := some code }], fetchStop := true, ctrl := [],
           flights := [] }

/-- The words of a stream that a line fetch keeps: to the end of the line or of the stream (R63). -/
def keepOf (q : Stream) : Nat := min (4 - (q.base + 16 * q.next) % 64 / 16) (q.len - q.next)

/-- A line fetch of stream k that its bank accepts in sc t: the words it keeps, which arrive 5 sc later (R55, R63). -/
def fetchLine (k t : Nat) (l : Loc) : Loc :=
  let q := strmOf l.sp k
  let a := q.base + 16 * q.next
  let n := keepOf q
  let l := l.scrub a (16 * n)
  let f : Fetch := { woff := q.next, due := t + 5, words := (List.range n).map fun i => BitVec.ofNat 128 (l.rdN (a + 16 * i) 16),
                     poison := l.poisonIn a (16 * n) }
  (l.mod fun sp => { sp with fetchFree := t + 1 }).strm k fun q => { q with flights := q.flights ++ [f], next := q.next + n }

/-- The fetch that the treadle presents, one line in each sc (R63), or the marker of R71 when it would pass the last word. -/
def fetchStep (s : State) (p : Nat) (l : Loc) : Loc :=
  match chooseStream s p l.sp with
  | none => l
  | some k =>
    if (strmOf l.sp k).next < (strmOf l.sp k).len then
      let t := max l.sp.clock.lc l.sp.fetchFree
      fetchLine k t (l.at_ t)
    else l.strm k fun q => addMarker q.next 0xA21 q

/-- TREADLE_FETCH (R63, R65). -/
def execTreadleFetch (p : Nat) (s : State) : Out :=
  onPos s p (fetchStep s p)

/-- A word enters its queue; the first of a frame brings the loop counters as they stand (R66). -/
def enqueue (e : QEntry) (q : Stream) : Stream :=
  { q with queue := q.queue ++ [if q.fresh then { e with loops := q.loops } else e], fresh := clsOf e.word == 3 }

/-- Words of an arrived line enter the queue in order, up to a JUMP or LOOP word, which waits for its step with the words
behind it, or a HALT, past which nothing is fetched (R64, R65). -/
def absorb : List QEntry → Stream → Stream
  | [], q => q
  | e :: es, q =>
    if clsOf e.word == 1 || clsOf e.word == 2 then { q with ctrl := e :: es }
    else
      let q := enqueue e q
      if clsOf e.word == 6 then { q with fetchStop := true, flights := [] } else absorb es q

/-- The words of a fetch as queue entries. -/
def Fetch.entries (f : Fetch) : List QEntry := f.words.zipIdx.map fun x => { woff := f.woff + x.2, word := x.1, marker := none, at_ := f.due }

/-- A line arrives: its words are taken in order unless one is poisoned (R79, R473). -/
def lineArrives (s : State) (p k : Nat) (f : Fetch) (fs : List Fetch) (l : Loc) : Loc :=
  let l := (l.strm k fun q => { q with flights := fs }).at_ f.due
  match f.poison with
  | some off =>
    let a := (strmOf l.sp k).base + 16 * f.woff
    (l.strm k fun q => { q with fetchStop := true, flights := [] }).raise
      (evW 0x302 k (f.woff + (off - a) / 16) 7 (ownAddr s p off))
  | none => l.strm k (absorb f.entries)

/-- FETCH_LINE_ARRIVAL (R64): the oldest fetch's words; a poisoned word is consumed by the treadle. -/
def execFetchLineArrival (p k : Nat) (s : State) : Out :=
  if k < 6 then
    onPos s p fun l =>
      match (strmOf l.sp k).flights with
      | [] => l
      | f :: fs => if (strmOf l.sp k).ctrl.isEmpty then lineArrives s p k f fs l else l
  else .fault (.noSuchUnit "stream" k)

/-- The target of a JUMP or LOOP word (Tables 2.7, 2.8), and whether it lies in the stream. -/
def targetOf (q : QEntry) : Int := q.woff + signedN 32 (fld q.word 95 64)
def targetIn (st : Stream) (q : QEntry) : Bool := decide (0 ≤ targetOf q) && decide (targetOf q < st.len)

/-- A taken JUMP or LOOP: the words after it and the fetches in flight are discarded (R64). DESIGN CHOICE (assumption 62): the slots of those
fetches become free when the word is taken. -/
def redirect (q : QEntry) (st : Stream) : Stream := { st with next := (targetOf q).toNat, ctrl := [], flights := [] }

/-- The step of a JUMP word (R64, R68, R71). -/
def jumpStep (st : Stream) : Stream :=
  match st.ctrl with
  | q :: _ =>
    if clsOf q.word == 1 then
      if !reservedClear q.word [(127, 122), (95, 64)] then addMarker q.woff 0xA20 st
      else if !targetIn st q then addMarker q.woff 0xA21 st
      else redirect q st
    else st
  | [] => st

/-- The step of a LOOP word (R70, R68, R71). -/
def loopStep (st : Stream) : Stream :=
  match st.ctrl with
  | q :: rest =>
    if clsOf q.word == 2 then
      if !reservedClear q.word [(127, 122), (121, 119), (95, 64), (63, 40)] || fld q.word 63 40 == 0 then
        addMarker q.woff 0xA20 st
      else if !targetIn st q then addMarker q.woff 0xA21 st
      else
        let i := fld q.word 121 119
        let c := st.loops.getD i ⟨0, false⟩
        let v := if c.armed then c.value else fld q.word 63 40 - 1
        if v = 0 then
          absorb rest { st with ctrl := [], loops := modAt st.loops i fun _ => ⟨0, false⟩ }
        else redirect q { st with loops := modAt st.loops i fun _ => ⟨v - 1, true⟩ }
    else st
  | [] => st

/-- JUMP. -/
def execJump (p k : Nat) (s : State) : Out :=
  if k < 6 then onPos s p fun l => if treadleFetches s p k then l.strm k jumpStep else l else .fault (.noSuchUnit "stream" k)

/-- LOOP. -/
def execLoop (p k : Nat) (s : State) : Out :=
  if k < 6 then onPos s p fun l => if treadleFetches s p k then l.strm k loopStep else l else .fault (.noSuchUnit "stream" k)

/-- DLY (Table 2.6). -/
def execDly (p k : Nat) (s : State) : Out :=
  issue s p k (isCls 0) fun q l =>
    let c := fld q.word 63 32
    let t := issueAt l k
    if !reservedClear q.word [(127, 122), (63, 32)] || c == 0 then illegalAt s p k q l else pumpThen s p k t (·.pop k t c t) l

/-- The classes the engine of a stream takes (Tables 2.3, 2.5), the common classes of R69 included. -/
def engineTakes (k c : Nat) : Bool :=
  [0, 3, 4, 5, 6].contains c ||
  match k with
  | 0 | 1 => decide (0x08 ≤ c) && decide (c ≤ 0x0C)
  | 2 => decide (0x10 ≤ c) && decide (c ≤ 0x13)
  | 3 => decide (0x18 ≤ c) && decide (c ≤ 0x1F)
  | 4 => decide (0x20 ≤ c) && decide (c ≤ 0x25)
  | _ => decide (0x28 ≤ c) && decide (c ≤ 0x29)

/-- A word that no instruction's step takes: its class or its OP is illegal for the stream (R68, R130). -/
def illegalHead (split : Bool) (k : Nat) (w : KWord) : Option Nat :=
  let c := clsOf w
  if k == 1 && c == 0x0B then some 0xA20
  else if k == 1 && !split && decide (0x08 ≤ c) && decide (c ≤ 0x0C) then some 0xA22
  else if !engineTakes k c
    || (c == 0x0C && decide (fld w 121 119 ≥ 5)) || (c == 0x18 && decide (fld w 121 118 ≥ 8))
    || (c == 0x1A && fld w 121 120 == 3) || (c == 0x20 && fld w 121 120 == 3) || (c == 0x21 && fld w 121 120 == 3)
    || (c == 0x22 && fld w 121 120 == 3) || (c == 0x24 && decide (fld w 121 120 ≥ 2))
    || (c == 0x25 && decide (fld w 121 119 ≥ 4)) then some 0xA20
  else none

/-- FAULT_MARKER_DISPATCH (R68, R71, R79): a fault marker or an illegal word at the head of a stream raises its event. -/
def execFaultMarkerDispatch (p k : Nat) (s : State) : Out :=
  if k < 6 then
    onPos s p fun l =>
      match (strmOf l.sp k).queue with
      | q :: _ =>
        if mayIssue s p k then
          match q.marker <|> illegalHead l.sp.whorl.split k q.word with
          | some code => if code = 0xA20 then illegalAt s p k q l else pumpThen s p k (issueAt l k) (·.reject k code 0 0 q) l
          | none => l
        else l
      | [] => l
  else .fault (.noSuchUnit "stream" k)

/-- The latest retirement of the frame (R32, R33): the lowest logical number among equals. -/
def noteRetire (s : State) (p t : Nat) : State :=
  let r := rcOf s p t
  let n := (lnumOf s p).getD 0
  if r > s.bell.lastRet || (r == s.bell.lastRet && n < s.bell.lastBy) then
    { s with bell := { s.bell with lastRet := r, lastBy := n } }
  else s

/-- A stream retires its frame-end marker in sc t (R25, R72). -/
def retire (k t : Nat) (halt : Bool) (phase : Nat) (l : Loc) : Loc :=
  let l := (l.pop k t 1 t).strm k fun q =>
    { q with finished := true, halted := q.halted || halt, frameSc := t - l.sp.clock.bellLc }
  l.mod fun sp => { sp with halfRun := if sp.halfRun == some k then none else sp.halfRun,
                            fendPhase := if k = 0 && !halt then some phase else sp.fendPhase }

/-- FEND and HALT issue once every earlier instruction of the stream has completed and retire in that sc, when its time is known (R38, R72, R76;
assumption 79). -/
def endFrame (p k cls : Nat) (s : State) : Out :=
  if k < 6 then
    if p < 624 then
      let l := openPos s p
      match (strmOf l.sp k).queue with
      | q :: _ =>
        if mayIssue s p k && q.marker.isNone && isCls cls q.word then
          if !reservedClear q.word [(127, 122), (7, 0)] then .next (closePos s p (illegalAt s p k q l)) else
          let l := pumpAll s p k l
          let t := fenceAt l k
          if engineIdle l.sp k && !(strmOf l.sp k).dead && clockKnown s p t then
            .next (noteRetire (closePos s p (retire k t (cls == 6) (fld q.word 7 0) l)) p t)
          else .next (closePos s p l)
        else .next s
      | [] => .next s
    else .fault (.noSuchUnit "position" p)
  else .fault (.noSuchUnit "stream" k)

/-- FEND. -/
def execFend (p k : Nat) (s : State) : Out := endFrame p k 3 s
/-- HALT. -/
def execHalt (p k : Nat) (s : State) : Out := endFrame p k 6 s

end Sys2Proof.Machine
end

