-- ==== Sys2Proof/Machine/Sync.lean ====
section
/-!
DEFINITION. Engine semaphores (R75 to R77, R274 to R277) and the synchronisation error record (R289).
-/
namespace Sys2Proof.Machine

/-- The record of Table 10.4. -/
def syncRec (s : State) (p code kind stream woff obj seen count : Nat) : Nat :=
  code + put kind 12 + put stream 13 + put ((lnumOf s p).getD 0) 16 + put (woff % 2 ^ 32) 32
    + put (obj % 2 ^ 57) 64 + put (seen % 2 ^ 16) 128 + put (count % 2 ^ 16) 144 + put (s.bell.count % 2 ^ 32) 160

/-- A synchronisation event: the record is posted and latched in SPN_SYNC_ERR (R289). -/
def Loc.syncErr (l : Loc) (s : State) (p code kind stream woff obj seen count : Nat) : Loc :=
  let r := syncRec s p code kind stream woff obj seen count
  (l.mod fun sp => { sp with syncErr := r }).raise
    { code := code, kind := kindOf code, stream := stream, woff := woff, da := 0, db := 0, rcd := some r }

/-- The value of a semaphore. -/
def semOf (sp : Spindle) (n : Nat) : Nat := sp.sems.getD n 0
/-- Set a semaphore. -/
def Loc.setSem (l : Loc) (n v : Nat) : Loc := l.mod fun sp => { sp with sems := modAt sp.sems n fun _ => v }

/-- Fields of SWAIT and SSIG (Tables 2.10, 2.11). -/
def semF (w : KWord) : Nat := fld w 121 118
def semMode (w : KWord) : Nat := fld w 117 116
def semScope (w : KWord) : Nat := fld w 115 113
def semCount (w : KWord) : Nat := fld w 112 97

/-- A SWAIT in mode 0 or 1 finds its count in sc t (Table 10.1): the acquire takes effect. A word behind one that had waited may issue in the
same sc (R76), so its sc of issue alone is occupied (R52). -/
def satisfy (s : State) (p k t : Nat) (q : QEntry) (l : Loc) : Loc :=
  let n := semF q.word
  let l := if semMode q.word = 1 then l else l.setSem n (semOf l.sp n - semCount q.word)
  let occ := if (strmOf l.sp k).waitSince.isSome then 0 else 1
  (l.pop k t occ t).acquire s p (semScope q.word)

/-- The fields of a SWAIT break a limit (Table 2.10). -/
def swaitBad (w : KWord) : Bool :=
  !reservedClear w [(127, 122), (121, 118), (117, 116), (115, 113), (112, 97), (63, 32)] || semMode w == 3
    || decide (semScope w ≥ 6) || semCount w == 0 || fld w 63 32 == 0

/-- What an SWAIT that stands at issue in sc t does: it is satisfied, raises E-0x202 in mode 2, or waits (Table 10.1). -/
def swaitAct (s : State) (p k t : Nat) (q : QEntry) (l : Loc) : Loc :=
  let n := semF q.word
  if semCount q.word ≤ semOf l.sp n then satisfy s p k t q l
  else if semMode q.word = 2 then ((l.pop k t 1 t).kill k).syncErr s p 0x202 0 k q.woff n (semOf l.sp n) (semCount q.word)
  else (l.strm k fun x => { x with waitSince := some t, free := t + 1 }).at_ t

/-- The head of stream k is an SWAIT on semaphore n that stands at issue in sc t: it waits, or it issues in that sc (R77). -/
def standsAt (s : State) (p k n t : Nat) (l : Loc) : Option QEntry :=
  match (strmOf l.sp k).queue with
  | q :: _ =>
    if isCls 4 q.word && semF q.word == n && treadleRuns s p k &&
        ((strmOf l.sp k).waitSince.isSome || (mayIssueOn s p k l.sp && q.marker.isNone && !swaitBad q.word && issueAt l k == t)) then some q else none
  | [] => none

/-- The SWAIT on semaphore n that stands at issue in stream k in sc t acts. -/
def serveOne (s : State) (p n t k : Nat) (l : Loc) : Loc :=
  match standsAt s p k n t l with
  | some q =>
    pumpThen s p k t (fun l => if (strmOf l.sp k).waitSince.isSome && decide (semOf l.sp n < semCount q.word) then l else swaitAct s p k t q l) l
  | none => l

/-- The waits on semaphore n in stream order, those that issue in this sc among them, one behind a wait that ends in this sc in its stream's turn
(R76, R77). -/
def serveWaits (s : State) (p n t : Nat) (l : Loc) : Loc :=
  (List.range 6).foldl (fun l k => serveOne s p n t k (serveOne s p n t k l)) l

/-- A lower stream's SWAIT on semaphore n issues in sc t as well: it goes first (R77). -/
def lowerWait (s : State) (p k n t : Nat) (l : Loc) : Bool :=
  (List.range k).any fun i => (strmOf l.sp i).waitSince.isNone && (standsAt s p i n t l).isSome

/-- SWAIT (R75, R275): the additions of its sc and the lower streams' waits come first (R77). -/
def execSwait (p k : Nat) (s : State) : Out :=
  issueW s p k (isCls 4) fun q l =>
    let w := q.word
    let t := issueAt l k
    if swaitBad w then some (illegalAt s p k q l)
    else if l.sp.sigs.any (fun g => g.sem == semF w && decide (g.at_ ≤ t)) || lowerWait s p k (semF w) t l then none
    else some (pumpThen s p k t (swaitAct s p k t q) l)

/-- SWAIT_TIMEOUT (R277): a satisfaction in the same sc wins over the expiry. -/
def execSwaitTimeout (p k : Nat) (s : State) : Out :=
  if k < 6 then
    onPos s p fun l =>
      match (strmOf l.sp k).waitSince, (strmOf l.sp k).queue with
      | some t, q :: _ =>
        let e := t + fld q.word 63 32
        if !isCls 4 q.word || !treadleRuns s p k || l.sp.sigs.any (fun g => g.sem == semF q.word && decide (g.at_ ≤ e)) then l
        else pumpThen s p k e (fun l =>
          (((l.pop k e 1 e).kill k)).syncErr s p 0x203 0 k q.woff (semF q.word) (semOf l.sp (semF q.word)) (semCount q.word)) l
      | _, _ => l
  else .fault (.noSuchUnit "stream" k)

/-- The fields of an SSIG break a limit (Table 2.11). -/
def ssigBad (w : KWord) : Bool :=
  !reservedClear w [(127, 122), (121, 118), (115, 113), (112, 97)] || decide (semScope w ≥ 6) || semCount w == 0

/-- An SSIG that has issued in sc t acts two sc later (R76). -/
def ssigDo (k t : Nat) (q : QEntry) (l : Loc) : Loc :=
  (l.pop k t 1 t).mod fun sp =>
    { sp with sigs := sp.sigs ++ [{ at_ := t + 2, sem := semF q.word, count := semCount q.word, stream := k, woff := q.woff }] }

/-- The addition of an SSIG; the waits follow the last addition of its sc to the semaphore (R77, R275). -/
def sigAdd (s : State) (p : Nat) (g : Sig) (rest : List Sig) (l : Loc) : Loc :=
  let l := (l.mod fun sp => { sp with sigs := rest }).at_ g.at_
  let v := semOf l.sp g.sem
  let l := if v + g.count ≤ 65535 then l.setSem g.sem (v + g.count)
    else (l.kill g.stream).syncErr s p 0x201 0 g.stream g.woff g.sem v g.count
  if rest.any (fun x => x.at_ == g.at_ && x.sem == g.sem) then l else serveWaits s p g.sem g.at_ l

/-- The writes of its engine that an SSIG's release waits for are acknowledged (R260). -/
def ssigFree (s : State) (p k scope : Nat) (l : Loc) : Bool := k != 4 || releaseMet s p scope l.sp

/-- The sc in which an SSIG issues: its stream's earlier instructions have completed and its own engine's writes through the reeler have
landed (R76, R260). -/
def ssigAt (k scope : Nat) (l : Loc) : Nat :=
  max (fenceAt l k) (if k = 5 ∧ 2 ≤ scope then l.sp.reeler.lastLand else 0)

/-- SSIG (R76, R260). -/
def execSsig (p k : Nat) (s : State) : Out :=
  issueW s p k (isCls 5) fun q l =>
    let w := q.word
    if ssigBad w then some (illegalAt s p k q l)
    else
      let l := pumpAll s p k l
      if (strmOf l.sp k).dead then some l
      else if engineIdle l.sp k && ssigFree s p k (semScope w) l then some (ssigDo k (ssigAt k (semScope w) l) q l)
      else none

/-- SSIG_ACT (R76, R275, R276): the earliest issued SSIG acts, those of one sc in stream order (DESIGN CHOICE, assumption 63); an overflow
leaves the value. -/
def execSsigAct (p : Nat) (s : State) : Out :=
  onPos s p fun l =>
    if !live s p then l else
    match pluckMin (fun _ => true) (fun g => 8 * g.at_ + g.stream) l.sp.sigs with
    | none => l
    | some (g, rest) => sigAdd s p g rest l

end Sys2Proof.Machine
end

