-- ==== Sys2Proof/Machine/Operands.lean ====
section
/-!
DEFINITION. Operand forms the engines share: the tensor header and the elements, scales and side-list slots it locates
(R87 to R90, R101, R176), the check of R101, widening (R104), and the write of blocks under R91 to R95.
-/
namespace Sys2Proof.Machine

/-- A tensor header (Table 3.6). -/
structure Header where
  raw : Nat
  fmt : Nat
  blen : Nat
  oslot : Nat
  oshift : Nat
  mx : Bool
  tsc : Bool
  tid : Nat
  tscale : F32
  nblk : Nat
  elem : Nat
  scale : Nat
  side : Nat
deriving DecidableEq, Repr

/-- The header whose 64 bytes are w. -/
def headerOf (w : Nat) : Header :=
  { raw := w, fmt := fldN w 3 0, blen := fldN w 5 4, oslot := fldN w 7 6, oshift := fldN w 11 8, mx := w.testBit 12,
    tsc := w.testBit 13, tid := fldN w 31 16, tscale := BitVec.ofNat 32 (fldN w 63 32), nblk := fldN w 95 64,
    elem := fldN w 191 128, scale := fldN w 255 192, side := fldN w 319 256 }

/-- The header at a local offset. -/
def readHeader (l : Loc) (a : Nat) : Header := headerOf (l.rdN a 64)

/-- A finite normal binary32 value. -/
def isNormal (x : F32) : Bool := let e := fldN x.toNat 30 23; e != 0 && e != 255

/-- A valid header (R90). -/
def Header.ok (h : Header) : Bool :=
  isNarrow h.fmt && h.oslot != 3 && !(h.oslot != 0 && h.oshift == 0) && !(h.mx && h.fmt == 7)
    && !(h.tsc && !isNormal h.tscale)
    && reservedClearN 512 h.raw [(13, 0), (95, 16), (319, 128)] && h.elem % 64 == 0

/-- Elements per block. -/
def Header.b (h : Header) : Nat := blenOf h.blen
/-- The tensor scale that applies (R87). -/
def Header.t (h : Header) : F32 := if h.tsc then h.tscale else one32

/-- A range of device addresses lies in the distaff part of window n. -/
def inWindow (n a len : Nat) : Bool :=
  decide (n * 0x0200_0000 ≤ a) && decide (a + len ≤ n * 0x0200_0000 + distSize)

/-- The own logical number of a position; a position that runs a job has one. -/
def lnum (s : State) (p : Nat) : Nat := (lnumOf s p).getD 0

/-- Local offset of a device address of the own window. -/
def toLocal (s : State) (p a : Nat) : Nat := a - lnum s p * 0x0200_0000

/-- Bytes that elements [e0, e0+n) of the tensor touch, as (device address, length) (R89). -/
def Header.elemRange (h : Header) (e0 n : Nat) : Nat × Nat :=
  let w := fmtBits h.fmt
  let a := h.elem + e0 * w / 8
  let z := h.elem + cdiv ((e0 + n) * w) 8
  (a, z - a)

/-- Every element, scale and side-list byte of blocks b0 to b0 + nb − 1 lies in the own window (R101). -/
def Header.blocksIn (h : Header) (n b0 nb : Nat) : Bool :=
  let r := h.elemRange (b0 * h.b) (nb * h.b)
  inWindow n r.1 r.2 && inWindow n (h.scale + b0) nb
    && (h.oslot == 0 || inWindow n (h.side + b0 * h.oslot * 4) (nb * h.oslot * 4))

/-- The header's addresses lie in window n (R101). -/
def Header.basesIn (h : Header) (n : Nat) : Bool := inWindow n h.elem 1 && inWindow n h.scale 1 && (h.oslot == 0 || inWindow n h.side 1)

/-- The first block from b0 on, of nb, that does not exist or whose bytes leave window n (R101, R519). -/
def Header.firstBad (h : Header) (n b0 nb : Nat) : Option Nat :=
  ((List.range nb).map (b0 + ·)).find? fun b => decide (h.nblk ≤ b) || !h.blocksIn n b 1

/-- The block that an E-0x111 names: the first that offends, or 0 (R519). -/
def Header.badBlock (h : Header) (n b0 nb : Nat) : Nat := if h.ok then (h.firstBad n b0 nb).getD 0 else 0

/-- Code of element i (R89). -/
def elemCode (s : State) (p : Nat) (l : Loc) (h : Header) (i : Nat) : Nat :=
  let w := fmtBits h.fmt
  let a := toLocal s p (h.elem + i * w / 8)
  fldN (l.rdN a 2) (i * w % 8 + w - 1) (i * w % 8)

/-- Scale byte of block b. -/
def scaleByte (s : State) (p : Nat) (l : Loc) (h : Header) (b : Nat) : Nat := l.rdN (toLocal s p (h.scale + b)) 1

/-- The valid side-list entries of block b in slot order: value and index (R176). -/
def sideOf (s : State) (p : Nat) (l : Loc) (h : Header) (b : Nat) : List Outlier :=
  (List.range h.oslot).filterMap fun i =>
    let w := l.rdN (toLocal s p (h.side + (b * h.oslot + i) * 4)) 4
    if w.testBit 23 then some ⟨BitVec.ofNat 16 w, fldN w 22 16⟩ else none

/-- The side-list value that stands in for element i (R87). DESIGN CHOICE (assumption 67): where two valid slots of a block name one element,
the value of the lower slot. -/
def sideElem (s : State) (p : Nat) (l : Loc) (h : Header) (i : Nat) : Option Outlier :=
  (sideOf s p l h (i / h.b)).find? fun o => o.index == i % h.b

/-- Element i widened to binary32 (R87, R104). -/
def widenElem (s : State) (p : Nat) (l : Loc) (h : Header) (i : Nat) : F32 :=
  let sc := scaleByte s p l h (i / h.b)
  let v := match sideElem s p l h i with
    | some o => if sc = 0xFF then nan32 else widen16 o.value
    | none => toF32 (elemFv h.fmt (elemCode s p l h i) sc)
  if h.tsc then fmul v h.tscale else v

/-- A widening leaves the binary32 range (R104): the element's exact value is finite and its binary32 is not. -/
def widenOver (s : State) (p : Nat) (l : Loc) (h : Header) (i : Nat) : Bool :=
  let v := elemFv h.fmt (elemCode s p l h i) (scaleByte s p l h (i / h.b))
  (sideElem s p l h i).isNone && !v.isNonFinite && isNF (toF32 v)

/-- The numeric state of the job at a position. -/
def numAt (s : State) (p : Nat) : Numeric := match jobAt s p with | some j => (jobOf s j).num | none => Numeric.reset

/-- The rule with which a writer forms blocks under a header (R91, R98). -/
def blockRule (s : State) (p : Nat) (h : Header) (sr : Bool) : BlockRule :=
  let n := numAt s p
  { fmt := h.fmt, oslot := h.oslot, oshift := h.oshift, mx := h.mx, tsc := h.tsc, tscale := h.tscale, sr := sr,
    key := n.key, tid := h.tid, step := n.step }

/-- The flag, the counters and the event of a formed block (R93 to R95, R178): all in the sc in which the bank accepts the write of its scale
byte, 4 sc before it is visible. -/
def noteBlock (k woff tid b : Nat) (blk : Block) (l : Loc) : Loc :=
  let v := if blk.nonFinite then some (evW 0x110 k woff tid b) else none
  let e : Pend := { Pend.bytes 0 0 [] [] with
    nf := blk.nonFinite, under := b2n blk.under, nonFin := b2n blk.nonFinite, ovf := blk.outOvf }
  match l.late, v with
  | some u, _ => l.push { e with at_ := u - 4, ev := v }
  | none, some x => (l.landOne e).raise x
  | none, none => l.landOne e

/-- Element codes put at bit offset i × w of the tensor's elements: the bytes of a whole block (R89). -/
def packCodes (w : Nat) (codes : List Nat) : Nat := codes.zipIdx.foldl (fun a c => a + put c.1 (c.2 * w)) 0

/-- A block is written: elements, scale byte, side-list slots (R89, R176). Blocks of 16 or more elements fill whole bytes. -/
def writeBlock (s : State) (p : Nat) (h : Header) (b : Nat) (blk : Block) (l : Loc) : Loc :=
  let w := fmtBits h.fmt
  let l := l.wr (toLocal s p (h.elem + b * h.b * w / 8)) (leBytes (h.b * w / 8) (packCodes w blk.codes))
  let l := l.wr (toLocal s p (h.scale + b)) [BitVec.ofNat 8 blk.scale]
  if h.oslot = 0 then l else
    let slots := (List.range h.oslot).flatMap fun i => leBytes 4 (match blk.out[i]? with
      | some o => o.value.toNat + put o.index 16 + 2 ^ 23
      | none => 0)
    l.wr (toLocal s p (h.side + b * h.oslot * 4)) slots

/-- Blocks b0, b0+1, … of a tensor formed from lists of values and written in order (R91 to R95). -/
def writeBlocks (s : State) (p k woff : Nat) (h : Header) (sr : Bool) : Nat → List (List F32) → Loc → Loc
  | _, [], l => l
  | b, xs :: rest, l =>
    let blk := formBlock (blockRule s p h sr) (b * h.b) xs
    writeBlocks s p k woff h sr (b + 1) rest (noteBlock k woff h.tid b blk (writeBlock s p h b blk l))

/-- A list cut into pieces of n. -/
def pieces {α : Type} (n : Nat) : Nat → List α → List (List α)
  | 0, _ => []
  | c + 1, l => l.take n :: pieces n c (l.drop n)

/-- n binary32 values at a local offset, or bfloat16 values widened. -/
def readVals (l : Loc) (bf : Bool) (a n : Nat) : List F32 :=
  (List.range n).map fun i => if bf then widen16 (l.rd16 (a + 2 * i)) else canon32 (l.rd32 (a + 4 * i))

/-- Values written as binary32, or rounded once to bfloat16. -/
def wrVals (bf : Bool) (a : Nat) (vs : List F32) (l : Loc) : Loc :=
  l.wr a (vs.flatMap fun v => if bf then leBytes 2 (narrow16 v).toNat else leBytes 4 v.toNat)

/-- Element size in bytes. -/
def esz (bf : Bool) : Nat := if bf then 2 else 4

/-- A written value is Inf or NaN, after a rounding to bfloat16 where there is one (R225). -/
def nfOut (bf : Bool) (v : F32) : Bool := if bf then (read16 (narrow16 v)).isNonFinite else isNF v

end Sys2Proof.Machine
end

