-- ==== Sys2Proof/Machine/Whorl.lean ====
section
/-!
DEFINITION. The whorl's instructions (R110 to R137): MLOAD, MSTREAM, MSHAPE and MSPLIT with their conditions of issue, and the selection of
R180 to R182.
-/
namespace Sys2Proof.Machine

/-! Issue (R135, R159) -/

/-- A whorl word may stand at issue: in W0, or in W1 while split. -/
def inWhorl (s : State) (p k : Nat) : Bool := k == 0 || (k == 1 && (spAt s p).whorl.split)

/-- A whorl operation that has taken nothing yet. -/
def WOp.start (cls : Nat) (q : QEntry) (issued due bank row pc : Nat) (acc : List (List F32)) (sel : Option Nat) : WOp :=
  { cls := cls, q := q, issued := issued, due := due, taken := 0, words := [], bank := bank, row := row, pc := pc, bubbled := false, acc := acc,
    chunk := 0, ta := one32, tb := one32, mask := none, last := 0, sel := sel, ca := [], cb := [], cq := [] }

/-- The fields of an MLOAD break a limit (Table 4.4). -/
def mloadBad (l : Loc) (k : Nat) (w : KWord) : Bool :=
  let fmt := fld w 121 118
  let kr := fld w 88 80
  let nc := fld w 72 64
  !reservedClear w [(127, 122), (121, 118), (113, 113), (88, 80), (72, 64)] || fmt == 0 || decide (fmt > 7) || kr == 0
    || decide (kr > 256) || (decide (kr > 128) && !is4bit fmt) || nc == 0
    || decide (nc > (if l.sp.whorl.split || (halfOf l.sp k).layout.cmpt then 64 else 128))

/-- An MLOAD waits: the load path is taken, or its plane streams (R118). -/
def mloadWaits (w : KWord) (x : Half) : Bool :=
  x.load.isSome || (match x.strm with | some o => o.cls == 9 && planeF o.q.word == planeF w | none => false)

/-- The sc in which an MLOAD issues that waits for nothing more (R118). -/
def mloadAt (l : Loc) (k : Nat) (w : KWord) : Nat :=
  let x := halfOf l.sp k
  max (max (issueAt l k) x.loadFree) (x.planes.getD (planeF w) Plane.reset).busyTill

/-- An MLOAD issues: its plane is not valid from then on, and the load takes the words that are there. The plane's l of R181 is the load
counter before this MLOAD counts: the first plane has l = 0 (DESIGN CHOICE, assumption 29). -/
def mloadDo (s : State) (p k : Nat) (q : QEntry) (l : Loc) : Loc :=
  let w := q.word
  let t := mloadAt l k w
  pump s p k ((l.pop k t 1 t).half k fun x =>
    { x with load := some (WOp.start 8 q t t 0 0 0 [] none), loads := (x.loads + 1) % 2 ^ 32, planes := modAt x.planes (planeF w) fun pl =>
        { pl with valid := false, fmt := fld w 121 118, kr := fld w 88 80, nc := fld w 72 64, rows := [], loadNo := x.loads } })

/-- MLOAD. -/
def execMload (p k : Nat) (s : State) : Out :=
  issueW s p k (fun w => isCls 0x08 w && inWhorl s p k) fun q l =>
    if mloadBad l k q.word then some (illegalAt s p k q l)
    else
      let l := pumpWhile s p k (mloadWaits q.word) l
      let l := if mloadWaits q.word (halfOf l.sp k) then l else pumpTo s p k (mloadAt l k q.word) l
      if (strmOf l.sp k).dead then some l else if mloadWaits q.word (halfOf l.sp k) then none else some (mloadDo s p k q l)

/-- The action of a sensitive layer (R179): 0 none, 1 event, 2 fault. -/
def sensitive (s : State) (p ltag : Nat) (fmts : List Nat) : Nat :=
  let r := qsens s p
  let inR (lo hi : Nat) := decide (lo ≤ ltag) && decide (ltag ≤ hi)
  if fmts.any (fun f => decide (4 ≤ f)) && (inR (fldN r 15 0) (fldN r 31 16) || inR (fldN r 47 32) (fldN r 63 48)) then
    fldN (qcheck s p) 7 6 else 0

/-- E-0x132 with the disposition of the action. -/
def senseEv (h ltag act : Nat) (q : QEntry) : Ev :=
  { code := 0x132, kind := if act = 2 then 1 else 0, stream := h, woff := q.woff, da := ltag, db := 0, rcd := none }

/-- The selection of R180 and R188 in sc t: a check that a VCHECK clears by then makes room. -/
def Loc.select (l : Loc) (s : State) (p h t ltag : Nat) (nochk ok : Bool) : Loc × Option Nat :=
  if nochk then (l, none) else
  let nlog := fldN (qcheck s p) 4 0
  let x := halfOf l.sp h
  let v := (x.sel + 1) % 2 ^ 32
  let l := l.half h fun x => { x with sel := v }
  if nlog ≠ 31 ∧ v % 2 ^ nlog = 0 then
    if ok && !x.checkHeld t then
      (l.half h fun x => { x with check := some { ltag := ltag, sel := v, a := [], b := [], q := [], frozen := [], ready := none,
                                                  clearAt := none } },
       some v)
    else (l.count fun c => { c with qskip := sat32 c.qskip 1 }, none)
  else (l, none)

/-- An MSTREAM or MSHAPE that has passed its conditions issues in sc t (R157, R179, R180). DESIGN CHOICE (assumption 105): in split mode too, a stop
by SACT = 2 ends the job's dispatch everywhere; R134 does not name E-0x132 among the faults that stay in one half. -/
def startOp (s : State) (p k t cls due row : Nat) (nochk : Bool) (fmts : List Nat) (krefOk : Bool) (acc : List (List F32))
    (q : QEntry) (l : Loc) : Loc :=
  let ltag := fld q.word 31 16
  let act := sensitive s p ltag fmts
  if act = 2 then ((l.pop k t 1 t).kill k).raise (senseEv k ltag 2 q) else
  let l := if act = 1 then l.raise (senseEv k ltag 1 q) else l
  let (l, sel) := l.select s p k t ltag nochk krefOk
  let x := halfOf l.sp k
  let pc := if cls = 9 then (x.pc + 1) % 2 ^ 30 else x.pc
  let o := WOp.start cls q t due x.layout.live row pc acc sel
  pump s p k ((l.pop k t 1 t).half k fun x => { x with strm := some o, pc := pc })

/-- When an MSTREAM may name its plane, from sc t (R120): not known yet, never, or an sc. -/
def planeAt (x : Half) (n t : Nat) : Option (Option Nat) :=
  let pl := x.planes.getD n Plane.reset
  if pl.valid then some (some (max t pl.readyAt))
  else match x.load with
    | some o =>
      if planeF o.q.word = n then
        let t' := max t (o.issued + 1)
        if !o.bubbled && decide (t' ≤ o.due) then some (some t') else none
      else some none
    | none => some none

/-- The fields of an MSTREAM break a limit (Table 4.5). -/
def mstreamBad (w : KWord) : Bool :=
  let fa := fld w 121 118
  let m := fld w 95 80
  !reservedClear w [(127, 122), (121, 118), (113, 112), (95, 80), (73, 64), (31, 15)] || fa == 0 || decide (fa > 7) || m == 0 || decide (m > 1024)

/-- The sc in which an MSTREAM or MSHAPE of half k has its stream path and its bank (Tables 4.10, 5.4); none while that is not known. -/
def streamFree (l : Loc) (k : Nat) : Option Nat :=
  bankFree (halfOf l.sp k) (halfOf l.sp k).layout.live (max (issueAt l k) (halfOf l.sp k).strmFree)

/-- The sc in which an MSTREAM issues, and its row in the bank; none while that is not known, or never. -/
def mstreamAt (l : Loc) (k : Nat) (w : KWord) : Option (Nat × Nat) :=
  let x := halfOf l.sp k
  match (streamFree l k).bind (planeAt x (planeF w)), bobRow l.sp.whorl.split k x.layout (fld w 73 64) (fld w 95 80) with
  | some (some t), some row => if (x.planes.getD (planeF w) Plane.reset).nc > rowWidth l.sp.whorl.split x.layout then none else some (t, row)
  | _, _ => none

/-- An MSTREAM issues. -/
def mstreamDo (s : State) (p k : Nat) (q : QEntry) (l : Loc) (t row : Nat) : Loc :=
  let w := q.word
  startOp s p k t 9 t row (bitOf w 15) [fld w 121 118, ((halfOf l.sp k).planes.getD (planeF w) Plane.reset).fmt] true [] q l

/-- Instructions of half k before an MSTREAM or MSHAPE run on until the stream path is free. -/
def pathReady (s : State) (p k : Nat) (l : Loc) : Loc := pumpWhile s p k (·.strm.isSome) l

/-- What an MSTREAM finds at its issue: the load of its plane as far as it has come, to its end where a bubble makes the MSTREAM wait for
that (R120). -/
def planeReady (s : State) (p k : Nat) (w : KWord) (l : Loc) : Loc :=
  match streamFree l k with
  | none => l
  | some t =>
    let l := pumpTo s p k t l
    if (planeAt (halfOf l.sp k) (planeF w) t).isNone then pumpWhile s p k (·.load.isSome) l else l

/-- MSTREAM. Where it names a plane that is not valid and rows out of range as well, E-0xA28 is raised (DESIGN CHOICE, assumption 64). -/
def execMstream (p k : Nat) (s : State) : Out :=
  issueW s p k (fun w => isCls 0x09 w && inWhorl s p k) fun q l =>
    let w := q.word
    if mstreamBad w then some (illegalAt s p k q l)
    else
      let l := planeReady s p k w (pathReady s p k l)
      let x := halfOf l.sp k
      if (strmOf l.sp k).dead then some l
      else if x.strm.isSome then none
      else match mstreamAt l k w with
        | some (t, row) => some (mstreamDo s p k q l t row)
        | none =>
          match streamFree l k, (streamFree l k).bind (planeAt x (planeF w)) with
          | some t, some none => some (l.whorlReject k t 0xA28 (westPort k + put 5 2) 0 q)
          | _, some (some t) => some (l.whorlReject k t 0xA20 0 0 q)
          | _, _ => none

/-- The fields of an MSHAPE break a limit (Table 4.7). -/
def mshapeBad (l : Loc) (k : Nat) (w : KWord) : Bool :=
  let fa := fld w 121 118
  let fb := fld w 117 114
  let sh := fld w 113 111
  !reservedClear w [(127, 122), (121, 110), (103, 80), (73, 64), (31, 15)] || fa == 0 || decide (fa > 7) || fb == 0
    || decide (fb > 7) || decide (sh > 5) || fld w 103 80 == 0
    || ((l.sp.whorl.split || (halfOf l.sp k).layout.cmpt) && (sh == 0 || sh == 2 || sh == 5))

/-- The sc in which an MSHAPE issues, and its row in the bank. -/
def mshapeAt (l : Loc) (k : Nat) (w : KWord) : Option (Nat × Nat) :=
  let x := halfOf l.sp k
  let (mo, no) := shapeOf (fld w 113 111)
  match streamFree l k, bobRow l.sp.whorl.split k x.layout (fld w 73 64) mo with
  | some t, some row => if no > rowWidth l.sp.whorl.split x.layout then none else some (t, row)
  | _, _ => none

/-- An MSHAPE issues. -/
def mshapeDo (s : State) (p k : Nat) (q : QEntry) (t row : Nat) (l : Loc) : Loc :=
  let w := q.word
  let (mo, no) := shapeOf (fld w 113 111)
  startOp s p k t 10 (t + 16) row (bitOf w 15) [fld w 121 118, fld w 117 114]
    (decide (min (chunkLen (halfOf l.sp k).layout) (fld w 103 80) ≤ 1024)) (List.replicate mo (List.replicate no (zero32 false))) q l

/-- MSHAPE. -/
def execMshape (p k : Nat) (s : State) : Out :=
  issueW s p k (fun w => isCls 0x0A w && inWhorl s p k) fun q l =>
    let w := q.word
    if mshapeBad l k w then some (illegalAt s p k q l)
    else
      let l := pathReady s p k l
      if (strmOf l.sp k).dead then some l
      else if (halfOf l.sp k).strm.isSome then none
      else match mshapeAt l k w with
        | some (t, row) => some (pumpThen s p k t (mshapeDo s p k q t row) l)
        | none => (streamFree l k).map fun t => pumpThen s p k t (·.whorlReject k t 0xA20 0 0 q) l

/-! MSPLIT (R130 to R133, R164, R188, R189) -/

/-- A plane's columns from c0 on, at most n of them. -/
def Plane.cols (pl : Plane) (c0 n : Nat) : Plane :=
  { pl with nc := min n (pl.nc - c0),
            rows := pl.rows.map fun w => { w with elems := (w.elems.drop c0).take n, pre := (w.pre.drop c0).take n } }

/-- Every row of a half's partitions cleared (R147). -/
def Half.clear (x : Half) : Half := { x with tot := [], used := [], poison := [], errs := [], undef := none }

/-- The array enters split mode. -/
def enterSplit (sp : Spindle) : Spindle :=
  let x := halfOf sp 0
  let y := { x.layout with roww := 1 }
  let h0 := { x.clear with planes := x.planes.map (·.cols 0 64), layout := y }
  let h1 := { (halfOf sp 1).clear with planes := x.planes.map (·.cols 64 64), layout := y, pc := 0, sel := 0, loads := 0,
                                       load := none, strm := none, handed := [], drain := [], check := none,
                                       loadFree := x.loadFree, strmFree := x.strmFree, bankDone := x.bankDone }
  { sp with whorl := { sp.whorl with split := true, halves := [h0, h1] } }

/-- The array leaves split mode in sc t. -/
def leaveSplit (t : Nat) (sp : Spindle) : Spindle :=
  let f (x : Half) := { x.clear with planes := x.planes.map fun pl => { pl with valid := false } }
  let out (q : FeedPort) := { q with fifo := [], left := (q.fifo.map (fun _ => t) ++ q.left).take 64 }
  { sp with whorl := { sp.whorl with split := false, halves := [f (halfOf sp 0), { f (halfOf sp 1) with check := none }],
                                     ports := sp.whorl.ports.zipIdx.map fun q => if q.2 ≥ 2 then out q.1 else q.1 } }

/-- The sc in which an MSPLIT issues, once everything before it has completed; with ON = 0 also what W1 has issued, one that a fault aborted with
its abort (R131). -/
def msplitAt (l : Loc) (on : Bool) : Nat :=
  let x := halfOf l.sp 1
  max (fenceAt l 0) (if !on && l.sp.whorl.split then max (strmOf l.sp 1).doneAt (max x.loadFree x.strmFree) else 0)

/-- What an MSPLIT waits for is taken as far as it can be: the whorl instructions of W0, and with ON = 0 of W1 (R131). -/
def msplitPump (s : State) (p : Nat) (on : Bool) (l : Loc) : Loc :=
  let l := pumpAll s p 0 l
  if !on && l.sp.whorl.split then pumpAll s p 1 l else l

/-- What an MSPLIT does to the array; W1 finds the new mode from the next sc on (R131). -/
def msplitDo (on : Bool) (t : Nat) (l : Loc) : Loc :=
  if on == l.sp.whorl.split then l
  else (if on then l.mod enterSplit else (l.dropCheck 1 t).mod (leaveSplit (t + 1))).strm 1 fun q => { q with free := max q.free (t + 1) }

/-- The whorl instructions that an MSPLIT waits for have completed (R131). -/
def msplitFree (on : Bool) (l : Loc) : Bool := engineIdle l.sp 0 && (on || !l.sp.whorl.split || engineIdle l.sp 1)

/-- MSPLIT. -/
def execMsplit (p : Nat) (s : State) : Out :=
  issueW s p 0 (isCls 0x0B) fun q l =>
    let on := bitOf q.word 121
    if !reservedClear q.word [(127, 121)] then some (illegalAt s p 0 q l)
    else
      let l := msplitPump s p on l
      if (strmOf l.sp 0).dead then some l
      else if msplitFree on l then some (msplitDo on (msplitAt l on) (l.pop 0 (msplitAt l on) 1 (msplitAt l on + 2)))
      else none

end Sys2Proof.Machine
end

