-- ==== Sys2Proof/Machine/Bobbin.lean ====
section
/-!
DEFINITION. The bobbin (R140 to R165): promotion of chunk sums, MDRAIN, and the data ops of the drain path.
-/
namespace Sys2Proof.Machine

/-- The place of a total: bank, row and column as one number. -/
def totKey (bank r n : Nat) : Nat := (bank * 1024 + r) * 128 + n

/-- The raw total at a place; a clear row reads as zero, an undefined partition as a free value (R134, R147). An element that no chunk sum has
reached in a row that is no longer clear, of which the spec says nothing, reads as zero too (DESIGN CHOICE, assumption 71). -/
def totAt (x : Half) (key : Nat) : BitVec 128 :=
  match x.undef with
  | some d => Config.freeTotal d key
  | none => (getKey key x.tot).getD 0#128

/-- The parts of a raw total. -/
def totHi (t : BitVec 128) : F32 := t.extractLsb' 0 32
def totLo (t : BitVec 128) : F32 := t.extractLsb' 32 32

/-- Promotion of chunk sum c into total t, and whether it sets the non-finite flag (R148, R149, R151). -/
def promote (num : Numeric) (y : Layout) (ltag pc h r n : Nat) (t : BitVec 128) (c : F32) : BitVec 128 × Bool :=
  match y.acc with
  | 0 =>
    let v := if y.cmpt then fadd (totHi t) c
      else promoteSr (drawPromote num.key ltag num.step (pc % 2 ^ 30 * 2 ^ 18 + h * 2 ^ 17 + r * 2 ^ 7 + n)) (totHi t) c
    (v.setWidth 128, isNF v)
  | 1 =>
    let v := promotePair (totHi t) (totLo t) c
    (v.1.setWidth 128 ||| (v.2.setWidth 128 <<< 32), isNF v.1 || isNF v.2)
  | _ =>
    let v := x128Add y.win t (read32 c)
    (v, v == x128NF && t != x128NF)

/-- The row of a place is clear (R147). -/
def rowClear (x : Half) (key : Nat) : Bool := !x.used.contains (key / 128)

/-- An element is read: one bit in error is corrected and counted, two poison it (R165, R471). A clear row reads as zero whatever it held. -/
def Loc.bread (h key : Nat) (l : Loc) : Loc :=
  match getKey key (halfOf l.sp h).errs, rowClear (halfOf l.sp h) key with
  | none, _ => l
  | _, true => l
  | some m, false =>
    let l := l.half h fun x => { x with errs := delKey key x.errs }
    if popN 128 m ≤ 1 then l.count fun c => { c with eccCorr := sat32 c.eccCorr 1 }
    else (l.half h fun x => { x with poison := insNat key x.poison }).count fun c => { c with eccPoison := sat32 c.eccPoison 1 }

/-- One chunk sum reaches its element (R147, R165). -/
def landSum (num : Numeric) (h : Nat) (g : Handed) (x : Half × Bool) (v : Nat × F32) : Half × Bool :=
  let key := totKey g.bank g.row v.1
  if x.1.undef.isSome || x.1.poison.contains key then x else
  let t := if g.begin_ then 0#128 else totAt x.1 key
  let r := promote num x.1.layout g.ltag g.pc h g.row v.1 t v.2
  ({ x.1 with tot := insKey key r.1 x.1.tot }, x.2 || r.2)

/-- A row handed to the bobbin lands: frozen totals are set to zero under BEGIN, every sum is promoted (R148, R199). -/
def landRow (num : Numeric) (h : Nat) (g : Handed) (x : Half) : Half × Bool :=
  let x := if g.begin_ then { x with tot := g.frozen.foldl (fun t n => delKey (totKey g.bank g.row n) t) x.tot } else x
  g.vals.foldl (landSum num h g) (x, false)

/-- The flag of R117 and R151. -/
def Loc.flagWhen (l : Loc) (b : Bool) : Loc := if b then l.flag else l

/-- A row that is written first is no longer clear: errors that its elements held while it was clear are gone. -/
def Loc.openRow (l : Loc) (h row : Nat) : Loc :=
  if (halfOf l.sp h).used.contains row then l
  else l.half h fun x => { x with used := insNat row x.used, errs := x.errs.filter fun e => e.1 / 128 != row }

/-- A handed row is promoted: its errors are found, its sums promoted, the flag set where a sum or a total is not finite. A row whose elements
are all frozen gets no promotion and stays clear (R147); under BEGIN the totals that are set anew hold no error (R199). -/
def promoteDo (s : State) (p h : Nat) (g : Handed) (rest : List Handed) (l : Loc) : Loc :=
  let l := l.at_ g.at_
  let l := if g.vals.isEmpty then l else l.openRow h (g.bank * 1024 + g.row)
  let keys := g.vals.map fun v => totKey g.bank g.row v.1
  let anew := keys ++ g.frozen.map (totKey g.bank g.row)
  let l := if g.begin_ then l.half h fun x => { x with errs := x.errs.filter fun e => !anew.contains e.1 }
    else keys.foldl (fun l k => l.bread h k) l
  let r := landRow (numAt s p) h g { halfOf l.sp h with handed := rest }
  (l.half h fun _ => r.1).flagWhen (r.2 || g.vals.any fun v => isNF v.2)

/-- PROMOTION: the earliest row that the whorl has handed to half h is promoted, once its instruction has taken the words that give it. -/
def execPromotion (p h : Nat) (s : State) : Out :=
  if h < 2 then
    onPos s p fun l =>
      if !powered s p then l else
      let l := pumpWhile s p h (·.handed.isEmpty) l
      match pluckMin (fun _ => true) (·.at_) (halfOf l.sp h).handed with
      | none => l
      | some (g, rest) => promoteDo s p h g rest l
  else .fault (.noSuchUnit "half" h)

/-! MDRAIN (Table 5.3) -/

/-- The fields of an MDRAIN. -/
def drainNcol (w : KWord) : Nat := fld w 95 88
def drainNr (w : KWord) : Nat := fld w 84 74
def drainAddr (w : KWord) : Nat := fld w 63 32
def drainPitch (w : KWord) : Nat := fld w 31 8
/-- Output element size of a DRAIN. -/
def drainZ (w : KWord) : Nat := if bitOf w 116 then 2 else 4
/-- Row pitch Q of a spill buffer (R161). -/
def spillQ (y : Layout) (w : KWord) : Nat := cdiv (drainNcol w * accBytes y.acc) 64 * 64

/-- No reserved bit of an MDRAIN is set. -/
def drainClear (w : KWord) : Bool := reservedClear w [(127, 122), (121, 109), (105, 88), (84, 8)]

/-- The word of an MDRAIN with operation `op` at a stream that may hold it. -/
def drainIssue (s : State) (p k op : Nat) (f : QEntry → Loc → Option Loc) : Out :=
  issueW s p k (fun w => isOp 0x0C 121 119 op w && inWhorl s p k) f

/-- The fields of a SETUP break a limit (Table 5.3). -/
def setupBad (split : Bool) (w : KWord) : Bool :=
  let cmpt := bitOf w 115
  !drainClear w || fld w 114 113 == 3 || (cmpt && fld w 114 113 != 0) || ((cmpt || split) && fld w 112 112 == 0)

/-- The layout that a SETUP names. -/
def setupLayout (w : KWord) : Layout :=
  { live := 0, cmpt := bitOf w 115, acc := fld w 114 113, roww := fld w 112 112, clog := fld w 111 109, win := signedN 10 (fld w 105 96) }

/-- A SETUP clears the partition and sets its layout. -/
def setupDo (k : Nat) (q : QEntry) (l : Loc) : Loc :=
  let t := fenceAt l k
  (l.pop k t 1 (t + 2)).half k fun x => { x.clear with layout := setupLayout q.word }

/-- MDRAIN SETUP (R156, R159). DESIGN CHOICE (assumption 104): an illegal SETUP or SWAP is rejected before its wait of Table 5.4, an illegal DRAIN,
SPILL or RESUME after it. -/
def execMdrainSetup (p k : Nat) (s : State) : Out :=
  drainIssue s p k 0 fun q l =>
    if setupBad l.sp.whorl.split q.word then some (illegalAt s p k q l)
    else
      let l := pumpAll s p k l
      if (strmOf l.sp k).dead then some l else if engineIdle l.sp k then some (setupDo k q l) else none

/-- A SWAP makes the other bank live in sc t. -/
def swapDo (k t : Nat) (l : Loc) : Loc :=
  (l.pop k t 1 (t + 1)).half k fun x => { x with layout := { x.layout with live := 1 - x.layout.live } }

/-- MDRAIN SWAP. -/
def execMdrainSwap (p k : Nat) (s : State) : Out :=
  drainIssue s p k 1 fun q l =>
    let x := halfOf l.sp k
    if !drainClear q.word then some (illegalAt s p k q l)
    else (bankFree x (1 - x.layout.live) (issueAt l k)).map fun t => pumpThen s p k t (swapDo k t) l

/-- Queue a data op (R157 to R159): `sw` swaps first, and the op then acts on the bank that was live. -/
def queueOp (k t : Nat) (sw sel : Bool) (q : QEntry) (l : Loc) : Loc :=
  let x := halfOf l.sp k
  let live := x.layout.live
  let bank := if sw || sel then live else 1 - live
  let op : DataOp := { q := q, issued := t, bank := bank, layout := x.layout, doneAt := none }
  (l.pop k t 1 t).half k fun x =>
    { x with drain := x.drain.filter (fun d => match d.doneAt with | some e => decide (t ≤ e) | none => true) ++ [op],
             layout := if sw then { x.layout with live := 1 - live } else x.layout }

/-- The bytes of a DRAIN, SPILL or RESUME lie in the local distaff. -/
def drainIn (op : Nat) (y : Layout) (w : KWord) : Bool :=
  if op = 2 then inDist (drainAddr w + (drainNr w - 1) * drainPitch w) (drainNcol w * drainZ w)
  else inDist (drainAddr w) (64 + (drainNr w - 1) * spillQ y w + drainNcol w * accBytes y.acc)

/-- The fields of a data op break a limit. -/
def drainBad (split : Bool) (op : Nat) (y : Layout) (w : KWord) : Bool :=
  let z := drainZ w
  !drainClear w || drainNcol w == 0 || decide (drainNcol w > rowWidth split y) || drainNr w == 0 || decide (drainNr w > 1024)
    || (if op = 2 then drainAddr w % z != 0 || drainPitch w % z != 0 || decide (drainPitch w < drainNcol w * z)
        else drainAddr w % 64 != 0)
    || !drainIn op y w

/-- A data op at issue: DRAIN, SPILL or RESUME. -/
def dataIssue (s : State) (p k op : Nat) : Out :=
  drainIssue s p k op fun q l =>
    let w := q.word
    let x := halfOf l.sp k
    let t := issueAt l k
    let sw := op != 4 && bitOf w 118
    match pathFree x t, (if sw then bankFree x (1 - x.layout.live) t else some t) with
    | some t1, some t2 =>
      let t3 := max t1 t2
      if drainBad l.sp.whorl.split op x.layout w || (bobRow l.sp.whorl.split k x.layout (fld w 73 64) (drainNr w)).isNone then
        some (pumpThen s p k t3 (·.whorlReject k t3 0xA20 0 0 q) l)
      else some (pumpThen s p k t3 (queueOp k t3 sw (bitOf w 117) q) l)
    | _, _ => none

/-- MDRAIN DRAIN. -/
def execMdrainDrain (p k : Nat) (s : State) : Out := dataIssue s p k 2
/-- MDRAIN SPILL. -/
def execMdrainSpill (p k : Nat) (s : State) : Out := dataIssue s p k 3
/-- MDRAIN RESUME. -/
def execMdrainResume (p k : Nat) (s : State) : Out := dataIssue s p k 4

/-! Data ops (R158 to R162) -/

/-- 64-byte lines a byte range touches. -/
def linesOf (a n : Nat) : Nat := if n = 0 then 0 else (a + n - 1) / 64 - a / 64 + 1

/-- Lines per sc of a data op (R160). -/
def opRate (split : Bool) : Nat := if split then 4 else 8

/-- Distaff offset and bytes of row j of a data op (R156, R161). -/
def opRow (op : Nat) (y : Layout) (w : KWord) (j : Nat) : Nat × Nat :=
  if op = 2 then (drainAddr w + j * drainPitch w, drainNcol w * drainZ w)
  else (drainAddr w + 64 + j * spillQ y w, drainNcol w * accBytes y.acc)

/-- sc from the start of an op to the first group of its row j (R160). -/
def rowStart (split : Bool) (op : Nat) (y : Layout) (w : KWord) (j : Nat) : Nat :=
  (if op = 2 then 0 else 1) + ((List.range j).map fun i => cdiv (linesOf (opRow op y w i).1 (opRow op y w i).2) (opRate split)).foldl (· + ·) 0

/-- The transfer time T of R160. -/
def opTime (split : Bool) (op : Nat) (y : Layout) (w : KWord) : Nat := rowStart split op y w (drainNr w)

/-- A total converted (R154, R156): its bytes, and whether the conversion of an X128 total is Inf or NaN. -/
def convTotal (y : Layout) (bf : Bool) (t : BitVec 128) : List Byte × Bool :=
  let v : Fv := match y.acc with
    | 0 => read32 (totHi t)
    | 1 => if bf then addFv (read32 (totHi t)) (read32 (totLo t)) else read32 (totHi t)
    | _ => x128Fv y.win t
  let nf := if bf then (read16 (toB16 v)).isNonFinite else isNF (toF32 v)
  (if bf then leBytes 2 (toB16 v).toNat else leBytes 4 (toF32 v).toNat, y.acc == 2 && nf)

/-- The words (local offsets) of a byte range. -/
def wordsIn (a n : Nat) : List Nat := (List.range ((a + n - 1) / 8 - a / 8 + 1)).map fun i => 8 * (a / 8 + i)

/-- An element is poisoned. -/
def elemBad (x : Half) (key : Nat) : Bool := x.undef.isNone && x.poison.contains key

/-- A row of elements of `z` bytes written as one access from `a` on, the words of poisoned elements marked so (R165, R472). -/
def wrRow (a z : Nat) (es : List (List Byte × Bool)) (l : Loc) : Loc :=
  l.wrP a (es.flatMap (·.1)) (es.zipIdx.flatMap fun e => if e.1.2 then wordsIn (a + e.2 * z) z else [])

/-- The elements of row j of a data op, its bank's errors found. -/
def readRow (h : Nat) (d : DataOp) (row j : Nat) (l : Loc) : Loc × List Nat :=
  let keys := (List.range (drainNcol d.q.word)).map fun n => totKey d.bank (row + j) n
  (keys.foldl (fun l k => l.bread h k) l, keys)

/-- Row j of a DRAIN that starts in sc t is written to be visible in sc `done`. A conversion to Inf or NaN sets the flag and counts in the sc
in which the line with its element is accepted, and the first of the op, while n is 0, raises E-0x120 then (R154, Table 20.4a). The number of
such conversions is added to n. -/
def drainRow (h t done : Nat) (d : DataOp) (row : Nat) (x : Loc × Nat) (j : Nat) : Loc × Nat :=
  let w := d.q.word
  let z := drainZ w
  let a := (opRow 2 d.layout w j).1
  let (l, keys) := readRow h d row j x.1
  let hf := halfOf l.sp h
  let es := keys.map fun k => if elemBad hf k then ((List.replicate z 0#8, true), false)
    else let r := convTotal d.layout (bitOf w 116) (totAt hf k); ((r.1, false), r.2)
  let at_ (i : Nat) := t + rowStart l.sp.whorl.split 2 d.layout w j + ((a + i * z) / 64 - a / 64) / opRate l.sp.whorl.split
  let sat := es.zipIdx.filter fun e => e.1.2
  let v := if x.2 = 0 then some (evW 0x120 h d.q.woff h 0) else none
  let l := sat.zipIdx.foldl (fun l e =>
    l.push { Pend.bytes (at_ e.1.2) 0 [] [] with nf := true, sat := 1, ev := if e.2 = 0 then v else none }) l
  (l.seenAt done (wrRow a z (es.map (·.1))), x.2 + sat.length)

/-- A DRAIN's writes, flag, counter and event. -/
def doDrain (h t done : Nat) (d : DataOp) (row : Nat) (l : Loc) : Loc :=
  ((List.range (drainNr d.q.word)).foldl (drainRow h t done d row) (l, 0)).1

/-- The header of a spill buffer (Table 5.5). -/
def spillHeader (y : Layout) (w : KWord) : Nat :=
  y.acc + put (if y.acc = 2 then unsignedN 10 y.win else 0) 8 + put (drainNcol w) 18 + put (drainNr w) 26

/-- A SPILL's writes (R161), visible in sc `done`. -/
def doSpill (h done : Nat) (d : DataOp) (row : Nat) (l : Loc) : Loc :=
  let w := d.q.word
  let e := accBytes d.layout.acc
  let l := l.seenAt done (·.wr (drainAddr w) (leBytes 64 (spillHeader d.layout w)))
  (List.range (drainNr w)).foldl (fun l j =>
    let (l, keys) := readRow h d row j l
    let x := halfOf l.sp h
    l.seenAt done (wrRow (opRow 3 d.layout w j).1 e (keys.map fun k =>
      if elemBad x k then (List.replicate e 0#8, true) else (leBytes e (totAt x k).toNat, false)))) l

/-- The header of a spill buffer does not match a RESUME (R162). -/
def resumeBad (y : Layout) (w : KWord) (hd : Nat) : Bool :=
  fldN hd 1 0 != y.acc || fldN hd 17 8 != fldN (spillHeader y w) 17 8 || fldN hd 25 18 != drainNcol w || fldN hd 36 26 != drainNr w

/-- One element of a RESUME taken from the distaff as `m` shows it (R162, R165). -/
def takeElem (h a e key : Nat) (m l : Loc) : Loc :=
  let bad := (m.poisonIn a e).isSome
  let v := BitVec.ofNat 128 (m.rdN a e)
  l.half h fun x => { x with tot := insKey key v x.tot, errs := delKey key x.errs,
                             poison := if bad then insNat key x.poison else delNat key x.poison }

/-- A RESUME that starts in sc t reads its header in that sc and each row in the sc of its first group (R160, R162, R165; assumption 69): rows
written are no longer clear. Of a poisoned word in the header the spec says nothing: its bytes are compared as they stand (DESIGN CHOICE,
assumption 72). DESIGN CHOICE (assumption 103): a mismatch is raised in sc t, and the op still takes its whole time. -/
def doResume (h t : Nat) (d : DataOp) (row : Nat) (l : Loc) : Loc :=
  let w := d.q.word
  let e := accBytes d.layout.acc
  let l := l.scrub (drainAddr w) 64
  if resumeBad d.layout w (l.rdN (drainAddr w) 64) then (l.kill h).raise (evW 0xA2B h d.q.woff 0 0)
  else (List.range (drainNr w)).foldl (fun l j =>
    let r := opRow 4 d.layout w j
    let l := (l.scrub r.1 r.2).openRow h (d.bank * 1024 + row + j)
    let m := l.land (t + rowStart l.sp.whorl.split 4 d.layout w j)
    (List.range (drainNcol w)).foldl (fun l n => takeElem h (r.1 + n * e) e (totKey d.bank (row + j) n) m l) l) l

/-- A data op that starts in sc t does its work and completes. -/
def runOp (h t : Nat) (d : DataOp) (l : Loc) : Loc :=
  let w := d.q.word
  let op := fld w 121 119
  let done := t + opTime l.sp.whorl.split op d.layout w + (if op = 4 then 5 else 3)
  let row := (bobRow l.sp.whorl.split h d.layout (fld w 73 64) (drainNr w)).getD 0
  let l := l.at_ t
  let l := if op = 2 then doDrain h t done d row l else if op = 3 then doSpill h done d row l else doResume h t d row l
  let mark (xs : List DataOp) := xs.map fun e => if e.doneAt.isNone && e.issued == d.issued then { e with doneAt := some done } else e
  (l.half h fun x => { x with drain := mark x.drain }).strm h fun s => { s with doneAt := max s.doneAt done }

/-- DATA_OP_START (R158): the first op that has not started starts when the ops before it and the instructions tagged for its bank
have completed. -/
def execDataOpStart (p h : Nat) (s : State) : Out :=
  if h < 2 then
    onPos s p fun l =>
      if !powered s p then l else
      let onBank (x : Half) := match x.drain.find? (·.doneAt.isNone), x.strm with | some d, some o => o.bank == d.bank | _, _ => false
      let l := pumpWhile s p h onBank l
      let x := halfOf l.sp h
      match x.drain.find? (·.doneAt.isNone) with
      | none => l
      | some d =>
        if x.handed.any (·.bank == d.bank) || onBank x then l
        else
          let prev := (x.drain.filterMap (·.doneAt)).foldl max 0
          runOp h (max (max d.issued prev) (x.bankDone.getD d.bank 0) + 1) d l
  else .fault (.noSuchUnit "half" h)

end Sys2Proof.Machine
end

