-- ==== Sys2Proof/Machine/Twister.lean ====
section
/-!
DEFINITION. The twister and the feed ports (R111 to R114, R167 to R184, R194 to R198): TFEED, TROT, TTRANS, TSAMPLE and
the entry of a feed word into its port.
-/
namespace Sys2Proof.Machine

/-! Fields -/

/-- PORT of a twister word. -/
def tPort (w : KWord) : Nat := fld w 121 120

/-- The half a port belongs to. -/
def portHalf (port : Nat) : Nat := port / 2

/-- A fault of a twister word that names a port: in split mode it stops that half (R134), else the twister (R79). DESIGN CHOICE (assumption
88): the instruction that it aborts is the TFEED; what the half has in progress runs on. -/
def Loc.feedReject (l : Loc) (port code da db : Nat) (q : QEntry) : Loc :=
  let l' := l.pop 2 (issueAt l 2) 1 (issueAt l 2)
  if l.sp.whorl.split then l'.whorlFault (portHalf port) (evW code 2 q.woff da db)
  else (l'.kill 2).raise (evW code 2 q.woff da db)

/-- A twister word passes its work to the channel of its port, with the headers that its issue has read (R113; assumption 28). -/
def Loc.toChan (l : Loc) (port : Nat) (kind : FeedKind) (shadow : Option (Nat × Nat)) (q : QEntry) (head : List Nat := []) : Loc :=
  let t := issueAt l 2
  (l.pop 2 t 1 t).fport port fun f =>
    { f with chan := f.chan ++ [{ kind := kind, word := q.word, woff := q.woff, issued := t, entered := 0, shadow := shadow, head := head }] }

/-- The channel of a port has a free place (R113). -/
def chanRoom (l : Loc) (port : Nat) : Bool := decide ((portOf l.sp port).chan.length < 4)

/-- In split mode, the half of the port no longer dispatches: its feeds retire without reading (R134). -/
def portDead (l : Loc) (port : Nat) : Bool := l.sp.whorl.split && (strmOf l.sp (portHalf port)).dead

/-- The element, scale and side-list bytes of elements [e0, e0 + n) lie in window `n0` (R101). -/
def Header.elemsIn (h : Header) (n0 e0 n : Nat) : Bool :=
  let r := h.elemRange e0 n
  let b0 := e0 / h.b
  let nb := (e0 + n - 1) / h.b - b0 + 1
  inWindow n0 r.1 r.2 && inWindow n0 (h.scale + b0) nb
    && (h.oslot == 0 || inWindow n0 (h.side + b0 * h.oslot * 4) (nb * h.oslot * 4))

/-- The side-list slots of elements [e0, e0 + n) lie in one 64-byte line (R177). -/
def Header.sideLine (h : Header) (e0 n : Nat) : Bool :=
  h.oslot == 0 ||
    (h.side + e0 / h.b * h.oslot * 4) / 64 == (h.side + ((e0 + n - 1) / h.b + 1) * h.oslot * 4 - 1) / 64

/-! TFEED (Table 4.3) -/

/-- WIDTH, WORDS, STRIDE, PTR, E0. -/
def tfWidth (w : KWord) : Nat := fld w 115 107
def tfWords (w : KWord) : Nat := fld w 106 91
def tfStride (w : KWord) : Nat := fld w 87 64
def tPtr (w : KWord) : Nat := fld w 63 32
def tE0 (w : KWord) : Nat := fld w 31 0

/-- A width that a port takes (Tables 4.3, 7.2). -/
def widthOk (port fmt n : Nat) : Bool :=
  decide (1 ≤ n) && decide (n ≤ 256) && (decide (n ≤ 128) || (is4bit fmt && (port == 0 || port == 2)))

/-- First element of word i. -/
def tfFirst (w : KWord) (i : Nat) : Nat := tE0 w + i * tfStride w

/-- The block of element e breaks a rule of R101, R112 or R195: it does not exist, or bytes of the element, its scale or its side-list leave
window n. -/
def Header.elemBad (h : Header) (n e : Nat) : Bool := decide (h.nblk ≤ e / h.b) || !h.elemsIn n e 1

/-- The first block, of the elements in the order given, that offends (R519). -/
def Header.offend (h : Header) (n : Nat) (es : List Nat) : Option Nat := (es.find? (h.elemBad n)).map (· / h.b)

/-- Of the elements of a word, in ascending order, whose side-list slots touch two lines, the first block that reaches the second (DESIGN
CHOICE, assumption 93). -/
def Header.sideOffend (h : Header) (es : List Nat) : Option Nat :=
  let slot (b : Nat) := h.side + b * h.oslot * 4
  if h.oslot == 0 then none
  else (es.find? fun e => (slot (e / h.b + 1) - 1) / 64 != slot (es.headD 0 / h.b) / 64).map (· / h.b)

/-- The first block of a word that offends (R519), of the elements that it reads and of those whose side-list slots it touches (R177). -/
def Header.wordOffend (h : Header) (n : Nat) (reads own : List Nat) : Option Nat :=
  match h.offend n reads, h.sideOffend own with
  | some a, some b => some (min a b)
  | a, b => a <|> b

/-- The first block, in word order, that breaks a rule of R112 or R177. -/
def tfOffend (n : Nat) (h : Header) (w : KWord) : Nat :=
  let bad (i : Nat) :=
    let es := (List.range (tfWidth w)).map (tfFirst w i + ·)
    h.wordOffend n es es
  ((List.range (tfWords w)).findSome? bad).getD 0

/-- The fields of a TFEED break a limit (Table 4.3). -/
def tfeedBad (w : KWord) : Bool :=
  let fmt := fld w 119 116
  !reservedClear w [(127, 91), (87, 0)] || fmt == 0 || decide (fmt > 7) || !widthOk (tPort w) fmt (tfWidth w) || tfWords w == 0
    || tfStride w == 0 || (if fmt == 1 then tPtr w % 2 != 0 else tPtr w % 64 != 0 || !inDist (tPtr w) 64)

/-- One past the last element of a TFEED. -/
def tfLast (w : KWord) : Nat := tfFirst w (tfWords w - 1) + tfWidth w

/-- The shadow that a TFEED takes does not lie in the distaff (R184). -/
def shadowBad (l : Loc) (w : KWord) : Bool :=
  match (portOf l.sp (tPort w)).shadow with
  | some (sf, base) => !inDist base (tfLast w * (if sf = 1 then 2 else 4))
  | none => false

/-- The header of a TFEED's tensor, or the tensor's bounds, break a rule of R112 or R177: the block that E-0x111 names. -/
def tfeedFault (me : Nat) (h : Header) (w : KWord) : Option Nat :=
  if !h.ok || h.fmt != fld w 119 116 then some 0
  else if decide (tfLast w > h.nblk * h.b) || !h.elemsIn me (tfFirst w 0) (tfWidth w)
    || !h.elemsIn me (tfFirst w (tfWords w - 1)) (tfWidth w)
    || !(List.range (tfWords w)).all (fun i => h.sideLine (tfFirst w i) (tfWidth w)) then some (tfOffend me h w)
  else none

/-- A TFEED takes the shadow that waits and goes to its channel. -/
def tfeedDo (q : QEntry) (l : Loc) (head : List Nat := []) : Loc :=
  let port := tPort q.word
  (l.toChan port .feed (portOf l.sp port).shadow q head).fport port fun f => { f with shadow := none }

/-- A TFEED finds its port's half in split mode as the words that the half takes by the sc of issue leave it (R134). -/
def feedPumped (s : State) (p port : Nat) (l : Loc) : Loc :=
  if l.sp.whorl.split then pumpTo s p (portHalf port) (issueAt l 2) l else l

/-- TFEED (R112, R113, R177, R184). Of a poisoned word in the tensor's header the spec says nothing: its bytes are used as they stand and the
feed words carry no poison for it (DESIGN CHOICE, assumption 68). -/
def execTfeed (p : Nat) (s : State) : Out :=
  issueW s p 2 (isCls 0x10) fun q l =>
    let w := q.word
    let port := tPort w
    let l := feedPumped s p port l
    if (strmOf l.sp 2).dead then some l
    else if portDead l port then some (l.pop 2 (issueAt l 2) 1 (issueAt l 2))
    else if tfeedBad w then some (l.feedReject port 0xA20 0 0 q)
    else if !chanRoom l port then none
    else if fld w 119 116 = 1 then
      some (if !inDist (tPtr w) (2 * tfLast w) || shadowBad l w then l.feedReject port 0xA20 0 0 q else tfeedDo q l)
    else
      let l := l.scrub (tPtr w) 64
      let h := readHeader l (tPtr w)
      some <| match tfeedFault (lnum s p) h w with
      | some b => l.feedReject port 0x111 h.tid b q
      | none => if shadowBad l w then l.feedReject port 0xA20 0 0 q else tfeedDo q l [h.raw]

/-- The fields of a TSAMPLE break a limit (Table 6.5). -/
def tsampleBad (w : KWord) : Bool :=
  !reservedClear w [(127, 119), (63, 32)] || fld w 63 32 % (if fld w 119 119 = 1 then 2 else 4) != 0

/-- TSAMPLE (R184). -/
def execTsample (p : Nat) (s : State) : Out :=
  issue s p 2 (isCls 0x13) fun q l =>
    let w := q.word
    let sf := fld w 119 119
    let base := fld w 63 32
    if tsampleBad w then l.reject 2 0xA20 0 0 q
    else
      let t := issueAt l 2
      (l.pop 2 t 1 t).fport (tPort w) fun f => { f with shadow := some (sf, base) }

/-! TTRANS (Table 7.2) -/

def ttWidth (w : KWord) : Nat := fld w 114 106
def ttWords (w : KWord) : Nat := fld w 105 97
def ttFmt (w : KWord) : Nat := fld w 118 115

def ttStride (w : KWord) : Nat := fld w 87 64
/-- One past the last element of a TRANSPOSE. -/
def ttLast (w : KWord) : Nat := tE0 w + (ttWidth w - 1) * ttStride w + ttWords w

/-- The fields of a TRANSPOSE break a limit (Table 7.2). -/
def ttransBad (w : KWord) : Bool :=
  let fmt := ttFmt w
  let nc := ttWords w
  !reservedClear w [(127, 97), (87, 0)] || fmt == 0 || decide (fmt > 7) || !widthOk (tPort w) fmt (ttWidth w) || nc == 0
    || decide (nc > 256) || ttStride w == 0 || decide (ttWidth w * nc > 32768)
    || (if fmt == 1 then tPtr w % 2 != 0 else tPtr w % 64 != 0 || !inDist (tPtr w) 64)

/-- The header of a TRANSPOSE's tensor, or the tensor's bounds, break a rule of R195: the block that E-0x111 names, the first that the rows
meet as they are read. -/
def ttransFault (me : Nat) (h : Header) (w : KWord) : Option Nat :=
  let row (c : Nat) := tE0 w + c * ttStride w
  let rowBad (c : Nat) := !h.elemsIn me (row c) (ttWords w)
  if !h.ok || h.fmt != ttFmt w || h.oslot != 0 then some 0
  else if decide (ttLast w > h.nblk * h.b) || rowBad 0 || rowBad (ttWidth w - 1) then
    some (((List.range (ttWidth w)).findSome? fun c => h.offend me ((List.range (ttWords w)).map (row c + ·))).getD 0)
  else none

/-- TROT and TTRANS consume a poisoned word of their source's header (R473). -/
def Loc.headPoison (l : Loc) (s : State) (p a : Nat) (q : QEntry) : Option Loc :=
  (l.poisonIn a 64).map fun off => (l.pop 2 (issueAt l 2) 1 (issueAt l 2)).consume s p 2 q off

/-- TTRANS TRANSPOSE (R195, R196). -/
def execTtransTranspose (p : Nat) (s : State) : Out :=
  issueW s p 2 (isOp 0x11 119 119 0) fun q l =>
    let w := q.word
    let port := tPort w
    if ttransBad w then some (l.reject 2 0xA20 0 0 q)
    else if !chanRoom l port then none
    else if ttFmt w = 1 then
      some (if inDist (tPtr w) (2 * ttLast w) then l.toChan port .transpose none q else l.reject 2 0xA20 0 0 q)
    else
      let l := l.scrub (tPtr w) 64
      let h := readHeader l (tPtr w)
      some <| (l.headPoison s p (tPtr w) q).getD <| match ttransFault (lnum s p) h w with
      | some b => l.reject 2 0x111 h.tid b q
      | none => l.toChan port .transpose none q [h.raw]

/-- The fields of an FMASK break a limit (Table 7.2). -/
def fmaskBad (w : KWord) : Bool :=
  !reservedClear w [(127, 117), (63, 32)] || (tPort w != 0 && tPort w != 2) || tPtr w % 16 != 0 || !inDist (tPtr w) 16

/-- TTRANS FMASK (R198). -/
def execTtransFmask (p : Nat) (s : State) : Out :=
  issueW s p 2 (isOp 0x11 119 119 1) fun q l =>
    let w := q.word
    let port := tPort w
    if fmaskBad w then some (l.reject 2 0xA20 0 0 q)
    else if chanRoom l port then some (l.toChan port .fmask none q) else none

/-! TROT (Tables 6.1, 6.2) -/

/-- The rotation record. -/
structure RotRec where
  raw : Nat
  logn : Nat
  role : Nat
  word : Nat
  rid : Nat
  klen : Nat
  nv : Nat
  kstr : Nat
  vstr : Nat
  sstep : Nat
  k0 : Nat
deriving DecidableEq, Repr

def rotRec (r : Nat) : RotRec :=
  { raw := r, logn := fldN r 2 0, role := fldN r 3 3, word := fldN r 4 4, rid := fldN r 23 8, klen := fldN r 63 32,
    nv := fldN r 95 64, kstr := fldN r 127 96, vstr := fldN r 159 128, sstep := fldN r 199 160, k0 := fldN r 255 224 }

/-- n of R167. -/
def RotRec.n (r : RotRec) : Nat := 2 ^ (r.logn + 4)
/-- Feed words and their width (R172). -/
def RotRec.words (r : RotRec) : Nat := if r.word = 0 then r.nv else r.klen
def RotRec.width (r : RotRec) : Nat := if r.word = 0 then r.klen else r.nv
/-- Source element k of vector v. -/
def RotRec.elem (r : RotRec) (v k : Nat) : Nat := v * r.vstr + k * r.kstr

/-- Source format, source and output header offsets, record offset of a TROT. -/
def rotSfmt (w : KWord) : Nat := fld w 119 118
def rotSrc (w : KWord) : Nat := fld w 95 64

/-- The source elements that stand at the elements of word i (R172). -/
def RotRec.own (r : RotRec) (i : Nat) : List Nat :=
  if r.word = 0 then (List.range r.klen).map (r.elem i) else (List.range r.nv).map fun v => r.elem v i

/-- Offsets of the output header and of the record of a TROT. -/
def rotDst (w : KWord) : Nat := fld w 63 32
def rotPar (w : KWord) : Nat := fld w 31 0
/-- Bytes of a source element that is no tensor's. -/
def rotSize (w : KWord) : Nat := if rotSfmt w = 1 then 2 else 4

/-- The fields of a TROT break a limit (Table 6.1). -/
def trotBad (w : KWord) : Bool :=
  let sf := rotSfmt w
  !reservedClear w [(127, 117), (95, 0)] || sf == 3 || (if sf == 0 then rotSrc w % 64 != 0 || !inDist (rotSrc w) 64 else rotSrc w % rotSize w != 0)
    || rotDst w % 64 != 0 || rotPar w % 32 != 0 || !inDist (rotDst w) 64 || !inDist (rotPar w) 32

/-- The last source element. -/
def RotRec.last (r : RotRec) : Nat := r.elem (r.nv - 1) (r.klen - 1)

/-- The fields of the rotation record break a limit (Table 6.2). -/
def RotRec.bad (r : RotRec) : Bool :=
  !reservedClearN 256 r.raw [(4, 0), (23, 8), (199, 32), (255, 224)] || decide (r.logn > 4) || r.klen == 0 || r.nv == 0
    || r.kstr == 0 || r.klen % r.n != 0

/-- The output's width or the source array's bounds break a limit (R170, R174). -/
def rotFormBad (w : KWord) (r : RotRec) (ho : Header) : Bool :=
  (ho.fmt == 7 && !bitOf w 117) || r.width % ho.b != 0
    || (if r.word = 0 then !widthOk (tPort w) ho.fmt r.width else decide (r.width > 128))
    || (rotSfmt w != 0 && !inDist (rotSrc w) ((r.last + 1) * rotSize w))

/-- The source elements that the rotation groups of word i take: with WORD 1 those of the group that holds K index i (R175). -/
def RotRec.elems (r : RotRec) (i : Nat) : List Nat :=
  if r.word = 0 then (List.range r.klen).map fun k => r.elem i k
  else (List.range r.nv).flatMap fun v => (List.range r.n).map fun k => r.elem v (i / r.n * r.n + k)

/-- The header of a TROT's source tensor, or the tensor's bounds, break a rule of R174 or R177: the block that E-0x111 names, the first that
the words meet. -/
def rotFault (me : Nat) (h : Header) (r : RotRec) : Option Nat :=
  let first := (List.range r.words).findSome? fun i => h.wordOffend me (r.elems i) (r.own i)
  if !h.ok then some 0
  else if decide (r.last ≥ h.nblk * h.b) || !h.elemsIn me 0 1 || !h.elemsIn me r.last 1 then some (first.getD 0)
  else if h.oslot == 0 then none else first

/-- A TROT drops the shadow that waits and goes to its channel. -/
def trotDo (q : QEntry) (head : List Nat) (l : Loc) : Loc :=
  (l.toChan (tPort q.word) .trot none q head).fport (tPort q.word) fun f => { f with shadow := none }

/-- The record and the output header of a TROT are read. -/
def rotOpen (w : KWord) (l : Loc) : Loc := (l.scrub (rotPar w) 32).scrub (rotDst w) 64

/-- TROT (R170, R174, R177). -/
def execTrot (p : Nat) (s : State) : Out :=
  issueW s p 2 (isCls 0x12) fun q l =>
    let w := q.word
    if trotBad w then some (l.reject 2 0xA20 0 0 q) else
    let l := rotOpen w l
    match l.anyPoison [(rotPar w, 32), (rotDst w, 64)] with
    | some off => some ((l.pop 2 (issueAt l 2) 1 (issueAt l 2)).consume s p 2 q off)
    | none =>
    let r := rotRec (l.rdN (rotPar w) 32)
    let ho := readHeader l (rotDst w)
    if r.bad then some (l.reject 2 0xA20 0 0 q)
    else if !ho.ok then some (l.reject 2 0x111 ho.tid 0 q)
    else if rotFormBad w r ho then some (l.reject 2 0xA20 0 0 q)
    else if !chanRoom l (tPort w) then none
    else if rotSfmt w != 0 then some (trotDo q [r.raw, ho.raw] l) else
      let l := l.scrub (rotSrc w) 64
      let h := readHeader l (rotSrc w)
      some <| (l.headPoison s p (rotSrc w) q).getD <| match rotFault (lnum s p) h r with
      | some b => l.reject 2 0x111 h.tid b q
      | none => trotDo q [r.raw, ho.raw, h.raw] l

/-- One butterfly stage of R167. -/
def rotStage (h : Nat) (x : List F32) : List F32 :=
  x.zipIdx.map fun v =>
    if v.2 / h % 2 = 0 then fadd v.1 (x.getD (v.2 + h) 0#32) else fsub (x.getD (v.2 - h) 0#32) v.1

/-- The stages h = 1, 2, 4, … of a group of 2^m. -/
def rotStages : Nat → Nat → List F32 → List F32
  | 0, _, x => x
  | m + 1, h, x => rotStages m (2 * h) (rotStage h x)

/-- A rotation group of 2^m values whose element 0 has K index k (R167, R168). -/
def rotate (key : BitVec 64) (r : RotRec) (k : Nat) (x : List F32) : List F32 :=
  let m := r.logn + 4
  let f := if r.role = 0 then m / 2 else (m + 1) / 2
  let y := x.zipIdx.map fun v => if drawSign key r.rid r.sstep (k + v.2) then fneg v.1 else v.1
  (rotStages m 1 y).map fun v => fmul v (fPow2 (-(f : Int)))

/-- A source element of a TROT widened to FP32. -/
def rotRead (s : State) (p : Nat) (w : KWord) (l : Loc) (h : Header) (e : Nat) : F32 :=
  match rotSfmt w with
  | 0 => widenElem s p l h e
  | 1 => widen16 (l.rd16 (rotSrc w + 2 * e))
  | _ => canon32 (l.rd32 (rotSrc w + 4 * e))

/-- The rotated group g of vector v. -/
def rotGroup (s : State) (p : Nat) (w : KWord) (l : Loc) (h : Header) (r : RotRec) (v g : Nat) : List F32 :=
  rotate (numAt s p).key r (r.k0 + g * r.n) ((List.range r.n).map fun i => rotRead s p w l h (r.elem v (g * r.n + i)))

/-- The values of word i of a TROT (R172). -/
def rotWord (s : State) (p : Nat) (w : KWord) (l : Loc) (h : Header) (r : RotRec) (i : Nat) : List F32 :=
  if r.word = 0 then (List.range (r.klen / r.n)).flatMap fun g => rotGroup s p w l h r i g
  else (List.range r.nv).map fun v => (rotGroup s p w l h r v (i / r.n)).getD (i % r.n) 0#32

/-! Words of a channel -/

/-- The byte ranges (local offsets) of the elements, scales and side-list of elements [e0, e0 + n) of a tensor. -/
def tensorRanges (s : State) (p : Nat) (h : Header) (e0 n : Nat) : List (Nat × Nat) :=
  let r := h.elemRange e0 n
  let b0 := e0 / h.b
  let nb := (e0 + n - 1) / h.b - b0 + 1
  [(toLocal s p r.1, r.2), (toLocal s p (h.scale + b0), nb)]
    ++ (if h.oslot = 0 then [] else [(toLocal s p (h.side + b0 * h.oslot * 4), nb * h.oslot * 4)])

/-- The outlier entries of elements [e0, e0 + n), blocks ascending, slot 0 first. -/
def wordOuts (s : State) (p : Nat) (l : Loc) (h : Header) (e0 n : Nat) : List FOut :=
  let b0 := e0 / h.b
  (List.range ((e0 + n - 1) / h.b - b0 + 1)).flatMap fun i =>
    (sideOf s p l h (b0 + i)).filterMap fun o =>
      let e := (b0 + i) * h.b + o.index
      if decide (e0 ≤ e) && decide (e < e0 + n) && decide (o.index < h.b) then
        some { value := if scaleByte s p l h (b0 + i) = 0xFF then nan16 else o.value, k := e - e0 } else none

/-- Lines of a set of ranges. -/
def lineCount (rs : List (Nat × Nat)) : Nat := (rs.map fun r => linesOf r.1 r.2).foldl (· + ·) 0

/-- The n-th of the record and the headers that an item's issue has read. -/
def FeedItem.headAt (it : FeedItem) (n : Nat) : Nat := it.head.getD n 0

/-- The bytes of the shadow's elements [e0, e0 + n) (R184). -/
def shadowReads (it : FeedItem) (e0 n : Nat) : List (Nat × Nat) :=
  match it.shadow with
  | some (sf, base) => let z := if sf = 1 then 2 else 4; [(base + e0 * z, n * z)]
  | none => []

/-- Word i of a TFEED. DESIGN CHOICE (assumption 91): the shadow's elements are read with the word; of a poisoned one the copy takes the bytes,
and the word carries no poison for it. The BF16 copy of a narrow element is its widening to FP32 (R104), rounded again (R182; DESIGN CHOICE,
assumption 106). -/
def buildFeed (s : State) (p : Nat) (it : FeedItem) (l : Loc) (i : Nat) : Built :=
  let w := it.word
  let n := tfWidth w
  let fmt := fld w 119 116
  let e0 := tfFirst w i
  let sh (v : Nat → B16) (c : Nat) : B16 := match it.shadow with
    | some (sf, base) => if sf = 1 then l.rd16 (base + 2 * (e0 + c)) else narrow16 (l.rd32 (base + 4 * (e0 + c)))
    | none => v c
  if fmt = 1 then
    let cs := (List.range n).map fun c => l.rdN (tPtr w + 2 * (e0 + c)) 2
    { word := { at_ := 0, fmt := 1, blen := 0, oslot := 0, tscale := one32, elems := cs.map fun c => ⟨c, 127⟩, slots := 0, outs := [],
                mask := none, poison := none, pre := (List.range n).map (sh fun c => BitVec.ofNat 16 (cs.getD c 0)), wide := [] },
      reads := [(tPtr w + 2 * e0, 2 * n)], side := shadowReads it e0 n, lines := linesOf (tPtr w + 2 * e0) (2 * n), blocks := [], tid := 0 }
  else
    let h := headerOf (it.headAt 0)
    let rs := tensorRanges s p h e0 n
    { word := { at_ := 0, fmt := fmt, blen := h.blen, oslot := h.oslot, tscale := h.t,
                elems := (List.range n).map fun c => ⟨elemCode s p l h (e0 + c), scaleByte s p l h ((e0 + c) / h.b)⟩,
                slots := ((e0 + n - 1) / h.b - e0 / h.b + 1) * h.oslot, outs := wordOuts s p l h e0 n, mask := none, poison := none,
                pre := (List.range n).map (sh fun c => narrow16 (widenElem s p l h (e0 + c))),
                wide := if it.shadow.isSome then [] else (List.range n).filter fun c => widenOver s p l h (e0 + c) },
      reads := rs, side := shadowReads it e0 n, lines := lineCount rs, blocks := [], tid := h.tid }

/-- First element of row c of a TRANSPOSE. -/
def ttRow (w : KWord) (c : Nat) : Nat := tE0 w + c * ttStride w

/-- The ranges that row c of a TRANSPOSE reads (R196). -/
def transReads (s : State) (p : Nat) (it : FeedItem) (c : Nat) : List (Nat × Nat) :=
  let w := it.word
  if ttFmt w = 1 then [(tPtr w + 2 * ttRow w c, 2 * ttWords w)] else tensorRanges s p (headerOf (it.headAt 0)) (ttRow w c) (ttWords w)

/-- The lines that the first n rows of a TRANSPOSE take. -/
def transLines (s : State) (p : Nat) (it : FeedItem) (n : Nat) : Nat := lineCount ((List.range n).flatMap (transReads s p it))

/-- The sc in which a TRANSPOSE whose reads start at `start`, in quarters of an sc, reads row c (R196; assumption 69). -/
def transAt (s : State) (p : Nat) (it : FeedItem) (start c : Nat) : Nat := (start + transLines s p it c) / 4

/-- The distaff as each row of a TRANSPOSE finds it, in the sc of its reads. -/
def transViews (s : State) (p : Nat) (it : FeedItem) (start : Nat) (l : Loc) : List Loc :=
  (List.range (ttWidth it.word)).map fun c => l.land (transAt s p it start c)

/-- Word i of a TRANSPOSE, column i of rows that stand in `views` (R195, R196). -/
def buildTrans (s : State) (p : Nat) (it : FeedItem) (views : List Loc) (i : Nat) : Built :=
  let w := it.word
  let n := ttWidth w
  let fmt := ttFmt w
  let e (c : Nat) := ttRow w c + i
  if fmt = 1 then
    let cs := views.zipIdx.map fun x => x.1.rdN (tPtr w + 2 * e x.2) 2
    { word := { at_ := 0, fmt := 1, blen := 0, oslot := 0, tscale := one32, elems := cs.map fun c => ⟨c, 127⟩, slots := 0, outs := [],
                mask := none, poison := none, pre := cs.map (BitVec.ofNat 16), wide := [] },
      reads := [], lines := if i = 0 then transLines s p it n else 0, blocks := [], tid := 0 }
  else
    let h := headerOf (it.headAt 0)
    { word := { at_ := 0, fmt := fmt, blen := h.blen, oslot := 0, tscale := h.t,
                elems := views.zipIdx.map fun x => ⟨elemCode s p x.1 h (e x.2), scaleByte s p x.1 h (e x.2 / h.b)⟩,
                slots := 0, outs := [], mask := none, poison := none,
                pre := views.zipIdx.map (fun x => narrow16 (widenElem s p x.1 h (e x.2))),
                wide := (views.zipIdx.filter fun x => widenOver s p x.1 h (e x.2)).map (·.2) },
      reads := [], lines := if i = 0 then transLines s p it n else 0, blocks := [], tid := h.tid }

/-- The ranges that the rotation groups of word i read. -/
def rotReads (s : State) (p : Nat) (w : KWord) (h : Header) (r : RotRec) (i : Nat) : List (Nat × Nat) :=
  let es := r.elems i
  match rotSfmt w with
  | 0 => let part (k : Nat) := es.filterMap fun e => (tensorRanges s p h e 1)[k]?
    part 0 ++ part 1 ++ part 2
  | 1 => es.map fun e => (rotSrc w + 2 * e, 2)
  | _ => es.map fun e => (rotSrc w + 4 * e, 4)

/-- The lines that a list of ranges of at most a line each touches, each counted once. -/
def lineSet (rs : List (Nat × Nat)) : List Nat :=
  rs.foldl (fun m r => insNat (r.1 / 64) (insNat ((r.1 + r.2 - 1) / 64) m)) []

/-- A narrow source element of word i leaves the binary32 range when it is widened (R104). -/
def rotOver (s : State) (p : Nat) (w : KWord) (l : Loc) (h : Header) (r : RotRec) (i : Nat) : Bool :=
  rotSfmt w == 0 && (if r.word = 0 then (List.range r.klen).any fun k => widenOver s p l h (r.elem i k)
    else (List.range r.nv).any fun v => widenOver s p l h (r.elem v i))

/-- The rotation record of a TROT in its channel. -/
def FeedItem.rot (it : FeedItem) : RotRec := rotRec (it.headAt 0)

/-- Word i of a TROT (R172, R173). -/
def buildRot (s : State) (p : Nat) (it : FeedItem) (l : Loc) (i : Nat) : Built :=
  let w := it.word
  let r := it.rot
  let ho := headerOf (it.headAt 1)
  let h := headerOf (it.headAt 2)
  let xs := rotWord s p w l h r i
  let b := ho.b
  let pos := i * r.width
  let blks := (pieces b (r.width / b) xs).zipIdx.map fun x => (pos / b + x.2, formBlock (blockRule s p ho (bitOf w 117)) (pos + x.2 * b) x.1)
  let rs := rotReads s p w h r i
  { word := { at_ := 0, fmt := ho.fmt, blen := ho.blen, oslot := ho.oslot, tscale := ho.t,
              elems := blks.flatMap fun k => k.2.codes.map fun c => ⟨c, k.2.scale⟩, slots := r.width / b * ho.oslot,
              outs := blks.zipIdx.flatMap fun k => k.1.2.out.map fun o => ⟨o.value, k.2 * b + o.index⟩, mask := none, poison := none,
              pre := xs.map narrow16, wide := [] },
    reads := rs, lines := if r.word = 0 || i % r.n = 0 then (lineSet rs).length else 0, blocks := blks, tid := ho.tid,
    wide := rotOver s p w l h r i }

/-- Words an item delivers. -/
def itemWords (it : FeedItem) : Nat :=
  match it.kind with
  | .feed => tfWords it.word
  | .transpose => ttWords it.word
  | .trot => it.rot.words
  | .fmask => 0

/-- The words from word i on that are formed together: all of a TRANSPOSE, the rotation group of a TROT with WORD 1, else one (R175, R196). -/
def itemGroup (it : FeedItem) : Nat :=
  match it.kind with
  | .transpose => ttWords it.word
  | .trot => if it.rot.word = 0 then 1 else it.rot.n
  | _ => 1

/-- A word's reads end a rotation group of its channel. -/
def groupEnd (it : FeedItem) (i : Nat) : Bool :=
  match it.kind with
  | .transpose | .trot => (i + 1) % itemGroup it == 0
  | _ => false

/-- The mask of an FMASK is read and waits for the next word (R198). DESIGN CHOICE (assumption 108): a poisoned mask goes with that word, and
the whorl instruction that takes the word consumes it. -/
def takeMask (port : Nat) (it : FeedItem) (l : Loc) : Loc :=
  let a := tPtr it.word
  let l := l.scrub a 16
  let m := l.rdN a 16
  let bad := l.poisonIn a 16
  let f := portOf l.sp port
  let at_ := max f.cursor (4 * it.issued)
  (l.fport port fun f => { f with chan := f.chan.tail, cursor := at_ + 1, mask := some (fld it.word 118 117, m), maskPoison := bad }).strm 2
    fun q => { q with doneAt := max q.doneAt (at_ / 4 + 5) }

/-- The first read of an item's next word, in quarters of an sc (R113, R175). DESIGN CHOICE (assumption 101): a word that leaves the port in sc t
makes room for a read that starts in the same sc. -/
def startAt (f : FeedPort) (it : FeedItem) : Nat :=
  let room := f.left.getD (63 - f.fifo.length) 0
  max (max f.cursor (4 * it.issued)) (4 * (if it.kind == .feed then room else f.bufs.getD 1 0))

/-- The sc in which a word of an item enters, and the channel's times after it (R113, R175, R196). -/
def entryAt (f : FeedPort) (it : FeedItem) (lines : Nat) : Nat × Nat × Nat :=
  let room := f.left.getD (63 - f.fifo.length) 0
  let start := startAt f it
  let cur := if lines = 0 then f.cursor else start + lines
  let ready := if lines = 0 then 0 else (start + lines - 1) / 4 + 9
  if it.kind == .feed then
    let t := max ready (f.lastIn / 2)
    (t, cur, max f.lastIn (2 * t))
  else
    let u := max (f.lastIn + 1) (2 * max ready room)
    (u / 2, cur, u)

/-- Word i of a TFEED or a TROT as the distaff stands. -/
def buildWord (s : State) (p : Nat) (it : FeedItem) (l : Loc) (i : Nat) : Built :=
  match it.kind with
  | .trot => buildRot s p it l i
  | _ => buildFeed s p it l i

/-- A word enters its port in sc t, those of its group still in the buffer after it, and the whorl takes what is due by then. -/
def putWord (s : State) (p port t cur last : Nat) (it : FeedItem) (b : Built) (rest : List Built) (bad : Option Nat) (l : Loc) : Loc :=
  let i := it.entered
  let l := l.at_ t
  let f := portOf l.sp port
  let fw := { b.word with at_ := t, mask := f.mask, poison := bad <|> f.maskPoison }
  let fin := i + 1 == itemWords it
  let l := b.blocks.foldl (fun l k => noteBlock 2 it.woff b.tid k.1 k.2 l) (if b.wide then l.flag else l)
  let l := l.fport port fun f =>
    { f with fifo := f.fifo ++ [fw], mask := none, maskPoison := none, cursor := cur, lastIn := last,
             bufs := if groupEnd it i then (t :: f.bufs).take 2 else f.bufs,
             chan := if fin then f.chan.tail else { it with entered := i + 1, buf := rest } :: f.chan.tail }
  let l := if fin then l.strm 2 fun q => { q with doneAt := max q.doneAt t } else l
  if l.sp.whorl.split then pump s p (portHalf port) l else if port < 2 then pump s p 0 l else l

/-- The words that a channel forms next: a TRANSPOSE reads row by row (R196); what a feed word or a rotation group reads is taken together in
the sc of its first read (assumption 69). The errors that the words read hold are found (R472). -/
def formWords (s : State) (p port : Nat) (it : FeedItem) (l : Loc) : Loc × List Built :=
  let start := startAt (portOf l.sp port) it
  let l := l.land (start / 4)
  if it.kind == .transpose then
    let l := l.reading ((List.range (ttWidth it.word)).flatMap (transReads s p it))
    let views := transViews s p it start l
    (l, (List.range (itemGroup it)).map (buildTrans s p it views))
  else
    let bs := (List.range (itemGroup it)).map fun j => buildWord s p it l (it.entered + j)
    (l.reading (bs.flatMap fun b => b.reads ++ b.side), bs)

/-- The first poisoned word that the reads of a group find, and the sc of its read: a TRANSPOSE meets it row by row (R196, R473). -/
def groupPoison (s : State) (p port : Nat) (it : FeedItem) (bs : List Built) (l : Loc) : Option (Nat × Nat) :=
  let start := startAt (portOf l.sp port) it
  if it.kind == .transpose then
    (transViews s p it start l).zipIdx.findSome? fun x =>
      (x.1.anyPoison (transReads s p it x.2)).map fun off => (transAt s p it start x.2, off)
  else (l.anyPoison (bs.flatMap (·.reads))).map fun off => (start / 4, off)

/-- The next word of a channel enters its port: from the rotation buffer, which a group fills with all its words, or formed by itself. TROT and
TTRANS consume a poisoned word before the first of the group enters (R196, R473). -/
def enterWord (s : State) (p port : Nat) (it : FeedItem) (l : Loc) : Loc :=
  let put (l : Loc) (b : Built) (rest : List Built) (bad : Option Nat) : Loc :=
    let (t, cur, last) := entryAt (portOf l.sp port) it b.lines
    putWord s p port t cur last it b rest bad l
  match it.buf with
  | b :: rest => put l b rest none
  | [] =>
    let (m, bs) := formWords s p port it l
    match bs, it.kind == .feed, groupPoison s p port it bs m with
    | _, false, some (t, off) =>
      ((m.fport port fun f => { f with chan := f.chan.tail }).kill 2).raise { evW 0x302 2 it.woff 2 (ownAddr s p off) with at_ := some t }
    | b :: rest, _, bad => put m b rest (bad.map (·.2))
    | [], _, _ => m

/-- A word of a full port leaves it before the next can enter. -/
def makeRoom (s : State) (p port : Nat) (l : Loc) : Loc :=
  let h := if l.sp.whorl.split then portHalf port else 0
  let full (l : Loc) : Bool := decide (64 ≤ (portOf l.sp port).fifo.length)
  if port < 2 || l.sp.whorl.split then drive (fun m => if full m then pumpStep s p h (2 ^ 64) m else none) pumpSteps l else l

/-- Masks at the front of a channel are read, then its next word enters (R198). -/
def feedEnter (s : State) (p port : Nat) : Nat → Loc → Loc
  | 0, l => l
  | n + 1, l =>
    match (portOf l.sp port).chan with
    | [] => l
    | it :: _ =>
      if it.kind == .fmask then feedEnter s p port n (takeMask port it l)
      else
        let l := makeRoom s p port l
        if (portOf l.sp port).fifo.length < 64 then enterWord s p port it l else l

/-- FEED_WORD_ENTER. -/
def execFeedWordEnter (p port : Nat) (s : State) : Out :=
  if port < 4 then onPos s p (if live s p then feedEnter s p port 5 else id) else .fault (.noSuchUnit "feed port" port)

end Sys2Proof.Machine
end

