-- ==== Sys2Proof/Machine/Mesh.lean ====
section
/-!
DEFINITION. Routes over the die mesh and the bridges, the flits of an access, their reservations, their admission, and how a stretch at a
router moves them (R328 to R335, R341).
-/
namespace Sys2Proof.Machine

/-! Routes (R328) -/

/-- The position at a global column and row. -/
def posAtXY (x y : Nat) : Nat := (x / 13 + 2 * (y / 12)) * 156 + x % 13 * 12 + y % 12

/-- The columns or rows passed on the way from a to b, without a. -/
def leg (a b : Nat) : List Nat :=
  if a ≤ b then (List.range (b - a)).map (a + 1 + ·) else (List.range (a - b)).map (a - 1 - ·)

/-- The routers of a route behind its first: along the row, then along the column. -/
def routers (a b : Nat) : List Nat :=
  (leg (gcol a) (gcol b)).map (posAtXY · (grow a)) ++ (leg (grow a) (grow b)).map (posAtXY (gcol b) ·)

/-- The steps of a route, from router a on, with the sc from its start in which each is entered: 2 for a hop, 24 for a bridge (Table 1.2). -/
def routeSteps : Nat → Nat → List Nat → List (Nat × Nat × Nat)
  | _, _, [] => []
  | a, o, b :: rest => (a, b, o) :: routeSteps b (o + if spireOf a = spireOf b then 2 else 24) rest

/-- The steps from position a to position b. -/
def route (a b : Nat) : List (Nat × Nat × Nat) := routeSteps a 0 (routers a b)

/-- The spires that a line of HBM passes, as lanes of their bridges: the east–west bridge first (R341). -/
def laneSteps (a b : Nat) : List (Nat × Nat × Nat) :=
  let c := if a % 2 = b % 2 then a else a / 2 * 2 + b % 2
  (if a = c then [] else [(1000 + a, 1000 + c, 0)]) ++ (if c = b then [] else [(1000 + c, 1000 + b, if a = c then 0 else 24)])

/-! Reservations (R331) -/

/-- The time of the k-th reference sc of position q in this frame, in thousandths of an rc. -/
def refTick (s : State) (q k : Nat) : Nat := tickOf s q (cycleEnd s q k)

/-- A flit of an access whose first step is in reference sc k of position q, whose ratio counts its steps (assumption 73). -/
def flitOn (s : State) (a : Access) (back : Bool) (q k : Nat) (steps : List (Nat × Nat × Nat)) : Flit :=
  { via := a.via, sender := a.src, tag := a.tag, back := back, ratio := (pwAt s q).goal,
    links := steps.map fun x => { src := x.1, dst := x.2.1, at_ := refTick s q (k + x.2.2) } }

/-- Two reservations, of flits whose sc last v and w, meet on one link. -/
def meet (v w : Nat) (x y : Link) : Bool :=
  x.src == y.src && x.dst == y.dst && decide (x.at_ < y.at_ + w) && decide (y.at_ < x.at_ + v)

/-- Length of an sc of a flit. -/
def Flit.sc (f : Flit) : Nat := 56000 / f.ratio

/-- Lines that a link or a bridge's lanes carry in an sc. -/
def Link.room (x : Link) : Nat := if x.src < 1000 then 1 else 32

/-- Every link of the flit is free in the sc in which it crosses it. -/
def fits (fs : List Flit) (f : Flit) : Bool :=
  f.links.all fun x => decide (((fs.map fun g => (g.links.filter (meet f.sc g.sc x)).length).foldl (· + ·) 0) < x.room)

/-- Flits are admitted. -/
def addFlits (s : State) (fs : List Flit) : State := { s with fabric := { s.fabric with flits := s.fabric.flits ++ fs } }

/-- The flit that carries an access, or its answer. -/
def Flit.of (a : Access) (back : Bool) (f : Flit) : Bool := f.via == a.via && f.sender == a.src && f.tag == a.tag && f.back == back

/-- A flit is at its end: its reservations lapse. -/
def dropFlit (s : State) (a : Access) (back : Bool) : State :=
  { s with fabric := { s.fabric with flits := s.fabric.flits.filter fun f => !f.of a back } }

/-- Links that flits reserve. -/
def linkCount (fs : List Flit) : Nat := (fs.map (·.links.length)).foldl (· + ·) 0

/-- What a late flit carries moves by the d sc for which it is held. -/
def moveLate (s : State) (x : LateFlit) (d : Nat) : State :=
  let f := x.flit
  { s with
    fabric := { s.fabric with
      net := s.fabric.net.map fun a => if f.of a false then { a with at_ := a.at_ + 56 * d } else a,
      replies := s.fabric.replies.map fun r => if f.of r.acc true then { r with at_ := r.at_ + 56 * d } else r },
    hbm := { s.hbm with waiting := s.hbm.waiting.map fun w => if f.of w.acc f.back then { w with at_ := w.at_ + d } else w },
    ports := s.ports.map fun q => { q with
      items := q.items.map fun it => if it.accs.any (fun a => f.of a it.isAnswer) then { it with at_ := it.at_ + d * 56000 / f.ratio } else it } }

/-- A late flit as it enters in its sc. -/
def LateFlit.now (s : State) (x : LateFlit) : Flit :=
  { x.flit with links := x.steps.map fun y => { src := y.1, dst := y.2.1, at_ := refTick s x.dst (x.k + y.2.2) } }

/-- A late flit is presented in its sc: it enters, or is held and presented again in the next sc, which counts at its origin (R332). -/
def enterLate (s : State) (x : LateFlit) : State :=
  if fits s.fabric.flits (x.now s) then addFlits s [x.now s]
  else
    let s := { s with fabric := { s.fabric with lates := s.fabric.lates ++ [{ x with k := x.k + 1 }] } }
    modSp (moveLate s x 1) x.origin fun sp => { sp with ctr := { sp.ctr with meshHold := sat32 sp.ctr.meshHold 1 } }

/-- The late flits are presented sc by sc up to a time, ahead of every carder, the first that became ready first; n bounds the presentations. -/
def settleLates (t : Nat) : Nat → State → State
  | 0, s => s
  | n + 1, s =>
    match pluckMin (fun (x : LateFlit) => decide (refTick s x.dst x.k ≤ t)) (fun x => refTick s x.dst x.k) s.fabric.lates with
    | some (x, rest) => settleLates t n (enterLate { s with fabric := { s.fabric with lates := rest } } x)
    | none => s

/-- The late flits are presented up to time t: each of them once in each of its sc. -/
def presentLates (s : State) (t : Nat) : State := settleLates t (s.fabric.lates.length * (t + 1)) s

/-- The flit that carries an access, or its answer, waits for its admission. -/
def isLate (s : State) (a : Access) (back : Bool) : Bool := s.fabric.lates.any (·.flit.of a back)

/-- A flit whose sending time no admission foresees is presented at its origin in the sc in which it is ready, reference cycle k of q (R332). -/
def sendLate (s : State) (a : Access) (back : Bool) (origin q k : Nat) (steps : List (Nat × Nat × Nat)) : State :=
  { s with fabric := { s.fabric with
      lates := s.fabric.lates ++ [{ flit := flitOn s a back q k steps, origin := origin, dst := q, k := k, steps := steps }] } }

/-- The answer to an access leaves position p for position q in p's sc t: on its reservation when it leaves in that sc, else as a late flit
(R332). -/
def sendBack (s : State) (a : Access) (p q t : Nat) : State :=
  let k := arriveRef s p q t 0
  if s.fabric.flits.any (fun g => g.of a true && g.links == (flitOn s a true q k (route p q)).links) then s
  else sendLate (dropFlit s a true) a true p q k (route p q)

/-! A stretch at a router (R333) -/

/-- A span of time without the part of it that lies in y. -/
def cutSpan (y : Nat × Nat) (x : Nat × Nat) : List (Nat × Nat) :=
  [(x.1, min x.2 y.1), (max x.1 y.2, x.2)].filter fun z => decide (z.1 < z.2)

/-- How much of the time from t0 to t1 lies in none of the spans. -/
def uncovered (spans : List (Nat × Nat)) (t0 t1 : Nat) : Nat :=
  ((spans.foldl (fun xs y => xs.flatMap (cutSpan y)) [(t0, t1)]).map fun x => x.2 - x.1).foldl (· + ·) 0

/-- A stretch of position r, from t0 to t1, that takes d thousandths of an rc: a droop's (R37), or that of a clock slower than its reference
count (R394, R397). `router` tells that the position's router stretches with it. -/
structure Spell where
  r : Nat
  t0 : Nat
  t1 : Nat
  d : Nat
  droop : Bool
  router : Bool
deriving DecidableEq, Repr

/-- What a stretch takes in the time that lies in none of the spans: time in which two stretches overlap delays once (R42, R46). -/
def Spell.afresh (y : Spell) (spans : List (Nat × Nat)) : Nat :=
  if y.t0 < y.t1 then y.d * uncovered spans y.t0 y.t1 / (y.t1 - y.t0) else y.d

/-- The time that a flit takes over a link (Table 1.2). -/
def Flit.hop (f : Flit) (x : Link) : Nat := (if spireOf x.src = spireOf x.dst then 2 else 24) * f.sc

/-- A stretch at a router delays a flit that crosses it: from when, and by how much. A droop's delays it by all that it takes (R333); a slower
clock, which lasts, by what the hop to the router loses (DEDUCED, assumption 98). -/
def Spell.hits (y : Spell) (f : Flit) : Option (Nat × Nat) :=
  if !y.router then none
  else if y.droop then
    (f.links.find? fun x => (x.src == y.r || x.dst == y.r) && decide (y.t0 ≤ x.at_) && decide (x.at_ < y.t1)).map fun x =>
      (x.at_, y.afresh f.spans)
  else
    (f.links.find? fun x => x.dst == y.r && decide (x.at_ < y.t1) && decide (y.t0 < x.at_ + f.hop x)).map fun x =>
      (x.at_ + 1, ({ y with t0 := max y.t0 x.at_, t1 := min y.t1 (x.at_ + f.hop x),
                            d := y.d * (min y.t1 (x.at_ + f.hop x) - max y.t0 x.at_) / (y.t1 - y.t0) } : Spell).afresh f.spans)

/-- A flit with the time from which its reservations have moved and by how much, if they have. -/
abbrev Moved := Flit × Option (Nat × Nat)

/-- A reservation as it stands once a flit has moved. -/
def Moved.link (m : Moved) (x : Link) : Link :=
  match m.2 with | some (t, d) => if t ≤ x.at_ then { x with at_ := x.at_ + d } else x | none => x

/-- A stretch counts in the delay of a flit: it moves it, or the flit is on its way to the position. -/
def Spell.counts (y : Spell) (m : Moved) : Bool := m.2.isSome || (m.1.links.getLast?.map (·.dst)) == some y.r

/-- A flit as it stands after a stretch. -/
def Moved.flit (y : Spell) (m : Moved) : Flit :=
  { m.1 with links := m.1.links.map (Moved.link m), spans := if y.counts m then m.1.spans ++ [(y.t0, y.t1)] else m.1.spans }

/-- The first reservation of b that has not moved and that a moved reservation of a meets, with the time by which it moves. -/
def Moved.hits (a b : Moved) : Option (Nat × Nat) :=
  match a.2 with
  | some (t, d) =>
    let mine := (a.1.links.filter fun (x : Link) => decide (t ≤ x.at_)).map (Moved.link a)
    ((b.1.links.filter fun y => b.2.all (y.at_ < ·.1)).find? fun y => mine.any fun x => meet a.1.sc b.1.sc x y).map fun y => (y.at_, d)
  | none => none

/-- The first flit that some moved one meets, with the time from which it moves and by how much. -/
def nextHit (ms : List Moved) : Option (Nat × Nat × Nat) :=
  ms.zipIdx.findSome? fun b => ms.zipIdx.findSome? fun a =>
    if a.2 = b.2 then none else (Moved.hits a.1 b.1).map fun t => (b.2, t)

/-- A moved reservation that would meet another moves that one by the same time, along every route that the moves reach. -/
def spreadMoves : Nat → List Moved → List Moved
  | 0, ms => ms
  | n + 1, ms =>
    match nextHit ms with
    | some (i, t) => spreadMoves n (modAt ms i fun m => (m.1, some t))
    | none => ms

/-- The flits with what a stretch delays them by, and those that their moves reach. -/
def stretched (y : Spell) (fs : List Flit) : List Moved := spreadMoves (linkCount fs) (fs.map fun f => (f, y.hits f))

/-- What an access or its answer is delayed by on its route. -/
def movedBy (ms : List Moved) (a : Access) (back : Bool) : Option Nat :=
  ms.findSome? fun m => if m.1.of a back then m.2.map (·.2) else none

/-- The position whose distaff an access addresses. -/
def targetPos (s : State) (a : Access) : Option Nat := match whereIs a.addr with | .distaff n _ => some (posOf s n) | _ => none

/-- The part of a delay n by a stretch that falls before an arrival due in the middle of it. -/
def Spell.before (y : Spell) (due n : Nat) : Nat :=
  if due ≤ y.t0 then 0 else if y.t1 ≤ due + y.d then n else n * (due - y.t0) / (y.t1 - y.t0 - y.d)

/-- An access under way, as a stretch of its route or of its receiver delays it (R42, R46, R333). -/
def Spell.onWay (s : State) (ms : List Moved) (y : Spell) (a : Access) : Access :=
  let q := (targetPos s a).getD 1000
  let late (n : Nat) : Access := { a with at_ := a.at_ + n * (pwAt s q).goal / 1000, spans := a.spans ++ [(y.t0, y.t1)] }
  match movedBy ms a false with
  | some n => late n
  | none => if q = y.r then late (y.before (tickOf s q (a.at_ - frac56 s q)) (y.afresh ((0, a.sentAt) :: a.spans))) else a

/-- A stretch of a sender that counts the way of the answer to its access. -/
def Spell.onWait (s : State) (y : Spell) (a : Access) : Access :=
  if a.via.isNone && posOf s a.src == y.r && (a.kind == .getLine || a.kind == .cfe) then { a with waits := a.waits ++ [(y.t0, y.t1, y.d)] } else a

/-- A stretch moves an access under way. -/
def stretchAcc (s : State) (ms : List Moved) (y : Spell) (a : Access) : Access :=
  if a.via.isNone && posOf s a.src == (targetPos s a).getD 1000 then a else y.onWait s (y.onWay s ms a)

/-- What the stretches of a sender in its wait delay the answer by, in thousandths of an rc: as far as they have not delayed the access (R46). -/
def owedBy (a : Access) : Nat :=
  (a.waits.map fun w => ({ r := 0, t0 := w.1, t1 := w.2.1, d := w.2.2, droop := true, router := false } : Spell).afresh a.spans).foldl (· + ·) 0

/-- An answer under way: its route delays it, and its receiver, which counts the whole way of an access that it waits for, and of an
acknowledgement the way from its sending. -/
def stretchReply (s : State) (ms : List Moved) (y : Spell) (x : Reply) : Reply :=
  let late (n : Nat) : Reply :=
    { x with at_ := x.at_ + n * (pwAt s x.dst).goal / 1000, acc := { x.acc with spans := x.acc.spans ++ [(y.t0, y.t1)] } }
  if x.near then x
  else match movedBy ms x.acc true with
    | some n => late n
    | none =>
      if x.dst = y.r then
        late (y.before (tickOf s x.dst (x.at_ - frac56 s x.dst)) (y.afresh (if x.ack then (0, x.acc.sentAt) :: x.acc.spans else x.acc.spans)))
      else x

/-- What waits at a port for a flit that a stretch has moved. -/
def stretchItem (ms : List Moved) (y : Spell) (it : PlyItem) : PlyItem :=
  match it.accs.findSome? fun a => movedBy ms a it.isAnswer with
  | some n => { it with at_ := it.at_ + n, accs := it.accs.map fun b => { b with spans := b.spans ++ [(y.t0, y.t1)] } }
  | none => it

/-- The late flits that are ready by the end of a stretch enter, and what it delays arrives later (R42, R46, R333). -/
def stretchAt (s : State) (y : Spell) : State :=
  if y.d = 0 then s else
  let s := presentLates s y.t1
  let ms := stretched y s.fabric.flits
  { s with
    fabric := { s.fabric with
      flits := ms.map (Moved.flit y), net := s.fabric.net.map (stretchAcc s ms y), replies := s.fabric.replies.map (stretchReply s ms y) },
    ports := s.ports.map fun q => { q with items := q.items.map (stretchItem ms y) } }

/-! Lost cycles (R40, R388, R394, R397) -/

/-- The position is not on while a frame of its job is due: its oscillator is held (R388). -/
def heldOff (s : State) (p : Nat) : Bool :=
  (pwAt s p).wake != 0 && decide ((spAt s p).skipping ≤ 1) &&
    match jobAt s p with | some j => (jobOf s j).state == 2 | none => false

/-- Cycles in 224ths that n rc cost a position beside droops: all of a held one's, what a raise delivers at the old ratio (R397), and what its
limit level takes (R394). While a droop stretches, the longer demand governs and the droop's own count holds all that is lost. -/
def lossIn (w : PosPower) (held stretching : Bool) (n : Nat) : Nat :=
  if stretching then 0
  else if held then n * (4 * w.goal)
  else if w.wake != 0 then 0
  else n * (4 * w.goal - 4 * w.ratio / 2 ^ w.level)

/-- The cycles lost beside droops are counted up to rc t; the flits that crossed a stretched router are delayed (R333), whose clock a gated
tile does not hold (R334). -/
def countLoss (t : Nat) (s : State) (p : Nat) : State :=
  let w := pwAt s p
  let c := (spAt s p).clock
  let n := lossIn w (heldOff s p) c.stretching (t - c.countedTo)
  let s := modSp s p fun sp => { sp with clock := { sp.clock with lost224 := sp.clock.lost224 + n, countedTo := max c.countedTo t } }
  stretchAt s { r := p, t0 := 1000 * c.countedTo, t1 := 1000 * t, d := cdiv (n * 250) w.goal, droop := false, router := w.wake == 0 }

/-- A droop stretch of position p has cost `lost` cycles up to rc t: they delay the flits that crossed its router (R333). -/
def addLost (s : State) (p t lost : Nat) : State :=
  let c := (spAt s p).clock
  let s := modSp s p fun sp => { sp with clock := { sp.clock with lost := sp.clock.lost + lost, since := t } }
  stretchAt s { r := p, t0 := 1000 * c.since, t1 := 1000 * t, d := cdiv (lost * 56000) (pwAt s p).goal, droop := true, router := true }

/-- What slower clocks have cost is counted up to rc t, and every late flit that is ready by then has entered. -/
def settleBy (s : State) (t : Nat) : State :=
  let slow := (s.lantern.pos.zipIdx.filter fun x => !fullSpeed x.1 && x.1.wake == 0).map (·.2)
  presentLates (slow.foldl (countLoss (t / 1000)) s) t

/-- The arrival at q, at time t, of an access or of its answer is settled: its flit has been admitted, and no router on its way, nor its receiver,
stretches uncounted at the time of its passage (assumption 79). -/
def arrivalKnown (s : State) (a : Access) (back : Bool) (q t : Nat) : Bool :=
  !isLate s a back && lossKnown s q t && s.fabric.flits.all fun f => !f.of a back || f.links.all fun x => lossKnown s x.src x.at_ && lossKnown s x.dst x.at_

/-! Die-edge attachments (R335) -/

/-- The router at which a port meets the mesh (Table 13.1); 6 is the CXL host port. -/
def portPos (q : Nat) : Nat :=
  match q with
  | 0 => posAtXY 0 5 | 1 => posAtXY 25 5 | 2 => posAtXY 0 18 | 3 => posAtXY 25 18 | 4 => posAtXY 6 0 | 5 => posAtXY 19 23 | _ => posAtXY 19 0

/-- One-way latency between a position and a port: the route and the die-edge crossing. -/
def edgeLat (p q : Nat) : Nat := routeLat p (portPos q) + 6

end Sys2Proof.Machine
end

