-- ==== Sys2Proof/Machine/Carder.lean ====
section
/-!
DEFINITION. The carder (R249, R255 to R264): CMOVE, the presentation of remote accesses, the loft, the arrival of lines
and of acknowledgements.

A line, packet or operation that an instruction sends stands in the carder's `present` list until MESH_ADMISSION presents it in its sc;
what passes between positions carries shared time (assumption 1).
-/
namespace Sys2Proof.Machine

/-- Like `issue`, for an instruction that reaches beyond its position; one that waits gives the state as it was. -/
def issueS (s : State) (p k : Nat) (want : KWord → Bool) (body : QEntry → Loc → State) : Out :=
  if p < 624 then
    match (strmOf (spAt s p) k).queue with
    | q :: _ => if mayIssue s p k && q.marker.isNone && want q.word then .next (body q (issuePos s p k)) else .next s
    | [] => .next s
  else .fault (.noSuchUnit "position" p)

/-- A step on the whole state at a position that exists. -/
def onPosS (s : State) (p : Nat) (f : Loc → State) : Out :=
  if p < 624 then .next (f (openPos s p)) else .fault (.noSuchUnit "position" p)

/-- Port. -/
def portAt (s : State) (q : Nat) : Port := s.ports.getD q Port.reset
def modPort (s : State) (q : Nat) (f : Port → Port) : State := { s with ports := modAt s.ports q f }

/-! Checks at issue (R249, R255, R280, R304) -/

/-- The job of position p owns logical number n. -/
def ownsWindow (s : State) (p n : Nat) : Bool := match jobAt s p with | some j => inSet s j n | none => false

/-- Port q is up and belongs to the job of position p (R304). -/
def portReady (s : State) (p q : Nat) : Bool :=
  (portAt s q).state == 2 && match jobAt s p with | some j => (jobOf s j).ports.testBit q | none => false

/-- The event that the remote range of a GET or PUT raises. -/
def rangeEvent (s : State) (p a len : Nat) : Option Nat :=
  match whereIs a with
  | .distaff n off => if !ownsWindow s p n then some 0x305 else if off + len > distSize then some 0xA20 else none
  | .hbm off => if off + len > hbmSize then some 0xA20 else none
  | .host _ => some 0xA20
  | .partner q a' =>
    match whereIs a' with
    | .distaff _ off => if off + len > distSize then some 0xA20 else if portReady s p q then none else some 0x409
    | .hbm off => if off + len > hbmSize then some 0xA20 else if portReady s p q then none else some 0x409
    | _ => some 0x301
  | _ => some 0x301

/-- The event that the first element's address of an ADD raises (R255). -/
def addEvent (s : State) (p a : Nat) : Option Nat :=
  match whereIs a with
  | .distaff n _ => if ownsWindow s p n then none else some 0x305
  | .partner q a' =>
    match whereIs a' with
    | .distaff _ _ => if portReady s p q then none else some 0x409
    | .hbm _ => some 0xA20
    | _ => some 0x301
  | .hbm _ => some 0xA20
  | .host _ => some 0xA20
  | _ => some 0x301

/-- An event that carries the record of Table 10.4. -/
def Loc.recEv (l : Loc) (s : State) (p code k woff obj seen count : Nat) : Loc :=
  l.raise { code := code, kind := kindOf code, stream := k, woff := woff, da := 0, db := 0,
            rcd := some (syncRec s p code 0 k woff obj seen count) }

/-- A carder word that raises an event of its address at issue. -/
def Loc.carderReject (l : Loc) (s : State) (p code a : Nat) (q : QEntry) : Loc :=
  if code = 0x409 then
    let port := match whereIs a with | .partner x _ => x | _ => 0
    ((l.pop 4 (issueAt l 4) 1 (issueAt l 4)).kill 4).recEv s p 0x409 4 q.woff port 0 0
  else l.reject 4 code 0 (if code = 0xA20 then 0 else a) q

/-! Lines -/

/-- A byte range cut at line boundaries: address and length of each piece. -/
def segs (a n : Nat) : List (Nat × Nat) :=
  (List.range (linesOf a n)).map fun i =>
    let lo := max a ((a / 64 + i) * 64)
    (lo, min (a + n) ((a / 64 + i + 1) * 64) - lo)

/-- A line of n bytes of a local copy, visible in sc u: it is read 9 sc before, and holds until then what the writes issued so far leave there
in that sc. -/
def Loc.copyLine (u src dst n : Nat) (l : Loc) : Loc :=
  let v := l.land (u - 9)
  (l.push { Pend.bytes u dst (v.rd src n) ((v.granules src n).map fun g => dst + 4 * g) with src := some src }).push
    { Pend.bytes (u - 9) 0 [] [] with fresh := true }

/-- A local copy of n bytes, poison carried, whose i-th line of the destination is read 9 sc before it is visible in sc `vis i` (R206, R256,
R473). -/
def Loc.copyLines (l : Loc) (src dst n : Nat) (vis : Nat → Nat) : Loc :=
  (segs dst n).zipIdx.foldl (fun l x => l.copyLine (vis x.2) (src + (x.1.1 - dst)) x.1.1 x.1.2) l

/-! HBM lines (R340, R341) -/

/-- The slots that a job's page in effect reserves in the channel of a region offset. -/
def slotsFor (s : State) (j off : Nat) : Nat := planSlots s j (jobOf s j).page (stackOf off) (chanOf off)

/-- Offset in the HBM region. -/
def hbmOff (a : Nat) : Nat := a - hbmBase

/-- An HBM line of a carder that has been presented goes to its channel's grant point. -/
def hbmLine (s : State) (p t : Nat) (a : Access) : State :=
  let e : HbmAcc := { pos := p, job := (jobAt s p).getD 8, acc := a, write := a.kind != .getLine, off := hbmOff a.addr, data := a.data,
                      poison := !a.poison.isEmpty, errs := 0, at_ := t }
  { s with hbm := { s.hbm with waiting := s.hbm.waiting ++ [e] } }

/-- The lines of a carder that are presented and not granted (R341). -/
def ungranted (s : State) (p : Nat) : Nat := (s.hbm.waiting.filter (·.isOf p)).length

/-! The loft (R58, R257, R258) -/

/-- The set of a line. -/
def loftSet (line : Nat) : Nat := line / 64 % 512

/-- A line taken out of the loft list. -/
def loftFind (l : Loc) (line : Nat) : Option LoftLine := l.sp.carder.loft.find? (·.line == line)

/-- A line put in front, as the most recently used of its set; a set of nine loses its last. -/
def loftPut (ls : List LoftLine) (x : LoftLine) : List LoftLine :=
  let rest := ls.filter (·.line != x.line)
  let mine := rest.filter fun y => loftSet y.line == loftSet x.line
  let drop := if mine.length ≥ 8 then (mine.getLast?.map (·.line)) else none
  x :: rest.filter fun y => some y.line != drop

/-- A GET line presented to the loft is a miss: no way holds its line, or a double error is found in it (R257, R258). -/
def loftMiss (l : Loc) (a : Access) : Bool :=
  match loftFind l (a.addr / 64 * 64) with
  | some x => x.filled && decide (2 ≤ popN 512 x.errs)
  | none => true

/-- A miss allocates a way (R58). -/
def loftAlloc (a : Access) (l : Loc) : Loc :=
  let line := a.addr / 64 * 64
  let l := match loftFind l line with | some _ => l.count fun c => { c with eccPoison := sat32 c.eccPoison 1 } | none => l
  let way : LoftLine := { line := line, filled := false, data := [], poison := [], errs := 0, tag := a.tag }
  (l.card fun c => { c with loft := loftPut (c.loft.filter (·.line != line)) way }).count
    fun c => { c with loftMisses := sat32 c.loftMisses 1 }

/-- The part of a line's data that an access takes, with the poisoned granules of it. -/
def lineCut (a : Access) (data : List Byte) (poison : List Nat) : List Byte × List Nat :=
  let o := a.addr % 64
  ((data.drop o).take a.len, (poison.filter fun g => decide (o ≤ 4 * g) && decide (4 * g < o + a.len)).map (· - o / 4))

/-- A line's data reach a GET of position p in its sc t. -/
def loftReply (p t : Nat) (a : Access) (data : List Byte) (poison : List Nat) : Reply :=
  let c := lineCut a data poison
  { dst := p, at_ := t, near := true, acc := { a with loft := false }, data := c.1, poison := c.2, timeout := false, ack := false }

/-- A hit in sc t: the line's data arrive 4 sc later, or with the data of the miss that fills it (R257); a single error is corrected. -/
def loftHit (p t : Nat) (a : Access) (l : Loc) : Loc × List Reply :=
  match loftFind l (a.addr / 64 * 64) with
  | none => (l, [])
  | some x =>
    let l := if x.filled && popN 512 x.errs == 1 then l.count fun c => { c with eccCorr := sat32 c.eccCorr 1 } else l
    let l := (l.card fun c => { c with loft := loftPut c.loft { x with errs := if x.filled then 0 else x.errs } }).count
      fun c => { c with loftHits := sat32 c.loftHits 1 }
    if x.filled then (l, [loftReply p (t + 4) a x.data x.poison])
    else (l.card fun c => { c with loftWaits := c.loftWaits ++ [{ tag := x.tag, acc := { a with loft := false } }] }, [])

/-! CMOVE (Table 9.3) -/

def cmLocal (w : KWord) : Nat := fld w 113 89
def cmLen (w : KWord) : Nat := fld w 88 64
def cmAddr (w : KWord) : Nat := fld w 63 0
def cmFmt (w : KWord) : Nat := fld w 117 114

/-- An access without contents. -/
def Access.blank (kind : AccKind) : Access :=
  { kind := kind, src := 0, via := none, tag := 0, inst := 0, woff := 0, addr := 0, len := 0, local_ := 0, data := [], poison := [],
    fmt := 0, elem := 0, vals := [], wide := [], blen := 0, oslot := 0, tscale := one32, cfe := none, final := false, loft := false, lat := 0, at_ := 0 }

/-- Number the accesses of a new instruction, present them in consecutive sc from t, and note the instruction. -/
def newAccs (s : State) (p t : Nat) (q : QEntry) (l : Loc) (as : List Access) : List Access :=
  as.zipIdx.map fun a => { a.1 with src := lnum s p, inst := l.sp.carder.nextTag, tag := l.sp.carder.nextTag + 1 + a.2, woff := q.woff,
                                    at_ := t + a.2 }

/-- The instruction of `n` accesses is noted as under way. -/
def Loc.newJob (l : Loc) (woff n toPresent toArrive : Nat) (hold : Bool) : Loc :=
  l.card fun c => { c with nextTag := c.nextTag + 1 + n,
                           jobs := c.jobs ++ [{ inst := c.nextTag, woff := woff, toPresent := toPresent, toArrive := toArrive, hold := hold }] }

/-- An instruction is complete in sc t. -/
def Loc.endJob (l : Loc) (inst t : Nat) : Loc :=
  (l.card fun c => { c with jobs := c.jobs.filter (·.inst != inst) }).strm 4 fun q => { q with doneAt := max q.doneAt t }

/-- The fields of a GET or PUT are legal. -/
def moveOk (w : KWord) : Bool :=
  cmFmt w == 0 && cmLocal w % 4 == 0 && cmAddr w % 4 == 0 && cmLen w % 4 == 0 && cmLen w != 0 && inDist (cmLocal w) (cmLen w)

/-- Source and destination, local offsets, of a GET or PUT within the own window. -/
def ownEnds (s : State) (p : Nat) (put_ : Bool) (w : KWord) : Nat × Nat :=
  let a := toLocal s p (cmAddr w)
  if put_ then (cmLocal w, a) else (a, cmLocal w)

/-- The two ranges of a GET or PUT within the own window share a byte (R256). -/
def ownClash (s : State) (p : Nat) (put_ : Bool) (w : KWord) : Bool :=
  let e := ownEnds s p put_ w
  overlaps e.1 (cmLen w) e.2 (cmLen w)

/-- The time, in thousandths of an rc, `lat` sc after local sc t of position p: when what leaves there reaches a port. -/
def portTime (s : State) (p t lat : Nat) : Nat :=
  tickOf s p (since56 s p t + 56 * lat)

/-- The bytes a write of the carder counts as written (R258). -/
def writtenBytes (a : Access) : Option (Nat × Nat) :=
  match a.kind, a.cfe with
  | .putLine, _ => some (a.addr, a.len)
  | .addPacket, _ => some (a.addr + 2 * a.elem, 16 * (a.elem + a.len) - 2 * a.elem)
  | .cfe, some c => if c.op = 0 || c.op = 3 then some (a.addr, 8) else none
  | _, _ => none

/-! The final-flag attribute (R264) -/

/-- An access writes. -/
def isWrite (a : Access) : Bool := (writtenBytes a).isSome

/-- The sending carder of an access as one number. -/
def senderKey (a : Access) : Nat := (match a.via with | none => 0 | some q => q + 1) * 1024 + a.src

/-- An earlier write that the sender of `a` sent to this device has not landed. -/
def earlierPending (s : State) (a : Access) : Bool :=
  let e (b : Access) := isWrite b && b.via == a.via && b.src == a.src && decide (b.tag < a.tag)
  s.fabric.net.any e || s.hbm.waiting.any (fun x => x.write && e x.acc) || s.hbm.granted.any (fun x => x.write && e x.acc)
    || s.spindles.any (fun sp => sp.reeler.queue.any e || sp.reeler.held.any e || sp.reeler.waits.any (fun w => e w.acc))

/-- The sc of position p after the landing of the last write of this frame that the sender of `a` sent before it (R264). -/
def afterEarlier (s : State) (p : Nat) (a : Access) : Nat :=
  let mine := s.fabric.lands.filter fun x => x.key == senderKey a && decide (x.tag < a.tag)
  mine.foldl (fun m x => max m (localAt s p (cdiv ((x.at_ - 1 - s.bell.lastBell * 1000) * (pwAt s p).goal) 1000) + 1)) 0

/-- The landing of a write is noted for the final-flag writes that follow it. -/
def noteLanding (s : State) (q t : Nat) (a : Access) : State :=
  { s with fabric := { s.fabric with lands := s.fabric.lands ++ [{ key := senderKey a, tag := a.tag, at_ := portTime s q t 0 }] } }

/-- A write of the carder is counted among those not acknowledged. -/
def Loc.sends (l : Loc) (a : Access) : Loc :=
  l.card fun c => { c with sent := c.sent ++ [{ tag := a.tag, addr := a.addr, len := a.len, final := a.final, landAt := none }] }

/-- A PUT within the own window carries the final-flag attribute. -/
def ownFinal (put_ : Bool) (w : KWord) : Bool := put_ && bitOf w 118

/-- The sc after its issue in which line i of the destination of a GET or PUT within the own window is read: 8 lines move to an sc (R256). -/
def ownStep (s : State) (p : Nat) (put_ : Bool) (w : KWord) (i : Nat) : Nat :=
  let n := cmLen w
  let e := ownEnds s p put_ w
  (i + max (linesOf e.1 n) (linesOf e.2 n) - linesOf e.2 n) / 8

/-- The sc in which line i of the destination of a copy within the own window that issues in sc t is visible: 9 sc after its read (R256). -/
def ownVis (s : State) (p : Nat) (put_ : Bool) (w : KWord) (t i : Nat) : Nat := t + ownStep s p put_ w i + 9

/-- The sc that a copy within the own window occupies the carder's issue (R256). -/
def ownOcc (s : State) (p : Nat) (put_ : Bool) (w : KWord) : Nat :=
  let e := ownEnds s p put_ w
  cdiv (max (linesOf e.1 (cmLen w)) (linesOf e.2 (cmLen w))) 8

/-- A GET, or a PUT without the final-flag attribute, within the own window copies (R256). -/
def ownMove (s : State) (p : Nat) (put_ : Bool) (q : QEntry) (l : Loc) : Loc :=
  let e := ownEnds s p put_ q.word
  let t := issueAt l 4
  let occ := ownOcc s p put_ q.word
  ((l.pop 4 t occ (t + occ - 1 + 9)).copyLines e.1 e.2 (cmLen q.word) (ownVis s p put_ q.word t)).card
    fun c => { c with nextTag := c.nextTag + 1 }

/-- A PUT within the own window with the final-flag attribute: its lines wait for their presentation, 8 to an sc, and it is complete when the
last of them has landed (R256, R264). DESIGN CHOICE (assumption 113): the reeler takes them like any other final write, 5 sc after the presentation at
the earliest. -/
def ownPut (s : State) (p : Nat) (q : QEntry) (l : Loc) : Loc :=
  let n := cmLen q.word
  let e := ownEnds s p true q.word
  let t := issueAt l 4
  let as := (newAccs s p t q l ((segs e.2 n).map fun x =>
    { Access.blank .putLine with addr := ownAddr s p x.1, len := x.2, local_ := e.1 + (x.1 - e.2), final := true })).zipIdx.map fun a =>
      { a.1 with at_ := t + ownStep s p true q.word a.2 }
  ((l.pop 4 t (ownOcc s p true q.word) t).newJob q.woff as.length as.length as.length false).card fun c => { c with present := c.present ++ as }

/-- The sc in which the last write of a copy within the own window is visible. -/
def ownLast (s : State) (p : Nat) (put_ : Bool) (w : KWord) (t : Nat) : Nat := ownVis s p put_ w t (linesOf (ownEnds s p put_ w).2 (cmLen w) - 1)

/-- A GET or PUT within the own window (R256, R264): the landing of a PUT without the final-flag attribute is known at once. -/
def localMove (s : State) (p : Nat) (put_ : Bool) (q : QEntry) (l : Loc) : State :=
  if ownClash s p put_ q.word then closePos s p (l.reject 4 0xA20 0 0 q)
  else if ownFinal put_ q.word then closePos s p (ownPut s p q l)
  else
    let s1 := closePos s p (ownMove s p put_ q l)
    if put_ then noteLanding s1 p (ownLast s p put_ q.word (issueAt l 4)) { Access.blank .putLine with src := lnum s p, tag := l.sp.carder.nextTag }
    else s1

/-- The address lies in the own window. -/
def isOwn (s : State) (p a : Nat) : Bool := match whereIs a with | .distaff n _ => some n == lnumOf s p | _ => false

/-- The address lies in this device's HBM. -/
def isHbm (a : Nat) : Bool := match whereIs a with | .hbm _ => true | _ => false

/-- The accesses of an instruction wait for their presentation in consecutive sc (R256). -/
def Loc.presents (l : Loc) (t : Nat) (q : QEntry) (as : List Access) (arrive : Nat) : Loc :=
  ((l.pop 4 t as.length t).newJob q.woff as.length as.length arrive false).card fun c => { c with present := c.present ++ as }

/-- A GET reads through the loft: windows other than the own and HBM (R257). -/
def throughLoft (w : KWord) : Bool := bitOf w 119 && match whereIs (cmAddr w) with | .distaff _ _ | .hbm _ => true | _ => false

/-- A remote GET (R256, R257). -/
def remoteGet (s : State) (p : Nat) (q : QEntry) (l : Loc) : State :=
  let w := q.word
  let t := issueAt l 4
  let as := newAccs s p t q l ((segs (cmAddr w) (cmLen w)).map fun x =>
    { Access.blank .getLine with addr := x.1, len := x.2, local_ := cmLocal w + (x.1 - cmAddr w), loft := throughLoft w })
  closePos s p (l.presents t q as as.length)

/-- CMOVE GET. -/
def execCmoveGet (p : Nat) (s : State) : Out :=
  issueS s p 4 (isOp 0x20 121 120 0) fun q l =>
    let w := q.word
    if !moveOk w then closePos s p (l.reject 4 0xA20 0 0 q)
    else match rangeEvent s p (cmAddr w) (cmLen w) with
      | some code => closePos s p (l.carderReject s p code (cmAddr w) q)
      | none => if isOwn s p (cmAddr w) then localMove s p false q l else remoteGet s p q l

/-- The data of a PUT line read from the distaff. -/
def Loc.fetchPut (l : Loc) (a : Access) : Loc × Access :=
  let l := l.scrub a.local_ a.len
  (l, { a with data := l.rd a.local_ a.len, poison := l.granules a.local_ a.len })

/-- A remote PUT: its lines wait for their presentation. -/
def remotePut (s : State) (p : Nat) (q : QEntry) (l : Loc) : State :=
  let w := q.word
  let t := issueAt l 4
  let as := newAccs s p t q l ((segs (cmAddr w) (cmLen w)).map fun x =>
    { Access.blank .putLine with addr := x.1, len := x.2, local_ := cmLocal w + (x.1 - cmAddr w), final := bitOf w 118 })
  closePos s p (l.presents t q as 0)

/-- CMOVE PUT (R256, R264). -/
def execCmovePut (p : Nat) (s : State) : Out :=
  issueS s p 4 (isOp 0x20 121 120 1) fun q l =>
    let w := q.word
    if !moveOk w then closePos s p (l.reject 4 0xA20 0 0 q)
    else match rangeEvent s p (cmAddr w) (cmLen w) with
      | some code => closePos s p (l.carderReject s p code (cmAddr w) q)
      | none => if isOwn s p (cmAddr w) then localMove s p true q l else remotePut s p q l

/-- Element count of an add packet of a narrow format or of a run (R256). -/
def packetLen (fmt : Nat) : Nat :=
  match fmt with | 0 => 16 | 1 => 32 | 2 => 64 | 3 => 64 | 4 => 84 | 5 => 84 | _ => 128

/-- The packets of n elements in blocks of b: first element and count. -/
def packets (fmt b n : Nat) : List (Nat × Nat) :=
  (List.range (cdiv n b)).flatMap fun k =>
    let m := min b (n - k * b)
    (List.range (cdiv m (packetLen fmt))).map fun i => (k * b + i * packetLen fmt, min (packetLen fmt) (m - i * packetLen fmt))

/-- The fields of an ADD break a limit (R255). -/
def addBad (w : KWord) : Bool :=
  let fmt := cmFmt w
  let n := cmLen w
  n == 0 || decide (fmt > 7) || (decide (fmt ≤ 1) && (!inDist (cmLocal w) (n * (if fmt = 0 then 4 else 2))))
    || (decide (fmt ≥ 2) && (cmLocal w % 64 != 0 || !inDist (cmLocal w) 64))

/-- The source tensor of an ADD breaks a rule of R101: the block that E-0x111 names. -/
def addFault (me : Nat) (h : Header) (w : KWord) : Option Nat :=
  let n := cmLen w
  if !h.ok || h.fmt != cmFmt w then some 0
  else if n > h.nblk || !h.blocksIn me 0 n then some (h.badBlock me 0 n)
  else none

/-- An ADD of `cnt` elements in blocks of `b`: its packets wait for their presentation, those of a tensor with the header as the sc of issue finds
it and its poisoned word, if it has one (DESIGN CHOICE, assumption 100). -/
def addDo (s : State) (p : Nat) (q : QEntry) (b cnt : Nat) (l : Loc) (hdr : Nat := 0) (bad : Option Nat := none) : Loc :=
  let w := q.word
  let t := issueAt l 4
  let as := newAccs s p t q l ((packets (cmFmt w) b cnt).map fun x =>
    { Access.blank .addPacket with
        addr := cmAddr w, len := x.2, elem := x.1, local_ := cmLocal w, fmt := cmFmt w, final := bitOf w 118, hdr := hdr, hdrBad := bad })
  l.presents t q as 0

/-- CMOVE ADD (R255, R256). A tensor's header is read once, at issue, and its bytes pass their checks before their poison is looked at (DESIGN
CHOICE, assumptions 99 and 100). -/
def execCmoveAdd (p : Nat) (s : State) : Out :=
  issueS s p 4 (isOp 0x20 121 120 2) fun q l =>
    let w := q.word
    let n := cmLen w
    if addBad w then closePos s p (l.reject 4 0xA20 0 0 q)
    else match addEvent s p (cmAddr w) with
      | some code => closePos s p (l.carderReject s p code (cmAddr w) q)
      | none =>
        if cmFmt w ≤ 1 then closePos s p (addDo s p q n n l)
        else
          let l := l.scrub (cmLocal w) 64
          let h := readHeader l (cmLocal w)
          match addFault (lnum s p) h w with
          | some b => closePos s p (l.reject 4 0x111 h.tid b q)
          | none => closePos s p (addDo s p q h.b (n * h.b) l h.raw (l.poisonIn (cmLocal w) 64))

/-- An add packet filled from the distaff: values with their poisoned elements and those widened beyond the binary32 range, and its bytes
for a port (R104, R256, R297). A poisoned header poisons every element (DESIGN CHOICE, assumption 100). -/
def fillPacket (s : State) (p : Nat) (a : Access) (l : Loc) : Loc × Access :=
  let es := (List.range a.len).map (a.elem + ·)
  if a.fmt ≤ 1 then
    let z := if a.fmt = 0 then 4 else 2
    let o := a.local_ + a.elem * z
    let l := l.scrub o (a.len * z)
    (l, { a with vals := readVals l (a.fmt == 1) o a.len, data := l.rd o (a.len * z),
                 poison := (List.range a.len).filter fun i => (l.poisonIn (o + i * z) z).isSome })
  else
    let h := headerOf a.hdr
    let l := l.reading (tensorRanges s p h a.elem a.len)
    let w := fmtBits a.fmt
    let blk := a.elem / h.b
    let slots := l.rd (toLocal s p (h.side + blk * h.oslot * 4)) (h.oslot * 4)
    let blkData := leBytes (cdiv (a.len * w) 8) (packCodes w (es.map (elemCode s p l h))) ++ [BitVec.ofNat 8 (scaleByte s p l h blk)] ++ slots
    let bad := (List.range a.len).filter fun i => a.hdrBad.isSome || (l.anyPoison (tensorRanges s p h (a.elem + i) 1)).isSome
    let wide := (List.range a.len).filter fun i => widenOver s p l h (a.elem + i)
    (l, { a with vals := es.map (widenElem s p l h), wide := wide, blen := h.blen, oslot := h.oslot, tscale := h.t, data := blkData, poison := bad })

/-! Presentation -/

/-- An access of an instruction has been presented in sc t: the next follows `gap` sc later at the earliest; the instruction occupies the
issue to there, and a PUT or ADD completes in the sc after its last (R256). -/
def presented (l : Loc) (inst t : Nat) (gap : Nat := 1) : Loc :=
  let l := (l.card fun c => { c with
      present := (match c.present with | b :: rest => { b with at_ := max b.at_ (t + gap) } :: rest | [] => []),
      jobs := c.jobs.map fun j => if j.inst = inst then { j with toPresent := j.toPresent - 1 } else j }).strm 4
    fun q => { q with free := max q.free (t + 1) }
  match l.sp.carder.jobs.find? (·.inst == inst) with
  | some j => if j.toPresent = 0 ∧ j.toArrive = 0 ∧ !j.hold then l.endJob inst (t + 1) else l
  | none => l

/-- The transaction type of an access at a port (Table 11.3). -/
def plyType : AccKind → Nat
  | .putLine => 1 | .getLine => 2 | .addPacket => 4 | .cfe => 5

/-- A line of which a PUT writes a part: 64 bytes, as a frame carries it (R297). -/
def wholeLine (a : Access) : List Byte :=
  (List.range (a.addr % 64)).map Config.framePad ++ a.data ++
    (List.range (64 - a.addr % 64 - a.data.length)).map fun i => Config.framePad (a.addr % 64 + a.data.length + i)

/-- Items for a port: one that is not up discards them (R310). -/
def toPort (s : State) (q : Nat) (its : List PlyItem) : State :=
  modPort s q fun x => if x.state = 2 then { x with items := x.items ++ its } else x

/-- An item for a port. -/
def plyItem (a : Access) (addr at_ : Nat) : PlyItem :=
  let b := if a.fmt ≤ 1 then a.elem + a.len else 16 * 2 ^ a.blen
  { PlyItem.blank (plyType a.kind) with
      src := a.src, tag := a.tag, addr := if a.kind = .getLine then addr / 64 * 64 else addr, final := a.final, blen := a.blen, oslot := a.oslot,
      fmt := match a.cfe with | some c => c.op | none => a.fmt,
      flag := match a.cfe with | some c => c.op == 3 && c.state | none => a.kind == .addPacket && a.elem % b != 0 && decide (2 ≤ a.fmt),
      aux := match a.cfe with | some c => c.timeout | none => if a.kind = .addPacket then a.tscale.toNat else 0,
      data := if a.kind = .putLine then wholeLine a else a.data, at_ := at_, accs := [a] }

/-- The flits of an access that position p presents in sc t (R331, R341): the request or line, and the reply or acknowledgement, which a
target at leisure sends 5 or 4 sc after the arrival; a line of HBM takes its lanes. -/
def flitsFor (s : State) (p t : Nat) (a : Access) : List Flit :=
  match whereIs a.addr with
  | .distaff n _ =>
    let q := posOf s n
    let work := match a.kind, a.cfe with | .getLine, _ => 5 | .cfe, some c => if c.op = 1 ∨ c.op = 2 then 5 else 4 | _, _ => 4
    let back := cdiv ((arriveRef s p q t (routeLat p q) + work) * (pwAt s p).goal) (pwAt s q).goal
    [flitOn s a false q (arriveRef s p q t 0) (route p q), flitOn s a true p back (route q p)]
  | .partner q _ => [flitOn s a false (portPos q) (arriveRef s p (portPos q) t 0) (route p (portPos q))]
  | .hbm off =>
    let i := off / 192000000000
    if a.kind = .getLine then [flitOn s a true p (sinceBell s p t + 24 * bridges p (156 * i) + 240) (laneSteps i (spireOf p))]
    else [flitOn s a false p (sinceBell s p t) (laneSteps (spireOf p) i)]
  | _ => []

/-- The access goes where its address lies (R281, R300, R331, R340). -/
def sendAcc (s : State) (p t : Nat) (a : Access) : State :=
  match whereIs a.addr with
  | .distaff n _ =>
    let q := posOf s n
    let lat := routeLat p q
    { s with fabric := { s.fabric with net := s.fabric.net ++ [{ a with lat := lat, at_ := if q = p then (if a.kind = .putLine then t + 5 else t) else 56 * arriveRef s p q t lat, sentAt := portTime s p t 0 }] } }
  | .hbm _ => hbmLine s p t a
  | .partner q a' => toPort s q [{ plyItem { a with at_ := t } a' (portTime s p t (edgeLat p q)) with pres := portTime s p t 0 }]
  | _ => s

/-- The first sc from t on in which fewer than eight of the final-flag writes that a carder has sent have not landed; none while that is not
known (R264). -/
def finalRoom (ws : List Sent) (t : Nat) : Option Nat :=
  let fs := ws.filter (·.final)
  let few (u : Nat) : Bool := decide ((fs.filter (Sent.onWay u)).length < 8)
  if few t then some t else (pluckMin (fun u => few u && decide (t < u)) id (fs.filterMap (·.landAt))).map (·.1)

/-- The sc in which a carder presents its first access, when nothing else holds it (R256, R264). -/
def presentAt (s : State) (p : Nat) (a : Access) : Nat :=
  let t := max a.at_ (spAt s p).clock.lc
  if a.final then (finalRoom (spAt s p).carder.sent t).getD t else t

/-- An access cannot be presented now: a carder has eight final-flag writes that have not landed, or 64 lines that are not granted (R264,
R341). -/
def presentWaits (s : State) (p : Nat) (a : Access) : Bool :=
  (a.final && (finalRoom (spAt s p).carder.sent (max a.at_ (spAt s p).clock.lc)).isNone) || (isHbm a.addr && decide (64 ≤ ungranted s p) && (!a.loft || loftMiss (openPos s p) a))

/-- A carder of a lower logical number presents an access in the same sc: that one is considered first (R331). -/
def lowerFirst (s : State) (p t : Nat) : Bool :=
  let now := portTime s p t 0
  (List.range (lnum s p)).any fun n =>
    let q := posOf s n
    match (spAt s q).carder.present with
    | b :: _ => decide (portTime s q (presentAt s q b) 0 = now) && !presentWaits s q b
    | [] => false

/-- An instruction ends at the presentation of one of its accesses, with an event. -/
def dropInst (inst : Nat) (l : Loc) : Loc :=
  (l.card fun c => { c with present := c.present.filter (·.inst != inst), jobs := c.jobs.filter (·.inst != inst) }).kill 4

/-- An access that the mesh does not admit is held back, and presented again in the next sc (R331). -/
def holdBack (t : Nat) (a : Access) (rest : List Access) (l : Loc) : Loc :=
  (l.card fun c => { c with present := { a with at_ := t + 1 } :: rest }).count fun c => { c with meshHold := sat32 c.meshHold 1 }

/-- The device address of the first poisoned word that an access holds as its carder has read it (R473, R519). -/
def poisonWord (s : State) (p : Nat) (a : Access) (l : Loc) : Nat :=
  let i := a.poison.headD 0
  let o := match a.kind with
    | .addPacket =>
      let z := if a.fmt = 0 then 4 else 2
      if a.fmt ≤ 1 then l.poisonIn (a.local_ + (a.elem + i) * z) z
      else a.hdrBad <|> l.anyPoison (tensorRanges s p (headerOf a.hdr) (a.elem + i) 1)
    | _ => l.poisonIn (a.local_ + 4 * i) 4
  ownAddr s p (o.getD (a.local_ / 8 * 8))

/-- An access is admitted in sc t: a PUT line and an add packet read the distaff, a write counts as sent (R256, R260, R331). -/
def admitDo (s : State) (p t : Nat) (a : Access) (l : Loc) : State :=
  let x := match a.kind with
    | .putLine => l.fetchPut a
    | .addPacket => fillPacket s p a l
    | _ => (l, a)
  let partner := match whereIs a.addr with | .partner _ _ => true | _ => false
  if partner && !x.2.poison.isEmpty then
    closePos s p ((dropInst a.inst x.1).raise (evW 0x302 4 a.woff 4 (poisonWord s p x.2 x.1)))
  else
    let l := match writtenBytes x.2 with
      | some (b, n) => (x.1.sends x.2).loftWrite b n
      | none => x.1
    let gap := if isOwn s p a.addr && a.kind == .putLine then 0 else 1
    sendAcc (addFlits (closePos s p (presented l a.inst t gap)) (flitsFor s p t a)) p t x.2

/-- DESIGN CHOICE (assumption 81): a loft miss that the mesh holds back allocates its way when it is admitted. What the carder's first waiting
access does when it is presented in sc t: a loft hit, a line without a slot (R341), a hold, or its
admission. -/
def presentDo (s : State) (p t : Nat) (a : Access) (rest : List Access) (l : Loc) : State :=
  let out := l.card fun c => { c with present := rest }
  if a.loft && !loftMiss l a then
    let x := loftHit p t a out
    let s := closePos s p (presented x.1 a.inst t)
    { s with fabric := { s.fabric with replies := s.fabric.replies ++ x.2 } }
  else if isHbm a.addr && slotsFor s ((jobAt s p).getD 8) (hbmOff a.addr) == 0 then
    closePos s p ((dropInst a.inst l).raise (evW 0x312 4 a.woff (stackOf (hbmOff a.addr) + put (chanOf (hbmOff a.addr)) 3) a.addr))
  else if !(flitsFor s p t a).all (fits s.fabric.flits) then closePos s p (holdBack t a rest l)
  else admitDo s p t a (if a.loft then loftAlloc a out else out)

/-- MESH_ADMISSION: the carder's first access not yet presented is presented (R256, R264, R331, R341). -/
def execMeshAdmission (p : Nat) (s : State) : Out :=
  onPosS s p fun l =>
    match l.sp.carder.present with
    | [] => s
    | a :: rest =>
      let t := presentAt s p a
      let s := settleBy s (portTime s p t 0)
      if !live s p || !clockKnown s p t || presentWaits s p a || lowerFirst s p t then s else presentDo s p t a rest (l.at_ t)

/-! Arrivals -/

/-- One of what an instruction waits for is in its place in sc t: with the last of them it is complete (R256). -/
def Loc.arrived (l : Loc) (inst t : Nat) : Loc :=
  let l := l.card fun c => { c with jobs := c.jobs.map fun j => if j.inst = inst then { j with toArrive := j.toArrive - 1 } else j }
  match l.sp.carder.jobs.find? (·.inst == inst) with
  | some j => if j.toPresent = 0 ∧ j.toArrive = 0 then l.endJob inst t else l
  | none => l

/-- A GET line's data arrive in sc t: they fill the way that waits for them and serve the hits on it, and the access's part of them is
written, visible 4 sc later (R58, R256). -/
def getDeliver (s : State) (p t : Nat) (a : Access) (data : List Byte) (poison : List Nat) (l : Loc) : State :=
  if !live s p then s else
  let mine := if a.loft then lineCut a data poison else (data, poison)
  let fill (x : LoftLine) := if x.tag = a.tag && !x.filled then { x with filled := true, data := data, poison := poison } else x
  let waits := if a.loft then l.sp.carder.loftWaits.filter (·.tag == a.tag) else []
  let reps := waits.map fun w => loftReply p (t + 4) w.acc data poison
  let l := if a.loft then l.card fun c => { c with loft := c.loft.map fill, loftWaits := c.loftWaits.filter (·.tag != a.tag) } else l
  let l := (l.at_ t).seenAt (t + 4) (·.wrG a.local_ mine.1 mine.2)
  let s := closePos s p (l.arrived a.inst (t + 4))
  { s with fabric := { s.fabric with replies := s.fabric.replies ++ reps } }

/-- The sc of its position in which a reply arrives. -/
def replyAt (s : State) (r : Reply) : Nat := if r.near then r.at_ else dueAt s r.dst r.at_

/-- The time at which a reply arrives. -/
def replyTick (s : State) (r : Reply) : Nat :=
  if r.near then portTime s r.dst r.at_ 0 else tickOf s r.dst (r.at_ - frac56 s r.dst)

/-- The earliest reply to position p that `f` selects. -/
def firstReply (s : State) (p : Nat) (f : Reply → Bool) : Option (Reply × List Reply) :=
  pluckMin (fun r => r.dst == p && f r) (replyAt s) s.fabric.replies

/-- The earliest reply to position p that `f` selects, with the sc of its arrival, once the late flits before it have entered; its flit is at
its end. One whose delay is not yet counted is not there. -/
def takeReply (s : State) (p : Nat) (f : Reply → Bool) : Option (Reply × Nat × State) :=
  let s := match firstReply s p f with | some r => settleBy s (replyTick s r.1) | none => s
  match firstReply s p f with
  | some r =>
    if r.1.near || arrivalKnown s r.1.acc true p (replyTick s r.1) then
      some (r.1, replyAt s r.1, dropFlit { s with fabric := { s.fabric with replies := r.2 } } r.1.acc true)
    else none
  | none => none

/-- GET_LINE_ARRIVAL. -/
def execGetLineArrival (p : Nat) (s : State) : Out :=
  onPosS s p fun l =>
    match takeReply s p (fun r => r.acc.kind == .getLine) with
    | none => s
    | some (r, t, s) => getDeliver s p t r.acc r.data r.poison l

/-- WRITE_ACK_ARRIVAL: the write is no longer waited for by a release (R260). -/
def execWriteAckArrival (p : Nat) (s : State) : Out :=
  onPosS s p fun l =>
    match takeReply s p (fun r => r.ack && r.acc.kind != .cfe) with
    | none => s
    | some (r, t, s) => closePos s p ((l.card fun c => { c with sent := c.sent.filter (·.tag != r.acc.tag) }).at_ t)

/-- A write lands in sc t of its sender (R264). -/
def sentLanded (tag t : Nat) (c : Carder) : Carder :=
  { c with sent := c.sent.map fun x => if x.tag = tag then { x with landAt := some t } else x }

/-- An answer to an access leaves position q in its sc t and arrives at its sender, or at its port, `extra` sc after its route (R260, R332);
`mesh` tells that it crosses the mesh. -/
def answer (s : State) (q t extra : Nat) (mesh : Bool) (a : Access) (r : Reply) (it : PlyItem) : State :=
  match a.via with
  | none =>
    let p := posOf s a.src
    let s := if mesh then sendBack s a q p t else s
    let near := q == p && mesh
    let r := { r with dst := p, near := near,
                      acc := { r.acc with waits := [], spans := r.acc.spans ++ r.acc.waits.map (fun w => (w.1, w.2.1)), sentAt := portTime s q t 0 },
                      at_ := if near then t else
                        56 * arriveRef s q p t ((if mesh then routeLat q p else 0) + extra) + owedBy a * (pwAt s p).goal / 1000 }
    { s with fabric := { s.fabric with replies := s.fabric.replies ++ [r] } }
  | some port =>
    let s := if mesh then sendBack s a q (portPos port) t else s
    toPort s port
      [{ it with src := a.src, tag := a.tag, addr := a.local_, at_ := portTime s q t ((if mesh then routeLat q (portPos port) else 0) + 6 + extra) }]

/-- A write of `a` lands at position q in its sc t: the sender's record and its acknowledgement, which for an HBM line crosses `b` bridges
(R260, R300). -/
def landed (s : State) (q t b : Nat) (a : Access) : State :=
  let mesh := !isHbm a.addr
  let s := noteLanding s q t a
  let s := if a.via.isNone then
      let p := posOf s a.src
      let s := modSp s p fun sp => { sp with carder := sentLanded a.tag (arriveAt s q p t 0) sp.carder }
      if p = q && a.final && a.kind == .putLine then runPos s p (·.arrived a.inst t) else s
    else s
  -- one ACK for each transaction of a partner, once all of it has landed
  let same (b : Access) := b.via == a.via && b.src == a.src && b.tag == a.tag
  if a.via.isSome && (s.fabric.net.any same || s.hbm.waiting.any (fun x => same x.acc) || s.hbm.granted.any (fun x => same x.acc)
      || s.spindles.any (fun sp => sp.reeler.queue.any same || sp.reeler.held.any same)) then s
  else answer s q t (24 * b) mesh a
    { dst := 0, at_ := 0, near := false, acc := a, data := [], poison := [], timeout := false, ack := true } (PlyItem.blank 7)

end Sys2Proof.Machine
end

