-- ==== Sys2Proof/Machine/Hbm.lean ====
section
/-!
DEFINITION. The HBM (R336 to R346): CHBM, the slot timetable and its credits, grants, the arrival and landing of lines, the
line code, and patrol scrub. Scrub of the distaff stands beside it (R472).
-/
namespace Sys2Proof.Machine

/-! CHBM (Tables 13.4, 13.5) -/

structure ChbmRec where
  raw : Nat
  hadr : Nat
  madr : Nat
  loc : Nat
  rows : Nat
  rlines : Nat
  hpitch : Nat
  lpitch : Nat
deriving DecidableEq, Repr

def chbmRec (r : Nat) : ChbmRec :=
  { raw := r, hadr := fldN r 63 0, madr := fldN r 127 64, loc := fldN r 159 128, rows := fldN r 175 160, rlines := fldN r 191 176,
    hpitch := fldN r 223 192, lpitch := fldN r 255 224 }

/-- Bytes from the first to the last of a set of rows. -/
def ChbmRec.span (r : ChbmRec) (pitch : Nat) : Nat := (r.rows - 1) * pitch + r.rlines * 64

/-- A range lies in the HBM region. -/
def inHbm (a n : Nat) : Bool := decide (hbmBase ≤ a) && decide (a + n ≤ hbmBase + hbmSize)

/-- The record's fields are legal for operation `op` (R346). -/
def ChbmRec.ok (r : ChbmRec) (op : Nat) : Bool :=
  r.hadr % 64 == 0 && r.madr % 64 == 0 && (op == 2 || r.madr == 0) && r.loc % 64 == 0 && r.rows != 0 && r.rlines != 0
    && r.hpitch % 64 == 0 && r.lpitch % 64 == 0 && decide (r.rlines * 64 ≤ r.hpitch) && decide (r.rlines * 64 ≤ r.lpitch)
    && inDist r.loc (r.span r.lpitch) && !(op == 2 && overlaps r.hadr (r.span r.hpitch) r.madr (r.span r.hpitch))

/-- The lines of a CHBM in presentation order: HBM address and local offset. -/
def ChbmRec.lines (r : ChbmRec) (op : Nat) : List (Nat × Nat) :=
  (List.range (r.rows * r.rlines)).flatMap fun i =>
    let row := i / r.rlines
    let k := i % r.rlines
    let l := r.loc + row * r.lpitch + 64 * k
    let h := row * r.hpitch + 64 * k
    if op = 2 then [(r.hadr + h, l), (r.madr + h, l)] else [(r.hadr + h, l)]

/-- Offset of the record of a CHBM, and the final flag. -/
def chPar (w : KWord) : Nat := fld w 63 32

/-- The fields of a CHBM word break a limit (Table 13.4). -/
def chbmBad (op : Nat) (w : KWord) : Bool :=
  !reservedClear w [(127, 119), (63, 32)] || (op == 0 && bitOf w 119) || chPar w % 32 != 0 || !inDist (chPar w) 32

/-- The HBM address of a CHBM that lies outside the HBM (R346). -/
def ChbmRec.outside (r : ChbmRec) (op : Nat) : Option Nat :=
  if !inHbm r.hadr (r.span r.hpitch) then some r.hadr
  else if op == 2 && !inHbm r.madr (r.span r.hpitch) then some r.madr
  else none

/-- A CHBM issues: its lines wait for their presentation, one to an sc (R346). -/
def chbmDo (s : State) (p op : Nat) (q : QEntry) (r : ChbmRec) (l : Loc) : State :=
  let t := issueAt l 4
  let as := newAccs s p t q l ((r.lines op).map fun x =>
    { Access.blank (if op = 0 then .getLine else .putLine) with addr := x.1, len := 64, local_ := x.2, final := bitOf q.word 119 })
  closePos s p (l.presents t q as (if op = 0 then as.length else 0))

/-- CHBM with operation `op`. -/
def chbm (p op : Nat) (s : State) : Out :=
  issueS s p 4 (isOp 0x21 121 120 op) fun q l =>
    let w := q.word
    if chbmBad op w then closePos s p (l.reject 4 0xA20 0 0 q) else
    let l := l.scrub (chPar w) 32
    match l.poisonIn (chPar w) 32 with
    | some off => closePos s p ((l.pop 4 (issueAt l 4) 1 (issueAt l 4)).consume s p 4 q off)
    | none =>
      let r := chbmRec (l.rdN (chPar w) 32)
      if !r.ok op then closePos s p (l.reject 4 0xA20 0 0 q)
      else match r.outside op with
        | some a => closePos s p (l.reject 4 0x301 0 a q)
        | none => chbmDo s p op q r l

/-- CHBM LOAD. -/
def execChbmLoad (p : Nat) (s : State) : Out := chbm p 0 s
/-- CHBM STORE. -/
def execChbmStore (p : Nat) (s : State) : Out := chbm p 1 s
/-- CHBM STORE2. -/
def execChbmStore2 (p : Nat) (s : State) : Out := chbm p 2 s

/-! The timetable (R338, R340) -/

/-- The key of a job's credits in a channel. -/
def creditKey (j st ch : Nat) : Nat := (j * 8 + st) * 32 + ch

/-- Bits set among the 63 foreground slots. -/
def slotCount (m : Nat) : Nat := ((List.range 63).filter m.testBit).length

/-- The credits of a foreground cycle: each reserved slot of each running job's page in effect. -/
def cycleCredits (s : State) : List (Nat × Nat) :=
  (List.range 8).flatMap fun j =>
    if (jobOf s j).state = 2 then
      ((List.range 8).flatMap fun st => (List.range 32).map fun ch => (creditKey j st ch, slotCount (planSlots s j (jobOf s j).page st ch))).filter
        fun x => x.2 != 0
    else []

/-- Some engine of a running job has not finished its frame (R28). -/
def jobBusy (s : State) (j : Nat) : Bool :=
  (jobOf s j).state == 2 && !(jobOf s j).stop && !ckptHold s (jobOf s j) &&
    (jobSet s j).any fun n => let sp := spAt s (posOf s n); decide (sp.skipping ≤ 1) && sp.streams.any fun q => q.en && !q.finished

/-- Cycle c of the frame is a foreground cycle (R338). -/
def foreground (s : State) (c : Nat) : Bool :=
  decide (42 * c < workWin s + stretchWin s)
    || (elastic s && ((List.range 8).any (jobBusy s) || decide (s.bell.lastBell + 42 * c < s.bell.lastRet)))

/-- Cycle c begins. -/
def startCycle (c : Nat) (s : State) : State :=
  { s with hbm := { s.hbm with cycle := c, credits := if foreground s c then cycleCredits s else [] } }

/-- HBM_TIMETABLE_CYCLE. -/
def execHbmTimetableCycle (s : State) : Out :=
  if s.bell.fired && !s.bell.held && !s.hbm.selfRefresh && !s.power.off then
    let c := s.hbm.cycle + 1
    .next { startCycle c s with bell := { s.bell with refTime := max s.bell.refTime (s.bell.lastBell + 42 * c) } }
  else .next s

/-! Lines of the array and their code (R344) -/

/-- Bytes at an offset of the region. -/
def hbmRead (s : State) (off n : Nat) : List Byte := memRead s.hbm.mem off n

/-- Index of a line. -/
def hbmLineNo (off : Nat) : Nat := off / 64

/-- Bytes written within a line: a whole line loses poison and errors (R344). -/
def hbmWrite (s : State) (off : Nat) (bs : List Byte) (bad : Bool) : State :=
  let n := hbmLineNo off
  let whole := off % 64 == 0 && bs.length == 64
  { s with hbm := { s.hbm with mem := memWrite s.hbm.mem off bs,
                               poison := if bad then insNat n s.hbm.poison else if whole then delNat n s.hbm.poison else s.hbm.poison,
                               errs := if whole then delKey n s.hbm.errs else s.hbm.errs } }

/-- The 16-bit symbols of a line that a mask of bits in error touches (R344). -/
def symbolsOf (m : Nat) : Nat := ((List.range 36).filter fun i => fldN m (16 * i + 15) (16 * i) != 0).length

/-- The symbols in error that a read of a line finds; two for a line stored with the poison syndrome. -/
def hbmErrs (s : State) (off : Nat) : Nat :=
  if s.hbm.poison.contains (hbmLineNo off) then 2 else symbolsOf ((getKey (hbmLineNo off) s.hbm.errs).getD 0)

/-- What a read of a line with `e` symbols in error counts and raises (R344): `who` is the position that reads for a job. -/
def hbmCode (s : State) (off e : Nat) (who : Option Nat) : State :=
  let st := stackOf off
  if e = 0 then s
  else if e = 1 then
    let s1 := { s with hbm := { s.hbm with corr := modAt s.hbm.corr st (sat32 · 1) } }
    if s.hbm.corrSeen.contains st then s1
    else raiseDev { s1 with hbm := { s1.hbm with corrSeen := insNat st s1.hbm.corrSeen } } (ev 0x310 st 0)
  else
    let s1 := { s with hbm := { s.hbm with uncorr := modAt s.hbm.uncorr st (sat32 · 1) } }
    let e := ev 0x311 (st + put (chanOf off) 3) (hbmBase + off)
    match who with
    | some p => raiseAt s1 p e
    | none => raiseDev s1 e

/-! Grants -/

/-- Bridges between a position and a stack. -/
def stackBridges (p st : Nat) : Nat := bridges p (st / 2 * 156)

/-- A write that its final-flag attribute still holds (R264). -/
def heldFinal (s : State) (x : HbmAcc) : Bool := x.write && x.acc.final && earlierPending s x.acc

/-- The first sc of position p in the cycle in progress. -/
def cycleSc (s : State) (p : Nat) : Nat := localAt s p (42 * s.hbm.cycle * (pwAt s p).goal)

/-- The sc of its position in which a line reaches its grant point. -/
def reachAt (x : HbmAcc) : Nat := x.at_ + 24 * stackBridges x.pos (stackOf x.off)

/-- The sc of its position in which a line may be granted in the cycle in progress: when it reaches the grant point, or the cycle's first sc
(R340). -/
def grantAt (s : State) (x : HbmAcc) : Nat := max (reachAt x) (cycleSc s x.pos)

/-- The rank of a line of logical number n at its grant point: by the sc in which it may be granted; then, of lines that wait for a credit, the
one that came first (DESIGN CHOICE, assumption 95); of those that came together a mover's, then the lowest number (R340). -/
def grantKey (s : State) (p reach grant n : Nat) (mover : Bool) : Nat :=
  ((portTime s p grant 0 * 2 ^ 64 + portTime s p reach 0) * 2 + b2n (!mover)) * 1024 + n % 1024

/-- The rank of a carder's line. -/
def lineKey (s : State) (x : HbmAcc) : Nat := grantKey s x.pos (reachAt x) (grantAt s x) x.acc.src false

/-- A waiting line of a channel whose job has a credit there. -/
def creditFor (s : State) (st ch : Nat) (x : HbmAcc) : Bool :=
  stackOf x.off == st && chanOf x.off == ch && decide ((getKey (creditKey x.job st ch) s.hbm.credits).getD 0 > 0)

/-- The line that a channel grants next: the first by rank, then in presentation order (R340). -/
def nextGrant (s : State) (st ch : Nat) : Option HbmAcc := (pluckMin (creditFor s st ch) (lineKey s) s.hbm.waiting).map (·.1)

/-- The late flits before the next grant of a channel have been presented (R332). -/
def grantsBy (s : State) (st ch : Nat) : State :=
  match nextGrant s st ch with | some x => settleBy s (portTime s x.pos (grantAt s x) 0) | none => s

/-- A grant in sc g lets the carder present the line that its 64 lines had held back since its sc (R341). -/
def freePresent (p g : Nat) (s : State) : State :=
  runPos s p fun l =>
    match l.sp.carder.present with
    | a :: rest =>
      if isHbm a.addr && decide (a.at_ < g) then
        (l.card fun c => { c with present := { a with at_ := g } :: rest }).count fun c => { c with hbmHold := sat32 c.hbmHold (g - a.at_) }
      else l
    | [] => l

/-- A line is granted in sc g of its position: its data are read, or its landing is set (R340, R344). -/
def grantLine (s : State) (st ch g : Nat) (x : HbmAcc) : State :=
  let b := stackBridges x.pos st
  let k := creditKey x.job st ch
  let whole := x.acc.loft && !x.write
  let off := if whole then x.off / 64 * 64 else x.off
  let y := if x.write then { x with at_ := g + 232 + 24 * b }
    else { x with data := hbmRead s off (if whole then 64 else x.acc.len), errs := hbmErrs s off, at_ := g + 240 + 24 * b }
  let same (z : HbmAcc) := z.pos == x.pos && z.acc.tag == x.acc.tag && z.acc.via == x.acc.via && z.off == x.off
  let full := x.acc.via.isNone && decide (64 ≤ ungranted s x.pos)
  let s := { s with hbm := { s.hbm with waiting := match pluck same s.hbm.waiting with | some r => r.2 | none => s.hbm.waiting,
                                        granted := s.hbm.granted ++ [y],
                                        credits := insKey k ((getKey k s.hbm.credits).getD 0 - 1) s.hbm.credits } }
  payLines (if full then freePresent x.pos g s else s) x.job 1

/-- The earliest granted line of a position that `f` selects. -/
def takeGranted (s : State) (p : Nat) (f : HbmAcc → Bool) : Option (HbmAcc × State) :=
  (pluckMin (fun x => x.pos == p && f x) (·.at_) s.hbm.granted).map fun r => (r.1, { s with hbm := { s.hbm with granted := r.2 } })

/-- A line read for a partner is back at its port's attachment position in sc t (R300). -/
def replyPort (s : State) (q t : Nat) (a : Access) (data : List Byte) (bad : Bool) : State :=
  toPort s q
    [{ PlyItem.blank 3 with src := a.src, tag := a.tag, addr := a.local_, data := data, poison := bad,
                            at_ := portTime s (portPos q) t 6, accs := [a], bad := a.addr / 8 * 8 }]

/-- A hank refill's line reaches the region, visible 4 sc later (R208, R344). -/
def moverData (s : State) (p : Nat) (x : HbmAcc) : State :=
  if !live s p then s else
  runPos (hbmCode s x.off x.errs (some p)) p fun l =>
    (l.at_ x.at_).seenAt (x.at_ + 4) (·.wrG x.acc.local_ x.data (if x.errs ≥ 2 then List.range 16 else []))

/-- HBM_DATA_ARRIVAL (R340, R344). -/
def execHbmDataArrival (p : Nat) (s : State) : Out :=
  onPosS s p fun _ =>
    match takeGranted s p (fun x => !x.write) with
    | none => s
    | some (x, s) =>
      if x.mover then moverData s p x else
      let s := dropFlit s x.acc true
      let bad := decide (x.errs ≥ 2)
      match x.acc.via with
      | some q => replyPort (hbmCode s x.off x.errs none) q x.at_ x.acc x.data bad
      | none =>
        let s := hbmCode s x.off x.errs (some p)
        getDeliver s p x.at_ x.acc x.data (if bad then List.range (cdiv x.data.length 4) else []) (openPos s p)

/-- The job that a granted line is of: its carder's, or the owner of the port that it came through. -/
def lineJob (s : State) (x : HbmAcc) : Option Nat :=
  match x.acc.via with | some q => portOwner s q | none => jobAt s x.pos

/-- HBM_WRITE_COMMIT (R253, R264, R340). -/
def execHbmWriteCommit (p : Nat) (s : State) : Out :=
  onPosS s p fun _ =>
    match takeGranted s p (fun x => x.write && !heldFinal s x) with
    | none => s
    | some (x, s) =>
      let s := shotWrite s (lineJob s x) (hbmBase + x.off) x.data
      if x.mover then runPos (hbmWrite s x.off x.data x.poison) p (·.at_ x.at_) else
      let t := if x.acc.final then max x.at_ (afterEarlier s p x.acc) else x.at_
      landed (hbmWrite (dropFlit s x.acc false) x.off x.data x.poison) p t (stackBridges p (stackOf x.off)) x.acc

/-! Scrub (R345, R472) -/

/-- Offset of line k of a stack in address order. -/
def stackLine (st k : Nat) : Nat := st / 2 * 192000000000 + (2 * k + st % 2) * 64

/-- Lines of a stack. -/
def stackLines : Nat := 1500000000

/-- Background lines counted (Table 13.10). -/
def bgLines (s : State) (st n : Nat) : State := { s with hbm := { s.hbm with bg := modAt s.hbm.bg st (sat32 · n) } }

/-- The line that a read of the scrub found in error is written back, corrected or with the poison syndrome, unless a write has replaced it. -/
def scrubBack (s : State) (st off : Nat) : State :=
  let n := hbmLineNo off
  let e := hbmErrs s off
  let s := payLines (bgLines s st 1) 8 1
  { s with hbm := { s.hbm with back := modAt s.hbm.back st fun _ => none,
                               errs := if e = 0 then s.hbm.errs else delKey n s.hbm.errs,
                               poison := if e ≥ 2 then insNat n s.hbm.poison else s.hbm.poison } }

/-- The next line of a stack is read. -/
def scrubRead (s : State) (st : Nat) : State :=
  let k := s.hbm.scrub.getD st 0
  let off := stackLine st k
  let e := hbmErrs s off
  let s := hbmCode (payLines (bgLines s st 1) 8 1) off e none
  let wrap := k + 1 == stackLines
  { s with hbm := { s.hbm with back := modAt s.hbm.back st fun _ => if e = 0 then none else some off,
                               scrub := modAt s.hbm.scrub st fun _ => if wrap then 0 else k + 1,
                               passes := if wrap then modAt s.hbm.passes st fun x => (x + 1) % 2 ^ 24 else s.hbm.passes } }

/-- PATROL_SCRUB: a background slot of a stack writes back what the last read found in error, or reads the next line (R345). -/
def execPatrolScrub (st : Nat) (s : State) : Out :=
  onUnit "stack" 8 st <|
    if s.hbm.selfRefresh || s.power.off then s else
    match s.hbm.back.getD st none with
    | some off => scrubBack s st off
    | none => scrubRead s st

/-- DISTAFF_SCRUB: one line of a distaff is read in the background. -/
def execDistaffScrub (p : Nat) (s : State) : Out :=
  onPos s p fun l =>
    let k := l.sp.distaff.scrub
    if !live s p then l else (l.scrub (64 * k) 64).dist fun d => { d with scrub := if k + 1 = distSize / 64 then 0 else k + 1 }

end Sys2Proof.Machine
end

