-- ==== Sys2Proof/Machine/Reeler.lean ====
section
/-!
DEFINITION. Full/empty operations and the reeler (R266 to R271, R278 to R287): CFE at its issuer, the arrival queue, armed
buffers, the holding reeler with its wait table, and the replies.
-/
namespace Sys2Proof.Machine

/-! CFE at the issuer (Table 10.2, R280, R281) -/

def cfRel (w : KWord) : Nat := fld w 118 116
def cfAcq (w : KWord) : Nat := fld w 115 113
def cfLword (w : KWord) : Nat := fld w 107 86
def cfTimeout (w : KWord) : Nat := fld w 85 54
def cfTarget (w : KWord) : Nat := 8 * fld w 53 0

/-- The event that a CFE's target raises (R280, R304). -/
def cfeEvent (s : State) (p a : Nat) : Option Nat :=
  match whereIs a with
  | .distaff n _ => if ownsWindow s p n then none else some 0x305
  | .hbm _ => some 0xA20
  | .host _ => some 0xA20
  | .partner q a' =>
    match whereIs a' with
    | .distaff _ _ => if portReady s p q then none else some 0x409
    | .hbm _ => some 0xA20
    | _ => some 0x301
  | _ => some 0x301

/-- A CFE breaks a limit (Table 10.2, R280). -/
def cfeBad (op : Nat) (w : KWord) : Bool :=
  !reservedClear w [(127, 111), (107, 0)] || decide (cfRel w ≥ 6) || decide (cfAcq w ≥ 6) || cfTimeout w == 0
    || ((op == 1 || op == 2) && bitOf w 112) || (op != 3 && bitOf w 111) || !inDist (8 * cfLword w) 8

/-- The release of a CFE is met: its writes are acknowledged (R260), and those of the reeler have landed by its sc of issue (Table 9.4). -/
def cfeFree (s : State) (p : Nat) (w : KWord) (sp : Spindle) : Bool := decide (6 ≤ cfRel w) || releaseMet s p (cfRel w) sp

/-- A CFE issues: a writing one reads its word, and the operation waits for its presentation. -/
def cfeDo (s : State) (p op : Nat) (q : QEntry) (l : Loc) : Loc :=
  let w := q.word
  let lo := 8 * cfLword w
  let t := issueAt l 4
  let wr := op == 0 || op == 3
  let l := if wr then l.scrub lo 8 else l
  let a : Access := { Access.blank .cfe with
    src := lnum s p, inst := l.sp.carder.nextTag, tag := l.sp.carder.nextTag + 1, woff := q.woff, addr := cfTarget w, len := 8,
    local_ := lo, data := if wr then l.rd lo 8 else [], poison := if wr then l.granules lo 8 else [], final := bitOf w 112,
    cfe := some { op := op, state := if op = 0 then true else bitOf w 111, lword := cfLword w, timeout := cfTimeout w, acq := cfAcq w },
    at_ := if wr then t + 5 else t }
  ((l.pop 4 t 1 t).newJob q.woff 1 1 0 true).card fun c => { c with present := c.present ++ [a] }

/-- CFE with operation `op`: it issues, and raises what it raises, once its release is met (R280, R281). -/
def cfe (p op : Nat) (s : State) : Out :=
  issueS s p 4 (isOp 0x25 121 119 op) fun q l =>
    let w := q.word
    if !cfeFree s p w l.sp then s
    else if cfeBad op w then closePos s p (l.reject 4 0xA20 0 0 q)
    else match cfeEvent s p (cfTarget w) with
      | some code => closePos s p (l.carderReject s p code (cfTarget w) q)
      | none => closePos s p (cfeDo s p op q l)

/-- CFE FILL. -/
def execCfeFill (p : Nat) (s : State) : Out := cfe p 0 s
/-- CFE TAKE. -/
def execCfeTake (p : Nat) (s : State) : Out := cfe p 1 s
/-- CFE READF. -/
def execCfeReadf (p : Nat) (s : State) : Out := cfe p 2 s
/-- CFE SET. -/
def execCfeSet (p : Nat) (s : State) : Out := cfe p 3 s

/-! Buffers (Tables 9.6, 9.7) -/

/-- Bytes of a buffer element. -/
def bufBytes (acc : Nat) : Nat := match acc with | 0 => 4 | 1 => 2 | _ => 16
/-- Bytes of a buffer. -/
def Buffer.bytes (b : Buffer) : Nat := b.nel * bufBytes b.acc

/-- Buffer number and record offset of a RARM. -/
def raBuf (w : KWord) : Nat := fld w 121 118
def raPar (w : KWord) : Nat := fld w 63 32

/-- The fields of a RARM word break a limit (R267). -/
def rarmBad (w : KWord) : Bool := !reservedClear w [(127, 118), (63, 32)] || raPar w % 32 != 0 || !inDist (raPar w) 32

/-- The buffer that a record describes (Table 9.7). -/
def armRec (r : Nat) : Buffer := { base := fldN r 31 0, nel := fldN r 63 32, acc := fldN r 65 64, win := signedN 10 (fldN r 75 66) }

/-- A RARM's record breaks a limit: its fields, the buffer's number in use, another buffer or the hank (R267). -/
def armBad (l : Loc) (n r : Nat) : Bool :=
  let b := armRec r
  let h := l.sp.hank.record
  !reservedClearN 256 r [(76, 0)] || b.base % 64 != 0 || b.nel == 0 || b.acc == 3 || ((l.sp.reeler.buffers.getD n none).isSome)
    || (l.sp.reeler.buffers.any fun x => match x with | some c => overlaps b.base b.bytes c.base c.bytes | none => false)
    || overlaps b.base b.bytes h.base h.size || !inDist b.base b.bytes

/-- The buffer is armed; one that is cleared has its lines written 8 to an sc, each visible 4 sc later. -/
def armDo (n r : Nat) (l : Loc) : Loc :=
  let b := armRec r
  let t := issueAt l 5
  let clr := r.testBit 76
  let occ := if clr then cdiv (linesOf b.base b.bytes) 8 else 1
  let l := l.pop 5 t occ (if clr then t + occ - 1 + 4 else t + 2)
  let l := if clr then (segs b.base b.bytes).zipIdx.foldl (fun l x =>
      l.seenAt (t + x.2 / 8 + 4) (·.wr x.1.1 (List.replicate x.1.2 0#8))) l else l
  l.reel fun x => { x with buffers := modAt x.buffers n fun _ => some b }

/-- RARM (R267). -/
def execRarm (p : Nat) (s : State) : Out :=
  issue s p 5 (isCls 0x28) fun q l =>
    let w := q.word
    if rarmBad w then l.reject 5 0xA20 0 0 q else
    let l := l.scrub (raPar w) 32
    match l.poisonIn (raPar w) 32 with
    | some off => (l.pop 5 (issueAt l 5) 1 (issueAt l 5)).consume s p 5 q off
    | none =>
      let r := l.rdN (raPar w) 32
      if armBad l (raBuf w) r then l.reject 5 0xA20 0 0 q else armDo (raBuf w) r l

/-- An arrival is an entry for the buffer. -/
def forBuffer (b : Buffer) (a : Access) : Bool :=
  a.kind == .addPacket && decide (b.base ≤ a.addr % 0x0200_0000) && decide (a.addr % 0x0200_0000 < b.base + b.bytes)

/-- CONV, the element size of the result, and its offset. -/
def rcConv (w : KWord) : Bool := bitOf w 117
def rcSize (w : KWord) : Nat := if bitOf w 116 then 2 else 4
def rcDst (w : KWord) : Nat := fld w 63 32

/-- An RCLOSE of buffer b breaks a limit (R270). -/
def rcloseBad (w : KWord) (b : Buffer) : Bool :=
  !reservedClear w [(127, 116), (63, 32)] || rcDst w % rcSize w != 0
    || (rcDst w != b.base && overlaps (rcDst w) (b.nel * rcSize w) b.base b.bytes) || (rcConv w && !inDist (rcDst w) (b.nel * rcSize w))

/-- An RCLOSE waits: an entry for the buffer is in the arrival queue (R270). -/
def rcloseWaits (r : Reeler) (b : Buffer) : Bool := r.queue.any (forBuffer b)

/-- The sc in which an RCLOSE issues: once the reeler has done with an entry for the buffer that it works on. -/
def rcloseAt (b : Buffer) (l : Loc) : Nat :=
  let r := l.sp.reeler
  max (issueAt l 5) (if r.cur.any (fun o => decide (b.base ≤ o) && decide (o < b.base + b.bytes)) then r.free else 0)

/-- The buffer is closed; a conversion waits for the reeler's first free sc. -/
def rcloseDo (q : QEntry) (b : Buffer) (l : Loc) : Loc :=
  let t := rcloseAt b l
  (l.pop 5 t 1 (t + 1)).reel fun x =>
    { x with buffers := modAt x.buffers (fld q.word 121 118) fun _ => none,
             convs := x.convs ++ if rcConv q.word then [{ q := q, buf := b, at_ := t }] else [] }

/-- RCLOSE (R270). -/
def execRclose (p : Nat) (s : State) : Out :=
  issueW s p 5 (isCls 0x29) fun q l =>
    match l.sp.reeler.buffers.getD (fld q.word 121 118) none with
    | none => some (l.reject 5 0xA20 0 0 q)
    | some b =>
      if rcloseWaits l.sp.reeler b then none
      else if rcloseBad q.word b then
        let t := rcloseAt b l
        some (((l.pop 5 t 1 0).kill 5).raise { evW 0xA20 5 q.woff 0 0 with at_ := some t })
      else some (rcloseDo q b l)

/-- A word is poisoned once every write made so far is visible. -/
def Spindle.soonBad (p : Spindle) (w : Nat) : Bool :=
  p.pend.foldl (fun b e => (b && !wholeWord e.off e.data.length w) || e.poison.any (· / 8 == w)) (p.distaff.poison.contains w)

/-- The first word of a byte range that is poisoned once every write made so far is visible. -/
def Spindle.soonPoison (p : Spindle) (a n : Nat) : Option Nat :=
  if n = 0 then none else
  let r := wordsOf a n
  (((List.range (r.2 - r.1 + 1)).map (r.1 + ·)).find? p.soonBad).map (8 * ·)

/-- Element i of a buffer in memory m converted (R154, R270): its bytes and whether an X128 total converts to Inf or NaN. -/
def convElem (b : Buffer) (bf : Bool) (m : Mem) (i : Nat) : List Byte × Bool :=
  let a := b.base + i * bufBytes b.acc
  let v : Fv := match b.acc with
    | 0 => read32 (BitVec.ofNat 32 (memNat m a 4))
    | 1 => read16 (BitVec.ofNat 16 (memNat m a 2))
    | _ => x128Fv b.win (BitVec.ofNat 128 (memNat m a 16))
  let nf := if bf then (read16 (toB16 v)).isNonFinite else isNF (toF32 v)
  (if bf then leBytes 2 (toB16 v).toNat else leBytes 4 (toF32 v).toNat, b.acc == 2 && nf)

/-- What a conversion that starts in sc t writes, from the totals that every entry taken before it leaves (R268, R271): the elements of a line of the buffer, two lines to an sc, visible 4 sc later; their
non-finite results count with their writes, and the first raises E-0x120 (R154). -/
def convOut (c : Conv) (t : Nat) (l : Loc) : Loc :=
  let w := c.q.word
  let per := 64 / bufBytes c.buf.acc
  let cs := (List.range c.buf.nel).map (convElem c.buf (bitOf w 116) l.sp.soon)
  let fst := (cs.findIdx? (·.2)).map (· / per)
  (pieces per (cdiv c.buf.nel per) cs).zipIdx.foldl (fun l x =>
    l.seenAt (t + x.2 / 2 + 4) fun l =>
      let n := (x.1.filter (·.2)).length
      let l := l.wr (rcDst w + x.2 * per * rcSize w) (x.1.flatMap (·.1))
      if n = 0 then l else
        l.push { Pend.bytes (t + x.2 / 2) 0 [] [] with
          nf := true, sat := n, ev := if fst = some x.2 then some (evW 0x120 5 c.q.woff (16 + fld w 121 118) 0) else none }) l

/-- RCLOSE_CONVERT: the conversion of a closed buffer runs in the reeler's first free sc, ahead of all else (R270). -/
def execRcloseConvert (p : Nat) (s : State) : Out :=
  onPos s p fun l =>
    match l.sp.reeler.convs with
    | [] => l
    | c :: rest =>
      if !powered s p then l else
      let t := max c.at_ l.sp.reeler.free
      let n := c.buf.bytes
      let occ := cdiv (linesOf c.buf.base n) 2
      let l := (l.reel fun x => { x with convs := rest, free := t + occ, cur := none }).at_ t
      let l := (l.strm 5 fun x => { x with doneAt := max x.doneAt (t + occ - 1 + 4) }).scrub c.buf.base n
      match l.sp.soonPoison c.buf.base n with
      | some off => (l.kill 5).raise (evW 0x302 5 c.q.woff 6 (ownAddr s p off))
      | none => convOut c t l

/-! Arrival (R266, R403, R483) -/

/-- The source word of R519. -/
def sourceWord (a : Access) : Nat := a.src % 1024 + put (match a.via with | none => 0 | some q => q + 1) 10

/-- The device address of an arrival's first byte (R519): of an add packet, its first element's, the size of an element being that of the armed buffer
that holds the address of element 0. DESIGN CHOICE (assumption 111): where no buffer holds it, the address that the packet carries. -/
def arrivalByte (r : Reeler) (a : Access) : Nat :=
  a.addr + if a.kind = .addPacket then a.elem * ((r.buffers.findSome? fun x => (x.filter (forBuffer · a)).map (bufBytes ·.acc)).getD 0) else 0

/-- The access was sent by the carder of the position that it addresses. -/
def isOwnAcc (s : State) (p : Nat) (a : Access) : Bool := a.via.isNone && posOf s a.src == p

/-- The sc of its target in which an access under way arrives. -/
def arrivalOf (s : State) (p : Nat) (a : Access) : Nat := if isOwnAcc s p a then a.at_ else dueAt s p a.at_

/-- The time at which it arrives. -/
def arrivalTick (s : State) (p : Nat) (a : Access) : Nat :=
  if isOwnAcc s p a then portTime s p a.at_ 0 else tickOf s p (a.at_ - frac56 s p)

/-- The earliest access under way to position p: in one sc a mesh arrival comes before the own carder's (R266). -/
def nextArrival (s : State) (p : Nat) : Option (Access × List Access) :=
  pluckMin (fun a => targetPos s a == some p) (fun a => 2 * arrivalOf s p a + b2n (isOwnAcc s p a)) s.fabric.net

/-- The late flits before the first arrival at position p have entered (R332). -/
def arrivalsBy (s : State) (p : Nat) : State :=
  match nextArrival s p with | some (a, _) => settleBy s (arrivalTick s p a) | none => s

/-- The delay of an arrival is known (assumption 79). -/
def arrivalReady (s : State) (p : Nat) (a : Access) : Bool := isOwnAcc s p a || arrivalKnown s a false p (arrivalTick s p a)

/-- Data of an access leave position p for its sender in p's sc t. -/
def reply (s : State) (p t : Nat) (a : Access) (data : List Byte) (poison : List Nat) (timeout : Bool) : State :=
  answer s p t 0 true a
    { dst := 0, at_ := 0, near := false, acc := a, data := data, poison := poison, timeout := timeout, ack := false }
    { PlyItem.blank (if a.kind == .cfe then 6 else 3) with data := data, flag := timeout, poison := !poison.isEmpty, accs := [a],
                                                                bad := (a.addr + 4 * poison.headD 0) / 8 * 8 }

/-- The job at a position has taken its checkpoint and not completed it (R483). -/
def inCheckpoint (s : State) (p : Nat) : Bool :=
  match jobAt s p with
  | some j => ckptHold s (jobOf s j)
  | none => false

/-- REELER_ARRIVAL: what arrives at a position is discarded or enters the queue; a GET line's request reads its line. DEDUCED (assumption 83): a
checkpoint discards what comes through a port; what the job's own carders have sent is of the writes already sent (R481). DESIGN CHOICE
(assumption 112): what arrives for the stopped reeler of a dark position is lost, and raises nothing (R383). -/
def execReelerArrival (p : Nat) (s : State) : Out :=
  onPosS s p fun _ =>
    let s := arrivalsBy s p
    match nextArrival s p with
    | none => s
    | some (a, rest) =>
      if !arrivalReady s p a then s else
      let t := arrivalOf s p a
      let s := dropFlit { s with fabric := { s.fabric with net := rest } } a false
      let off := a.addr % 0x0200_0000
      let l := (openPos s p).at_ t
      let drop (code : Nat) : State := raiseAt (closePos s p l) p (ev code (sourceWord a) (arrivalByte l.sp.reeler a))
      if l.sp.skipping ≥ 2 then drop 0x615
      else if inCheckpoint s p && a.via.isSome then drop 0x370
      else if a.kind == .getLine then
        let o := if a.loft then off / 64 * 64 else off
        let n := if a.loft then 64 else a.len
        if (pwAt s p).dark then let d := drawBytes s n; reply d.2 p (t + 5) a d.1 [] false
        else
          let l := l.scrub o n
          reply (closePos s p l) p (t + 5) a (l.rd o n) (l.granules o n) false
      else if !live s p then closePos s p l
      else
        let a := { a with at_ := t }
        if a.final then closePos s p (l.reel fun r => { r with held := r.held ++ [a] })
        else if l.sp.reeler.queue.length ≥ 256 then drop 0x304
        else
          let n := l.sp.reeler.queue.length + 1
          closePos s p ((l.reel fun r => { r with queue := r.queue ++ [a] }).count fun c => { c with reelPeak := max c.reelPeak n })

/-! The holding reeler (R266 to R270, R282 to R286) -/

/-- Local word of an access. -/
def wordOf (a : Access) : Nat := a.addr % 0x0200_0000 / 8

/-- The sc by which the earlier entries that wrote a word have landed, and its last change of state is past (R282). -/
def landedAt (sp : Spindle) (w : Nat) : Nat :=
  sp.pend.foldl (fun m e => if e.reel && overlaps e.off e.data.length (8 * w) 8 then max m e.at_ else m) ((getKey w sp.reeler.landing).getD 0)

/-- The first sc from t on before which the word's last change has landed: a write that a bank accepts in sc t or earlier, 4 sc before it is
visible, is awaited, a later one is not (R55, R284). -/
def settledAt (sp : Spindle) (w t : Nat) : Nat :=
  sp.pend.foldl (fun t e => if overlaps e.off e.data.length (8 * w) 8 && decide (e.at_ ≤ t + 4) then max t e.at_ else t) t

/-- The word is full. -/
def isFull (sp : Spindle) (w : Nat) : Bool := sp.distaff.full.contains w

/-- The state of its word satisfies a CFE (Table 10.3). -/
def cfeSat (sp : Spindle) (w : Nat) (c : CfeArg) : Bool :=
  match c.op with
  | 0 => !isFull sp w
  | 3 => true
  | _ => isFull sp w

/-- A byte range touches an armed buffer. -/
def touchesBuffer (r : Reeler) (a n : Nat) : Bool :=
  r.buffers.any fun x => match x with | some b => overlaps a n b.base b.bytes | none => false

/-- A CFE may act again on a word from sc t. -/
def markWord (w t : Nat) (r : Reeler) : Reeler := { r with landing := insKey w t r.landing }

/-- What a reeler takes: an arrival from a queue, or an entry of the wait table. -/
inductive Take where
  | final (a : Access) (rest : List Access)
  | serve (w : WaitEntry) (rest : List WaitEntry)
  | head (a : Access) (rest : List Access)
deriving DecidableEq, Repr

/-- Entries of the wait table that are satisfied, the oldest of each word first (R284). -/
def servable (sp : Spindle) : List WaitEntry → List Nat → List WaitEntry
  | [], _ => []
  | w :: ws, seen =>
    let k := wordOf w.acc
    let ok := match w.acc.cfe with | some c => cfeSat sp k c | none => false
    if ok && !seen.contains k then w :: servable sp ws (k :: seen) else servable sp ws seen

/-- The sc from which a wait entry can be served. -/
def serveAt (sp : Spindle) (w : WaitEntry) : Nat :=
  settledAt sp (wordOf w.acc) (max sp.reeler.free ((getKey (wordOf w.acc) sp.reeler.landing).getD 0))

/-- The wait entry that can be served first, the oldest among equals. -/
def nextServe (sp : Spindle) : Option (WaitEntry × Nat) :=
  (servable sp sp.reeler.waits []).foldl (fun b w =>
    let t := serveAt sp w
    match b with
    | none => some (w, t)
    | some (v, u) => if t < u then some (w, t) else some (v, u)) none

/-- The sc from which a held final-flag write may be taken (R264, R283). -/
def finalAt (s : State) (p : Nat) (sp : Spindle) (a : Access) : Nat :=
  max (max sp.reeler.free a.at_) (afterEarlier s p a - 4)

/-- The held final-flag write that may be taken first. -/
def nextFinal (s : State) (p : Nat) (sp : Spindle) : Option (Access × Nat) :=
  (sp.reeler.held.filter fun a => !earlierPending s a).foldl (fun b a =>
    let t := finalAt s p sp a
    match b with
    | none => some (a, t)
    | some (c, u) => if t < u then some (a, t) else some (c, u)) none

/-- The sc from which the head of the queue may be taken (R282). -/
def headAt (sp : Spindle) (a : Access) : Nat :=
  max (max sp.reeler.free a.at_) (if a.kind == .cfe then landedAt sp (wordOf a) else 0)

/-- What the reeler takes next and in which sc (R266). -/
def nextTake (s : State) (p : Nat) (sp : Spindle) : Option (Take × Nat) :=
  let r := sp.reeler
  if !r.convs.isEmpty || !powered s p then none else
  let f := (nextFinal s p sp).map fun x => (Take.final x.1 (r.held.filter fun b => b != x.1), x.2)
  let w := (nextServe sp).map fun x => (Take.serve x.1 (r.waits.filter fun v => v != x.1), x.2)
  let h := match r.queue with | a :: rest => some (Take.head a rest, headAt sp a) | [] => none
  let best (a b : Option (Take × Nat)) := match a, b with
    | some x, some y => if x.2 ≤ y.2 then some x else some y
    | some x, none => some x
    | none, y => y
  best (best f w) h

/-- The reeler works `n` sc from sc t, on an add packet to offset `cur` where it is one. -/
def Loc.reelWork (l : Loc) (t n : Nat) (cur : Option Nat) : Loc :=
  (l.at_ t).mod fun sp => { sp with reeler := { sp.reeler with free := t + n, cur := cur }, ctr := { sp.ctr with reelBusy := sat32 sp.ctr.reelBusy n } }

/-- What the reeler writes in sc t is visible 4 sc later (R266). -/
def Loc.reelWrites (l : Loc) (t : Nat) (f : Loc → Loc) : Loc :=
  { (l.seenAt (t + 4) fun l => f { l with reeler := true }) with reeler := false }.reel fun r => { r with lastLand := max r.lastLand (t + 4) }

/-- Misuse of an armed buffer: the arrival is discarded (R269). -/
def reelMisuse (s : State) (p t : Nat) (a : Access) : State :=
  raiseAt (runPos s p (·.reelWork t 1 none)) p (ev 0x303 (sourceWord a) (arrivalByte (spAt s p).reeler a))

/-- A PUT line is written in sc t (R266). -/
def takePut (s : State) (p t : Nat) (a : Access) : State :=
  let off := a.addr % 0x0200_0000
  if touchesBuffer (spAt s p).reeler off a.data.length then reelMisuse s p t a
  else
    landed (runPos s p fun l => (l.reelWork t 1 none).reelWrites t (·.wrG off a.data a.poison)) p (t + 4) 0 a

/-- The buffer and first element that an add packet addresses (R268, R269). -/
def packetBuffer (r : Reeler) (a : Access) : Option (Buffer × Nat) :=
  let off := a.addr % 0x0200_0000
  r.buffers.findSome? fun x => match x with
    | some b =>
      let e := bufBytes b.acc
      if decide (b.base ≤ off) && (off - b.base) % e == 0 && decide ((off - b.base) / e + a.elem + a.vals.length ≤ b.nel) then
        some (b, (off - b.base) / e + a.elem)
      else none
    | none => none

/-- One addend added to its element (R268), which earlier entries' writes have reached; the flag is set where the addend was widened beyond
the binary32 range (R104) or the total becomes non-finite. -/
def addElem (b : Buffer) (i : Nat) (v : F32) (bad wide : Bool) (l : Loc) : Loc :=
  let o := b.base + i * bufBytes b.acc
  let n := bufBytes b.acc
  let l := l.scrub o n
  let old := memNat l.sp.soon o n
  let ws := (List.range (cdiv n 8)).map (o / 8 + ·)
  if bad || ws.any l.sp.soonBad then l.wrP o (leBytes n old) (ws.map (8 * ·))
  else match b.acc with
    | 0 => let r := fadd (BitVec.ofNat 32 old) v; (l.wr32 o r).flagIf (wide || isNF r)
    | 1 => let r := toB16 (addFv (read16 (BitVec.ofNat 16 old)) (read32 v)); (l.wr16 o r).flagIf (wide || (read16 r).isNonFinite)
    | _ =>
      let t := BitVec.ofNat 128 old
      let r := x128Add b.win t (read32 v)
      (l.wr o (leBytes 16 r.toNat)).flagIf (wide || (r == x128NF && t != x128NF))

/-- An add packet is added in sc t, two lines of its buffer to an sc; each element lands, and sets the flag, with its own write (R268,
Table 9.5). -/
def takeAdd (s : State) (p t : Nat) (a : Access) : State :=
  match packetBuffer (spAt s p).reeler a with
  | none => reelMisuse s p t a
  | some (b, k) =>
    let n := a.vals.length
    let e := bufBytes b.acc
    let first := b.base + k * e
    let occ := cdiv (linesOf first (n * e)) 2
    let s := runPos s p fun l =>
      a.vals.zipIdx.foldl (fun l v =>
        l.reelWrites (t + ((first + v.2 * e) / 64 - first / 64) / 2) (addElem b (k + v.2) v.1 (a.poison.contains v.2) (a.wide.contains v.2)))
        (l.reelWork t occ (some (a.addr % 0x0200_0000)))
    landed s p (t + occ - 1 + 4) 0 a

/-- A CFE acts on its word in sc t (Table 10.3). -/
def cfeAct (s : State) (p t : Nat) (a : Access) (c : CfeArg) : State :=
  let w := wordOf a
  let set (full : Bool) (d : Distaff) : Distaff := { d with full := if full then insNat w d.full else delNat w d.full }
  let l := ((openPos s p).reelWork t 1 none).reel (markWord w (t + 1))
  if c.op = 0 ∨ c.op = 3 then
    landed (closePos s p ((l.dist (set c.state)).reelWrites t (·.wrG (8 * w) a.data a.poison))) p (t + 4) 0 a
  else
    let l := l.scrub (8 * w) 8
    reply (closePos s p (if c.op = 1 then l.dist (set false) else l)) p (t + 5) a (l.rd (8 * w) 8) (l.granules (8 * w) 8) false

/-- A CFE that waits with the table full is discarded (R285); the record names the waiter by the logical number it has on its own device
(R289). -/
def waitFull (s : State) (p t : Nat) (a : Access) (c : CfeArg) : State :=
  let full := b2n (isFull (spAt s p) (wordOf a))
  let s := runPos s p (·.reelWork t 1 none)
  match a.via with
  | none =>
    let q := posOf s a.src
    runPos s q fun l => (l.kill 4).syncErr s q 0x211 1 4 a.woff a.addr full c.op
  | some port =>
    let r := syncRec s 2000 0x211 1 4 a.woff a.addr full c.op + put (a.src % 1024) 16
    let e : Ev := { code := 0x211, kind := 1, stream := 4, woff := 0, da := 0, db := 0, rcd := some r }
    match (List.range 8).find? (fun j => (jobOf s j).state != 0 && (jobOf s j).ports.testBit port) with
    | some j => faultJob (postEv s e (some j) none none) j 0x211 true
    | none => postEv s e none none none

/-- The sc in which a CFE that entered the queue in sc q expires (R286). -/
def expiryOf (a : Access) (c : CfeArg) : Nat := a.at_ - a.lat + c.timeout

/-- A timeout reply leaves in sc t; to a spindle of this device it tells its word's state (R289). -/
def cfeExpire (s : State) (p t : Nat) (a : Access) : State :=
  reply s p t a (if a.via.isNone then [BitVec.ofNat 8 (b2n (isFull (spAt s p) (wordOf a)))] else []) [] true

/-- A CFE is taken from a queue in sc t (R282 to R286). -/
def takeCfe (s : State) (p t : Nat) (a : Access) (c : CfeArg) : State :=
  let sp := spAt s p
  if touchesBuffer sp.reeler (8 * wordOf a) 8 then reelMisuse s p t a
  else if cfeSat sp (wordOf a) c then cfeAct s p t a c
  else if t > expiryOf a c then cfeExpire (runPos s p (·.reelWork t 1 none)) p t a
  else if sp.reeler.waits.length ≥ 32 then waitFull s p t a c
  else
    runPos s p fun l =>
      let n := l.sp.reeler.waits.length + 1
      (((l.reel fun r => { r with waits := r.waits ++ [{ acc := { a with waits := [] }, expiry := expiryOf a c }] }).reelWork t 1 none)).count
        fun k => { k with fePeak := max k.fePeak n }

/-- An arrival is handled in sc t. -/
def takeEntry (s : State) (p t : Nat) (a : Access) : State :=
  match a.kind, a.cfe with
  | .putLine, _ => takePut s p t a
  | .addPacket, _ => takeAdd s p t a
  | .cfe, some c => takeCfe s p t a c
  | _, _ => s

/-- REELER_TAKE. -/
def execReelerTake (p : Nat) (s : State) : Out :=
  onPosS s p fun l =>
    match nextTake s p l.sp with
    | none => s
    | some (.final a rest, t) => takeEntry (runPos s p (·.reel fun r => { r with held := rest })) p t a
    | some (.head a rest, t) => takeEntry (runPos s p (·.reel fun r => { r with queue := rest })) p t a
    | some (.serve w rest, t) =>
      match w.acc.cfe with
      | some c => if t ≤ w.expiry then cfeAct (runPos s p (·.reel fun r => { r with waits := rest })) p t w.acc c else s
      | none => s

/-- FE_WAIT_SERVE: a wait entry is served when it is what the reeler takes next (R284). -/
def execFeWaitServe (p : Nat) (s : State) : Out :=
  onPosS s p fun l =>
    match nextTake s p l.sp with
    | some (.serve w rest, t) =>
      match w.acc.cfe with
      | some c => if t ≤ w.expiry then cfeAct (runPos s p (·.reel fun r => { r with waits := rest })) p t w.acc c else s
      | none => s
    | _ => s

/-- FE_WAIT_EXPIRE: the entry whose expiry comes first leaves the table, unless it is served in that sc or earlier (R286), while the position's reeler
has not stopped (R383). -/
def execFeWaitExpire (p : Nat) (s : State) : Out :=
  onPosS s p fun l =>
    let r := l.sp.reeler
    match pluckMin (fun _ => live s p) (·.expiry) r.waits with
    | none => s
    | some (w, rest) =>
      let served := match nextServe l.sp with | some (v, t) => v == w && decide (t ≤ w.expiry) | none => false
      if served then s
      else cfeExpire (runPos s p fun l => (l.reel fun r => { r with waits := rest }).at_ w.expiry) p w.expiry w.acc

/-- A CFE whose instruction the carder still holds is complete in sc t (R281). -/
def Loc.endCfe (l : Loc) (inst t : Nat) : Loc :=
  if l.sp.carder.jobs.any (·.inst == inst) then (l.endJob inst t).strm 4 fun q => { q with free := max q.free t } else l

/-- The reply to a CFE takes effect at its issuer in sc t: a timeout reply raises E-0x210, but not for a job that a stop fault has stopped
(R467); another takes its acquire, and a TAKE or READF writes what it read (R281, R286). A timeout reply through a port carries no state: E-0x210 then
records the one that its operation does not wait for (R289). -/
def cfeAnswer (s : State) (p t : Nat) (r : Reply) (c : CfeArg) (l : Loc) : Loc :=
  let a := r.acc
  if r.timeout then
    if treadleRuns s p 4 then ((l.endCfe a.inst t).kill 4).syncErr s p 0x210 1 4 a.woff a.addr (match r.data with | b :: _ => b.toNat | [] => if c.op = 0 then 1 else 0) c.op
    else l.endCfe a.inst t
  else
    let l := l.acquire s p c.acq
    if c.op = 0 ∨ c.op = 3 then l.endCfe a.inst t
    else (l.seenAt (t + 4) (·.wrG (8 * c.lword) r.data r.poison)).endCfe a.inst (t + 4)

/-- CFE_REPLY_ARRIVAL. -/
def execCfeReplyArrival (p : Nat) (s : State) : Out :=
  onPosS s p fun l =>
    if !live s p then s else
    match takeReply s p (fun r => r.acc.kind == .cfe) with
    | none => s
    | some (r, t, s) =>
      match r.acc.cfe with
      | none => s
      | some c => closePos s p (cfeAnswer s p t r c ((l.card fun k => { k with sent := k.sent.filter (·.tag != r.acc.tag) }).at_ t))

end Sys2Proof.Machine
end

