-- ==== Sys2Proof/Machine/Ply.lean ====
section
/-!
DEFINITION. The ply ports (chapter 11): training, frames, admission, the transactions of a partner, lane maps and port down.
What arrives at a port is delivered at its die edge in the sc in which the port's attachment position stands.
-/
namespace Sys2Proof.Machine

/-- A port that exists. -/
def onPort (q : Nat) (r : State) : Out := onUnit "port" 6 q r

/-- PLY_CTRL of a port. -/
def plyCtrl (s : State) (q hi lo : Nat) : Nat := stf s (0x40000 + 0x100 * q) hi lo

/-- An event of a port: for its owner where it has one. -/
def raisePort (s : State) (q : Nat) (e : Ev) : State :=
  match portOwner s q with
  | some j => raiseJob s j e
  | none => raiseDev s e

/-- The crossing index of a port (R44, R498). -/
def portXing (q : Nat) : Nat := 2048 * spireOf (portPos q) + 950 + q

/-- The last event due stands before those of the first bell, where E-0x012 is still due, and names the bell count before it: it arose during
the steps of the power-up (R294, R359). -/
def bootOrder (s : State) : State :=
  let d := s.hif.due
  match d.getLast?, d.find? (fun e => e.type == 1 && e.code == 0x012) with
  | some e, some f =>
    let old := d.dropLast.takeWhile fun x => decide (x.frame < f.frame)
    let body := e.body - put (fldN e.body 95 64) 64 + put ((f.frame - 1) % 2 ^ 32) 64
    { s with hif := { s.hif with due := old ++ [{ e with frame := f.frame - 1, at_ := f.at_, body := body }] ++ d.dropLast.drop old.length } }
  | _, _ => s

/-- An event of a port's training. -/
def raiseTraining (s : State) (q : Nat) (e : Ev) : State :=
  if (portAt s q).boot then bootOrder (raisePort s q e) else raisePort s q e

/-! Lane maps (R306, R307) -/

/-- The lane that L16 carries in a group of 8 lanes: 31 where none has failed; none where the group is not usable. -/
def groupMap (fails : List Nat) (g : Nat) : Option (Nat × Nat) :=
  match fails.filter fun x => if g = 1 then decide (x ≤ 7) else decide (8 ≤ x) && decide (x ≤ 15) with
  | [] => some (g, 31)
  | [x] => if fails.contains 16 then none else some (g, x)
  | _ => none

/-- The map that failed lanes leave: its width code and the lane that L16 carries; none where no group is usable. -/
def laneMap (fails : List Nat) : Option (Nat × Nat) :=
  match fails.filter (· < 16) with
  | [] => some (0, 31)
  | [x] => if fails.contains 16 then groupMap fails 1 <|> groupMap fails 2 else some (0, x)
  | _ => groupMap fails 1 <|> groupMap fails 2

/-- The map of a direction of width w after a failure: a narrowed direction keeps its group while that is usable. -/
def nextMap (w : Nat) (fails : List Nat) : Option (Nat × Nat) :=
  if w = 0 then laneMap fails else groupMap fails w <|> groupMap fails (3 - w)

/-! Frames (R296, R297, R305, R309) -/

/-- The header of the frame under way (Table 11.2). -/
def frameHeader (x : Port) : Nat :=
  let m := x.sendReq.getD (0, 0, 0)
  x.seqOut + put x.sentN 32 + put x.sentLag 40 + put (b2n x.sentThr) 48 + put (b2n x.errOut) 49 + put (b2n (decide (0 < x.downOut))) 50
    + put (b2n x.sendReq.isSome) 51 + put m.1 64 + put m.2.1 96 + put m.2.2 101

/-- A transaction header (Table 11.3): COUNT stands in those that count. -/
def txHeader (x : PlyItem) : Nat :=
  let aux := if x.type = 8 ∨ x.type = 4 ∨ x.type = 5 then x.aux else if x.type = 9 then x.aux % 8 else 0
  x.type + put (b2n x.final) 4 + put x.data.length 5 + put x.fmt 19 + put x.blen 22 + put x.oslot 24
    + put (if [2, 4, 7, 9].contains x.type then x.count else 0) 26 + put (b2n x.flag) 31 + put aux 32 + put x.addr 64

/-- The 12,800 bytes of a frame: header, transaction headers and payload area (R296, R297). -/
def frameBytes (f : SentFrame) : List Byte :=
  let heads := f.trans.flatMap fun x => leBytes 16 (txHeader x)
  let data := f.trans.flatMap (·.data)
  leBytes 64 f.header ++ heads ++ List.replicate (72 * 16 - heads.length) 0#8 ++ data ++ (List.range (11584 - data.length)).map Config.framePad

/-- The lane that byte i of the stream goes to under a map of width w with the lane `spare` on L16 (R296, R307). -/
def laneOf (w spare i : Nat) : Nat :=
  let l := if w = 0 then i % 16 else if w = 1 then i % 8 else 8 + i % 8
  if l = spare then 16 else l

/-- The bytes of a frame that a lane carries. -/
def laneBytes (f : SentFrame) (lane : Nat) : List Byte :=
  (frameBytes f).zipIdx.filterMap fun b => if laneOf f.width f.spare b.2 = lane then some b.1 else none

/-- The admitted transactions that a frame takes, in order, and those left: at most 72, of 11,584 payload bytes. -/
def fillFrame : List PlyItem → Nat → Nat → List PlyItem × List PlyItem
  | [], _, _ => ([], [])
  | x :: xs, n, bytes =>
    if n < 72 ∧ bytes + x.data.length ≤ 11584 then
      let r := fillFrame xs (n + 1) (bytes + x.data.length)
      (x :: r.1, r.2)
    else ([], x :: xs)

/-- The time that a frame lasts, in fifths of an rc: 32 ns on 16 lanes, 64 ns on 8. -/
def frameDur (x : Port) : Nat := if x.txw = 0 then 168 else 336

/-- Frame n lies ahead of the frame under way, or is that (R296: numbers modulo 2^32). -/
def frameAhead (n : Nat) (x : Port) : Bool := decide ((n + 2 ^ 32 - x.seqOut) % 2 ^ 32 < 2 ^ 31)

/-- After `n` frames more: a hold of admission ends with its frame. -/
def afterFrames (n : Nat) (x : Port) : Port :=
  let y := { x with seqOut := (x.seqOut + n) % 2 ^ 32, downOut := x.downOut - n, frameAt := x.frameAt + n * frameDur x }
  { y with shut := y.shut.filter (frameAhead · y) }

/-- The frame that ends while `n` frames have ended since the frame under way. -/
def endedFrame (n : Nat) (trans : List PlyItem) (x : Port) : SentFrame :=
  { header := frameHeader { x with seqOut := (x.seqOut + n) % 2 ^ 32, downOut := x.downOut - n }, width := x.txw, spare := x.txsp, trans := trans }

/-- The frame under way ends. -/
def sendFrame (x : Port) : Port :=
  let r := fillFrame x.wire 0 0
  { afterFrames 1 x with last := some (endedFrame 0 r.1 x), wire := r.2 }

/-- `n` frames end, those without transactions in one go. -/
def sendFrames : Nat → Port → Port
  | 0, x => x
  | n + 1, x => if x.wire.isEmpty then { afterFrames (n + 1) x with last := some (endedFrame n [] x) } else sendFrames n (sendFrame x)

/-- Frames before the one that a requested map begins with; 0 where its number has passed (R306). -/
def framesToMap (seq : Nat) (x : Port) : Nat := if frameAhead seq x then (seq + 2 ^ 32 - x.seqOut) % 2 ^ 32 else 0

/-- The map asked for is in use from the frame under way on. -/
def takeMap (x : Port) : Port :=
  match x.request with
  | some (_, sp, w) => { x with txw := w, txsp := sp, request := none }
  | none => x

/-- The frames of a port that end by rc t: those of a port that goes down are its 64 (R310). -/
def framesBy (t : Nat) (x : Port) : Nat :=
  let n := (5 * t - x.frameAt) / frameDur x
  if x.state = 2 then n else min n x.downOut

/-- The frames that end by rc t, with a map asked for from its frame on (R296, R306). -/
def runFrames (t : Nat) (x : Port) : Port :=
  match x.request with
  | some (seq, _, _) =>
    if framesToMap seq x ≤ framesBy t x then
      let y := takeMap (sendFrames (framesToMap seq x) x)
      sendFrames (framesBy t y) y
    else sendFrames (framesBy t x) x
  | none => sendFrames (framesBy t x) x

/-- The frames of a port up to the present, before something changes what the next carry. -/
def framesNow (s : State) (q : Nat) : State := modPort s q (runFrames s.bell.refTime)

/-- A port goes down (R310, R287). -/
def portDown (s : State) (q : Nat) : State :=
  let s := framesNow (raisePort s q (ev 0x403 q 0)) q
  let s := modPort s q fun x =>
    { x with state := 0, downOut := 64, items := [], tx := [], wire := [], sent := [], request := none, sendReq := none, narrow := false,
             downFrames := 0, shut := none }
  { s with spindles := s.spindles.map fun sp =>
      { sp with reeler := { sp.reeler with waits := sp.reeler.waits.filter fun w => w.acc.via != some q } } }

/-- The receiver asks for a map from the 256th frame after the last it counted (R306). -/
def askMap (m : Nat × Nat) (x : Port) : Port := { x with sendReq := some ((x.seqIn + 256) % 2 ^ 32, m.2, m.1), narrow := false }

/-- A receive lane of a port fails (R306, R307). -/
def failLane (s : State) (q lane : Nat) : State :=
  let x := portAt s q
  if x.rxfail.contains lane then s
  else
    let fails := insNat lane x.rxfail
    let s := modPort (framesNow s q) q fun x => { x with rxfail := fails }
    match nextMap x.rxw fails with
    | none => portDown s q
    | some m =>
      if m = (x.rxw, x.rxsp) then s
      else if m.1 = 0 then raisePort (modPort s q (askMap m)) q (ev 0x401 (q + put lane 3) 0)
      else raisePort (modPort s q fun x => { x with narrow := true }) q (ev 0x402 (q + put lane 3) 0)

/-- The request that waits for a bell (R307). -/
def askNarrow (s : State) (q : Nat) : State :=
  let s := framesNow s q
  let x := portAt s q
  if x.narrow then
    match nextMap x.rxw x.rxfail with
    | some m => modPort s q (askMap m)
    | none => portDown s q
  else s

/-- LANE_LOCK_LOSS. -/
def execLaneLockLoss (q lane : Nat) (s : State) : Out :=
  if lane < 17 then onPort q (if (portAt s q).state = 2 then failLane s q lane else s) else .fault (.noSuchUnit "lane" lane)

/-! What a partner's frames bring (R305, R306, R309) -/

/-- PLY_LANE_MAP_CHANGE: the map that the partner asked for takes effect with frame MAPSEQ, which begins now (R306, R308). -/
def execPlyLaneMapChange (q : Nat) (s : State) : Out :=
  onPort q <|
    match (portAt s q).request with
    | some (seq, _, _) =>
      let s := modPort s q fun x => takeMap (sendFrames (framesToMap seq x) x)
      { s with bell := { s.bell with refTime := if s.bell.held then s.bell.refTime else max s.bell.refTime (cdiv (portAt s q).frameAt 5) } }
    | none => s

/-- An uncorrectable frame (R309). -/
def badFrame (s : State) (q : Nat) (seq : Nat) : State :=
  let first := !(portAt s q).badSeen
  let s := modPort (framesNow s q) q fun x =>
    { x with seqIn := seq, frameBad := sat32 x.frameBad 1, errOut := true, badSeen := true, downFrames := x.downFrames + 1 }
  if first then raisePort s q (ev 0x404 q seq) else s

/-- The corrected codewords of a frame: counted by port, their symbols by lane. -/
def noteCorrected (f : Frame) (x : Port) : Port :=
  { x with fecCorr := sat32 x.fecCorr f.corrected.length,
           corrected := f.corrected.foldl (fun m c => insKey c.1 ((getKey c.1 m).getD 0 + c.2) m) x.corrected }

/-- The partner uses the map it was asked for from frame MAPSEQ on. -/
def noteMap (seq : Nat) (x : Port) : Port :=
  match x.sendReq with
  | some (n, sp, w) => if (seq + 2 ^ 32 - n) % 2 ^ 32 < 2 ^ 31 then { x with rxw := w, rxsp := sp, sendReq := none } else x
  | none => x

/-- The map that a frame asks for: one that is in use since its frame has been sent is no new request; a request for a group of 8 lanes shuts
admission until its frame has been sent (R306, R307). -/
def noteRequest (f : Frame) (x : Port) : Port :=
  if !f.mreq || (!frameAhead f.mapseq x && x.txw == f.mapw && x.txsp == f.mapsp) then x
  else { x with request := some (f.mapseq, f.mapsp, f.mapw), shut := if f.mapw != 0 && frameAhead f.mapseq x then some f.mapseq else x.shut }

/-- A frame that decodes. -/
def goodFrame (s : State) (q : Nat) (f : Frame) : State :=
  let s := modPort (framesNow s q) q fun x =>
    noteRequest f (noteMap f.seq { x with seqIn := f.seq, downFrames := 0, paceN := f.paceN, paceLag := f.paceLag, paceThr := f.paceThr })
  let s := if f.err && !(portAt s q).errSeen then raisePort (modPort s q fun x => { x with errSeen := true }) q (ev 0x404 (q + 256) 0) else s
  if f.down then portDown s q else s

/-- PLY_FRAME_RECEIVE: a frame with a transaction header of TYPE 10 to 15 is as an uncorrectable one (R297). -/
def execPlyFrameReceive (q : Nat) (f : Frame) (s : State) : Out :=
  onPort q <|
    if (portAt s q).state = 2 then
      let s := modPort s q (noteCorrected f)
      if f.decodes && f.types.all (decide <| · < 10) then goodFrame s q f else badFrame s q (((portAt s q).seqIn + 1) % 2 ^ 32)
    else s

/-- PLY_NO_FRAME_TIMEOUT (R310). -/
def execPlyNoFrameTimeout (q : Nat) (s : State) : Out :=
  onPort q <| if (portAt s q).state = 2 ∧ 256 ≤ (portAt s q).downFrames then portDown s q else s

/-! Training (R293 to R295) -/

/-- Training of a port starts (R294): the pace last received and sent stays (R305). -/
def startTraining (boot : Bool) (s : State) (q : Nat) : State :=
  modPort s q fun c =>
    { c with state := 1, step := 0, cls := 0, txw := 0, txsp := 31, rxw := 0, rxsp := 31, rxfail := [], request := none, sendReq := none,
             narrow := false, seqIn := 0, seqOut := 0, errOut := false, badSeen := false, errSeen := false, downFrames := 0, downOut := 0,
             corrected := [], items := [], sent := [], tx := [], wire := [], shut := none, raw := none, boot := boot }

/-- A port that fails to train stays down; the receive lanes that Detect and Lock have failed stay shown (Tables 11.1, 11.8). -/
def failTraining (s : State) (q code : Nat) (bad : List Nat) : State :=
  raiseTraining (modPort s q fun x => { x with state := 0, rxfail := bad }) q (ev code q 0)

/-- The latency class that the raw delays allow, from class c on, with the classes that failed (R295). -/
def agreeClass (raw c fuel : Nat) : Option Nat × List Nat :=
  match fuel with
  | 0 => (none, [])
  | f + 1 =>
    if c > 2 then (none, [])
    else if raw ≤ classLat c then (some c, [])
    else let r := agreeClass raw (c + 1) f; (r.1, c :: r.2)

/-- Steps Detect to Lock leave a width in both directions: the map of each (R294, R307). -/
def trainMaps (signal locked txFails : List Nat) : Option ((Nat × Nat) × (Nat × Nat)) :=
  match laneMap ((List.range 17).filter fun n => !signal.contains n),
        laneMap ((List.range 17).filter fun n => !signal.contains n || !locked.contains n), laneMap txFails with
  | some _, some r, some t => some (r, t)
  | _, _, _ => none

/-- PLY_TRAINING: the steps of Table 11.1 on what the two receivers find; `cls` is the partner's proposal. -/
def execPlyTraining (q : Nat) (signal : List Nat) (locked : Locks) (ppb rawIn rawOut cls : Nat) (s : State) : Out :=
  onPort q <|
    if s.power.off = false ∧ (portAt s q).state = 1 then
      let bad := (List.range 17).filter fun n => !signal.contains n || !locked.lanes.contains n
      match trainMaps signal locked.lanes locked.txFails with
      | some (m, t) =>
        if ppb > 1000 then failTraining s q 0x406 bad
        else
          let r := agreeClass (max rawIn rawOut) (max (plyCtrl s q 3 2) cls) 4
          let s := r.2.foldl (fun s _ => raiseTraining s q (ev 0xB06 (portXing q) 0)) (modPort s q fun x => { x with raw := some rawIn })
          match r.1 with
          | none => failTraining (modPort s q fun x => { x with cls := r.2.getLastD x.cls }) q 0x405 bad
          | some c =>
            let s := modPort s q fun x =>
              { x with state := 2, cls := c, rxfail := bad, rxw := m.1, rxsp := m.2, txw := t.1, txsp := t.2, window := s.bell.refTime / 8,
                       frameAt := 5 * s.bell.refTime }
            match bad.filter (· < 16) with
            | [] => s
            | l :: _ => raiseTraining s q (ev (if m.1 = 0 then 0x401 else 0x402) (q + put l 3) 0)
      | none => failTraining s q 0x405 bad
    else s

/-- PLY_TRAIN_STEP_TIMEOUT: `bad` are the receive lanes that Detect and Lock have failed by then. -/
def execPlyTrainStepTimeout (q : Nat) (s : State) (bad : List Nat := []) : Out :=
  onPort q <| if (portAt s q).state = 1 then failTraining s q 0x405 (bad.filter (· < 17)) else s

/-- PLY_RETRAIN: a commit has set RETRAIN (R304); the field reads 0 from then on. -/
def execPlyRetrain (q : Nat) (s : State) : Out :=
  onPort q <|
    let o := 0x40000 + 0x100 * q
    if s.power.off = false ∧ plyCtrl s q 4 4 = 1 then
      let s := setSt s o (st s o - 16)
      if plyCtrl s q 0 0 = 1 then startTraining false s q else s
    else s

/-! Admission (R298 to R300) -/

/-- Payload and header budgets of a window (Table 11.4). -/
def plyBudget (w : Nat) : Nat × Nat := if w = 0 then (2752, 17) else (1344, 8)

/-- Rank of an item in a window: acknowledgements and credits, replies, the rest (R299). -/
def itemRank (x : PlyItem) : Nat := match x.type with | 7 => 0 | 9 => 0 | 3 => 1 | 6 => 1 | _ => 2

/-- The time by which an item is ordered: of a request of this device that of its presentation (R299). -/
def presTime (x : PlyItem) : Nat := if itemRank x = 2 then x.pres else x.at_

/-- Item a goes before item b: by rank; then one that has waited, in its place (R299); then by presentation. -/
def itemBefore (a b : PlyItem) : Bool :=
  decide (itemRank a < itemRank b) ||
    (itemRank a == itemRank b && !b.waited &&
      (a.waited || decide (presTime a < presTime b) || (presTime a == presTime b && decide (a.src < b.src))))

/-- Put an item in its place, behind its equals. -/
def insItem (x : PlyItem) : List PlyItem → List PlyItem
  | [] => [x]
  | y :: ys => if itemBefore x y then x :: y :: ys else y :: insItem x ys

/-- Element bytes of an add packet. -/
def elemBytes (x : PlyItem) : Nat :=
  match x.accs with
  | a :: _ => if a.fmt ≤ 1 then x.data.length else cdiv (a.len * fmtBits a.fmt) 8
  | [] => 0

/-- Item b follows item a in one transaction (R299). -/
def follows (a b : PlyItem) : Bool :=
  a.type == b.type && a.src == b.src && !a.final && !b.final &&
    match a.type, a.accs, b.accs with
    | 1, x :: _, y :: _ => x.addr + x.len == y.addr
    | 2, x :: _, y :: _ => x.addr + x.len == y.addr
    | 3, x :: _, y :: _ => x.addr + x.len == y.addr
    | 4, x :: _, y :: _ => x.inst == y.inst && x.elem + x.len == y.elem
    | 7, _, _ => true
    | _, _, _ => false

/-- A transaction formed of items in order: COUNT and the payload order of R297. -/
def formTx (xs : List PlyItem) : Option PlyItem :=
  match xs with
  | [] => none
  | x :: _ =>
    let data := if x.type = 4 then
        xs.flatMap (fun y => y.data.take (elemBytes y)) ++ xs.flatMap (fun y => (y.data.drop (elemBytes y)).take 1)
          ++ xs.flatMap (fun y => y.data.drop (elemBytes y + 1))
      else xs.flatMap (·.data)
    some { x with count := (xs.map (·.count)).foldl (· + ·) 0, data := data, accs := xs.flatMap (·.accs) }

/-- Add an item to the transactions of a window: to the group it follows, or as a group of its own. -/
def joinGroups (x : PlyItem) : List (List PlyItem) → List (List PlyItem)
  | [] => [[x]]
  | g :: gs =>
    match g.getLast? with
    | some y => if follows y x && (decide (g.length < 31) || x.type == 1 || x.type == 3) then (g ++ [x]) :: gs else g :: joinGroups x gs
    | none => g :: joinGroups x gs

/-- The items of a list that fit a window, as groups, and those that wait. -/
def fitItems (budget : Nat × Nat) : List PlyItem → List (List PlyItem) → Nat → List (List PlyItem) × List PlyItem
  | [], gs, _ => (gs, [])
  | x :: xs, gs, bytes =>
    let gs' := joinGroups x gs
    if bytes + x.data.length ≤ budget.1 ∧ gs'.length ≤ budget.2 then fitItems budget xs gs' (bytes + x.data.length)
    else (gs, x :: xs)

/-- The sc of window w at a position: 8 rc at its ratio, so that successive windows add up. -/
def windowSc (s : State) (p w : Nat) : Nat := (w + 1) * 8 * (pwAt s p).ratio / 56 - w * 8 * (pwAt s p).ratio / 56

/-- Items that miss window w wait for the next one (R299). -/
def noteWait (s : State) (q w : Nat) (x : PlyItem) : State :=
  let own := decide (itemRank x = 2) || x.type == 9
  let p := if own then posOf s x.src else portPos q
  let n := windowSc s p w
  let s := modPort s q fun y => { y with admitWait := sat32 y.admitWait n }
  if own then runPos s p fun l => l.strm 4 fun y => { y with free := y.free + n, doneAt := y.doneAt + n } else s

/-- The items of port q that may be admitted in window w (a poisoned reply is not sent, R473). -/
def readyItems (s : State) (q w : Nat) : List PlyItem × List PlyItem :=
  ((portAt s q).items.filter (fun x => decide (x.at_ ≤ 8000 * w)) |>.foldl (fun a x => insItem x a) [],
   (portAt s q).items.filter (fun x => !decide (x.at_ ≤ 8000 * w)))

/-- The next window of port q: after the last, not before the present, and the first in which an item is there. -/
def nextWindow (s : State) (q : Nat) : Nat :=
  let w := max ((portAt s q).window + 1) (cdiv s.bell.refTime 8)
  match ((portAt s q).items.map (·.at_)).min? with
  | some m => max w (cdiv m 8000)
  | none => w

/-- Items that are at the port wait for the next window. -/
def waitItems (s : State) (q w : Nat) (xs rest : List PlyItem) : State :=
  xs.foldl (fun s x => noteWait s q w x) (modPort s q fun y => { y with items := xs.map (fun x => { x with waited := true }) ++ rest })

/-- A window of a port admits what fits it: nothing from the receipt of a request to narrow until its frame has been sent (R307). -/
def sendWindow (s : State) (q w : Nat) : State :=
  let r := readyItems s q w
  if (portAt s q).shut.isSome then waitItems s q w r.1 r.2
  else
    let hold := r.1.filter fun x => itemRank x == 1 && x.poison
    let s := hold.foldl (fun s x => raisePort s q (ev 0x302 4 x.bad)) s
    let f := fitItems (plyBudget (portAt s q).txw) (r.1.filter fun x => !(itemRank x == 1 && x.poison)) [] 0
    let txs := f.1.filterMap formTx
    let asks := txs.filter fun x => itemRank x == 2 && x.type != 8
    waitItems (modPort s q fun y => { y with tx := txs, wire := y.wire ++ txs, sent := y.sent ++ asks }) q w f.2 r.2

/-- PLY_ADMISSION_WINDOW: the frames up to the window end; a port that is up and has an owner admits items (R298, R304), one that is down
sends what is left of its 64 frames (R310). The device's time stands while its oscillator is lost (R50). -/
def execPlyAdmissionWindow (q : Nat) (s : State) : Out :=
  onPort q <|
    if (portAt s q).state = 2 ∨ 0 < (portAt s q).downOut then
      let w := nextWindow s q
      let s := settleBy s (8000 * w)
      let s := modPort s q fun x => { runFrames (8 * w) x with window := w, tx := [] }
      let s := { s with bell := { s.bell with refTime := if s.bell.held then s.bell.refTime else max s.bell.refTime (8 * w) } }
      if (portAt s q).state = 2 ∧ (portOwner s q).isSome then sendWindow s q w else s
    else s

/-! Transactions of a partner (R297, R300) -/

/-- The local sc of a port's die edge. -/
def edgeNow (s : State) (q : Nat) : Nat := (spAt s (portPos q)).clock.lc

/-- An access of a partner. -/
def partnerAcc (q : Nat) (t : Trans) (kind : AccKind) (a len : Nat) : Access :=
  { Access.blank kind with src := t.src, via := some q, tag := t.tag, addr := a, len := len, local_ := t.src * 0x0200_0000, final := t.final }

/-- What a port delivers enters the mesh at its attachment position after the edge crossing, as a late flit for position p (R332, R335); it
arrives, when nothing holds it, after so many 56ths of p's reference sc. -/
def fromEdge (s : State) (q p : Nat) (a : Access) (back : Bool) : Nat × State :=
  let r := portPos q
  (56 * arriveRef s r p (edgeNow s q) (edgeLat p q), sendLate s a back r p (arriveRef s r p (edgeNow s q) 6) (route r p))

/-- The same for a line of HBM, which takes the lanes of the bridges on its way (R341): the sc of its presentation. -/
def edgeLine (s : State) (q off : Nat) (a : Access) : Nat × State :=
  let r := portPos q
  let i := off / 192000000000
  let n := sinceBell s r (edgeNow s q) + 6
  (edgeNow s q + 6,
   if a.kind == .getLine then
     sendLate s a true r r n ((laneSteps i (spireOf r)).map fun x => (x.1, x.2.1, x.2.2 + 24 * bridges r (156 * i) + 240))
   else sendLate s a false r r n (laneSteps (spireOf r) i))

/-- An access of a partner sets out from the die edge for the distaff or the HBM line it addresses; `lat` is its way on the partner's device
and over the link. -/
def deliver (s : State) (q lat : Nat) (a : Access) : State :=
  match whereIs a.addr with
  | .distaff n _ =>
    let p := posOf s n
    let x := fromEdge s q p a false
    { x.2 with fabric := { x.2.fabric with net := x.2.fabric.net ++ [{ a with lat := lat + edgeLat p q, at_ := x.1, sentAt := portTime s (portPos q) (edgeNow s q) 0 }] } }
  | .hbm off =>
    if a.kind = .putLine ∨ a.kind = .getLine then
      let x := edgeLine s q off a
      let e : HbmAcc := { pos := portPos q, job := (portOwner s q).getD 8, acc := a, write := a.kind == .putLine, off := off,
                          data := a.data, poison := false, errs := 0, at_ := x.1 }
      { x.2 with hbm := { x.2.hbm with waiting := x.2.hbm.waiting ++ [e] } }
    else s
  | _ => s

/-- Route latency that an access of a partner has behind it at the die edge (R286). -/
def linkLat (s : State) (q : Nat) (t : Trans) : Nat := t.lat + classLat (portAt s q).cls

/-- What a command of a partner's transaction does at a port that is up. -/
def atPort (s : State) (q : Nat) (f : State → State) : Out := onPort q (if (portAt s q).state = 2 then f s else s)

/-- PLY_PUT_RECEIVE: of the lines it carries, the bytes it writes (R297, assumption 36). -/
def execPlyPutReceive (q : Nat) (t : Trans) (s : State) : Out :=
  atPort s q fun s =>
    (segs t.addr t.span).zipIdx.foldl (fun s x =>
      let a := partnerAcc q t .putLine x.1.1 x.1.2
      deliver s q (linkLat s q t) { a with data := (lineCut a ((t.payload.drop (64 * x.2)).take 64) []).1 }) s

/-- PLY_GETREQ_RECEIVE: its lines are read whole (R297). -/
def execPlyGetreqReceive (q : Nat) (t : Trans) (s : State) : Out :=
  atPort s q fun s =>
    (List.range t.count).foldl (fun s i => deliver s q (linkLat s q t) (partnerAcc q t .getLine ((t.addr / 64 + i) * 64) 64)) s

/-- An answer to one of this device's accesses leaves the die edge for its carder. -/
def fromPartner (s : State) (q : Nat) (a : Access) (data : List Byte) (timeout ack : Bool) : State :=
  let p := posOf s a.src
  let x := fromEdge s q p a true
  let r : Reply := { dst := p, at_ := x.1, near := false, acc := a, data := data, poison := [], timeout := timeout, ack := ack }
  { x.2 with fabric := { x.2.fabric with replies := x.2.fabric.replies ++ [r] } }

/-- The lines of a GETREP given to the requests it answers in order; what they still wait for. -/
def spreadRep (q : Nat) : List Access → List Byte → State → State × List Access
  | [], _, s => (s, [])
  | a :: as, d, s =>
    if d.isEmpty then (s, a :: as) else spreadRep q as (d.drop 64) (fromPartner s q a (lineCut a (d.take 64) []).1 false false)

/-- PLY_GETREP_RECEIVE. -/
def execPlyGetrepReceive (q : Nat) (t : Trans) (s : State) : Out :=
  atPort s q fun s =>
    match pluck (fun x => x.type == 2 && x.src == t.src && x.tag == t.tag) (portAt s q).sent with
    | none => s
    | some (x, rest) =>
      let r := spreadRep q x.accs t.payload s
      modPort r.1 q fun y => { y with sent := if r.2.isEmpty then rest else { x with accs := r.2 } :: rest }

/-- Packets of an ADD (R256, R297): first element in its block and element count of each. -/
def addPackets (fmt blen oslot : Nat) (flag : Bool) (n bytes : Nat) : List (Nat × Nat) :=
  if fmt ≤ 1 then
    let z := if fmt = 0 then 4 else 2
    let per := packetLen fmt
    (List.range n).map fun i => (0, min per ((bytes / z) - i * per))
  else
    let b := 16 * 2 ^ blen
    let _ := oslot
    let per := packetLen fmt
    if b ≤ per then List.replicate n (0, b)
    else (List.range n).map fun i => if (i + b2n flag) % 2 = 0 then (0, per) else (per, b - per)

/-- The value of element i of a received narrow packet (R87, R104). -/
def packetElem (fmt : Nat) (t : F32) (bytes : List Byte) (scale first : Nat) (slots : List Nat) (i : Nat) : F32 :=
  let w := fmtBits fmt
  let v := match slots.find? fun x => x.testBit 23 && fldN x 22 16 == first + i with
    | some x => if scale = 0xFF then nan32 else widen16 (BitVec.ofNat 16 x)
    | none => toF32 (elemFv fmt (fldN (leNat bytes) (i * w + w - 1) (i * w)) scale)
  if t = one32 then v else fmul v t

/-- Element i of a received narrow packet is widened beyond the binary32 range (R104). -/
def packetOver (fmt : Nat) (bytes : List Byte) (scale first : Nat) (slots : List Nat) (i : Nat) : Bool :=
  let w := fmtBits fmt
  let v := elemFv fmt (fldN (leNat bytes) (i * w + w - 1) (i * w)) scale
  !slots.any (fun x => x.testBit 23 && fldN x 22 16 == first + i) && !v.isNonFinite && isNF (toF32 v)

/-- The add packets of a transaction: their values in order, and those widened beyond the range. -/
def splitAdd (t : Trans) : List (List F32 × List Nat) :=
  let ps := addPackets t.fmt t.blen t.oslot t.flag t.count t.payload.length
  if t.fmt ≤ 1 then
    let z := if t.fmt = 0 then 4 else 2
    (ps.foldl (fun (a : List (List F32 × List Nat) × List Byte) x =>
      (a.1 ++ [((List.range x.2).map fun i =>
          let n := leNat ((a.2.drop (i * z)).take z)
          if t.fmt = 0 then BitVec.ofNat 32 n else widen16 (BitVec.ofNat 16 n), [])], a.2.drop (x.2 * z))) ([], t.payload)).1
  else
    let w := fmtBits t.fmt
    let total := (ps.map fun x => cdiv (x.2 * w) 8).foldl (· + ·) 0
    let scales := (t.payload.drop total).take t.count
    let side := t.payload.drop (total + t.count)
    (ps.zipIdx.foldl (fun (a : List (List F32 × List Nat) × List Byte) x =>
      let n := cdiv (x.1.2 * w) 8
      let slots := (List.range t.oslot).map fun k => leNat ((side.drop ((x.2 * t.oslot + k) * 4)).take 4)
      let sc := (scales.getD x.2 0#8).toNat
      (a.1 ++ [((List.range x.1.2).map (packetElem t.fmt (BitVec.ofNat 32 t.aux) (a.2.take n) sc x.1.1 slots),
                (List.range x.1.2).filter (packetOver t.fmt (a.2.take n) sc x.1.1 slots))], a.2.drop n)) ([], t.payload)).1

/-- PLY_ADD_RECEIVE. -/
def execPlyAddReceive (q : Nat) (t : Trans) (s : State) : Out :=
  atPort s q fun s =>
    ((splitAdd t).foldl (fun (a : State × Nat) vs =>
      (deliver a.1 q (linkLat s q t)
        { partnerAcc q t .addPacket t.addr vs.1.length with vals := vs.1, wide := vs.2, elem := a.2, fmt := t.fmt }, a.2 + vs.1.length)) (s, t.elem)).1

/-- PLY_CFE_RECEIVE. -/
def execPlyCfeReceive (q : Nat) (t : Trans) (s : State) : Out :=
  atPort s q fun s =>
    let c : CfeArg := { op := t.fmt, state := t.fmt == 0 || t.flag, lword := 0, timeout := t.aux, acq := 0 }
    deliver s q (linkLat s q t) { partnerAcc q t .cfe t.addr 8 with data := t.payload, cfe := some c }

/-- PLY_CFEREP_RECEIVE. -/
def execPlyCferepReceive (q : Nat) (t : Trans) (s : State) : Out :=
  atPort s q fun s =>
    match pluck (fun x => x.type == 5 && x.src == t.src && x.tag == t.tag) (portAt s q).sent with
    | none => s
    | some (x, rest) =>
      let s := modPort s q fun y => { y with sent := rest }
      x.accs.foldl (fun s a => fromPartner s q a t.payload t.flag false) s

/-- One sent write transaction is acknowledged: the one named by its number, else the oldest of the carder. -/
def ackOne (q src tag : Nat) (s : State) : State :=
  let own (x : PlyItem) := x.src == src && x.type != 2
  match pluck (fun x => own x && x.tag == tag) (portAt s q).sent <|> pluck own (portAt s q).sent with
  | none => s
  | some (x, rest) =>
    let s := modPort s q fun y => { y with sent := rest }
    x.accs.foldl (fun s a => fromPartner s q a [] false true) s

/-- PLY_ACK_RECEIVE. -/
def execPlyAckReceive (q : Nat) (t : Trans) (s : State) : Out :=
  atPort s q fun s => (List.range t.count).foldl (fun s _ => ackOne q t.src t.tag s) s

end Sys2Proof.Machine
end

