-- ==== Sys2Proof/Machine/Channel.lean ====
section
/-!
DEFINITION. Message channels (R301 to R303, R320): CPLY OPEN, SEND and FREE, the transactions that set up a channel and return
its credits, and the timeout of a SEND.
-/
namespace Sys2Proof.Machine

/-! Fields of CPLY (Table 11.5) -/

def cpPort (w : KWord) : Nat := fld w 119 117
def cpCh (w : KWord) : Nat := fld w 116 114
def cpCount (w : KWord) : Nat := fld w 111 96
def cpLocal (w : KWord) : Nat := fld w 95 64
def cpTimeout (w : KWord) : Nat := fld w 63 32
def cpLines (w : KWord) : Nat := fld w 31 16
/-- Reserved bits are zero and the port exists. -/
def cpOk (w : KWord) : Bool := reservedClear w [(127, 113), (111, 16)] && decide (cpPort w ≤ 5)

/-- What a side names that this device has not opened: the ring of a partner that opened first waits in it. -/
def noSpd : Nat := 1000

/-- Both sides of a channel. -/
def sendSide (s : State) (q c : Nat) : Option ChanSide := (portAt s q).send.getD c none
def recvSide (s : State) (q c : Nat) : Option ChanSide := (portAt s q).recv.getD c none

/-- A side is open on this device. -/
def sideOpen (x : Option ChanSide) : Bool := match x with | some y => y.spd != noSpd | none => false

/-- A side bound to the spindle at position p: it stays bound to that logical number wherever the number moves (R303, R475). -/
def boundTo (s : State) (x : Option ChanSide) (p : Nat) : Bool := match x with | some y => lnumOf s p == some y.spd | none => false

def modSend (s : State) (q c : Nat) (f : Option ChanSide → Option ChanSide) : State :=
  modPort s q fun x => { x with send := modAt x.send c f }
def modRecv (s : State) (q c : Nat) (f : Option ChanSide → Option ChanSide) : State :=
  modPort s q fun x => { x with recv := modAt x.recv c f }

/-- A sending side without a ring. -/
def freshSide (n : Nat) : ChanSide :=
  { spd := n, entries := 0, lines := 0, ring := 0, linked := false, credits := 0, tail := 0, sent := 0 }

/-- The head CPLY raises an event that carries the record of Table 10.4 with the port as its object. -/
def Loc.cplyReject (l : Loc) (s : State) (p code : Nat) (q : QEntry) : Loc :=
  ((l.pop 4 (issueAt l 4) 1 (issueAt l 4)).kill 4).recEv s p code 4 q.woff (cpPort q.word) 0 0

/-- A CPLY OPEN breaks a limit: its reserved bits, or the ring of the receiving side (R301). -/
def openBad (w : KWord) : Bool :=
  !cpOk w || (bitOf w 113 && (cpCount w == 0 || cpLines w == 0 || cpLocal w % 64 != 0
    || !inDist (cpLocal w) (cpCount w * (cpLines w + 1) * 64)))

/-- A channel is opened: the receiving side sends its ring to the partner. -/
def openDo (s : State) (p : Nat) (q : QEntry) (l : Loc) : State :=
  let w := q.word
  let port := cpPort w
  let c := cpCh w
  let t := issueAt l 4
  let s1 := closePos s p (l.pop 4 t 1 (t + 1))
  if bitOf w 113 then
    let ring := ownAddr s p (cpLocal w)
    let it := { PlyItem.blank 8 with src := lnum s p, addr := ring, aux := cpCount w + put (cpLines w) 16,
                                     at_ := portTime s p t (edgeLat p port), pres := portTime s p t 0 }
    toPort (modRecv s1 port c fun _ => some { freshSide (lnum s p) with entries := cpCount w, lines := cpLines w, ring := ring, linked := true })
      port [it]
  else modSend s1 port c fun x => match x with
    | some y => some { y with spd := lnum s p }
    | none => some (freshSide (lnum s p))

/-- CPLY OPEN (R301, R303). -/
def execCplyOpen (p : Nat) (s : State) : Out :=
  issueS s p 4 (isOp 0x22 121 120 0) fun q l =>
    let w := q.word
    if openBad w then closePos s p (l.reject 4 0xA20 0 0 q)
    else if !portReady s p (cpPort w) then closePos s p (l.cplyReject s p 0x409 q)
    else if sideOpen (sendSide s (cpPort w) (cpCh w)) || sideOpen (recvSide s (cpPort w) (cpCh w)) then closePos s p (l.cplyReject s p 0x408 q)
    else openDo s p q l

/-- PLY_OPEN_RECEIVE: the channel records the ring (R301). -/
def execPlyOpenReceive (q ch : Nat) (t : Trans) (s : State) : Out :=
  if ch < 8 then
    atPort s q fun s =>
      let n := t.aux % 2 ^ 16
      modSend s q ch fun x =>
        let y := x.getD (freshSide noSpd)
        some { y with entries := n, lines := t.aux / 2 ^ 16 % 2 ^ 16, ring := t.addr, linked := true, credits := n, tail := 0 }
  else .fault (.noSuchUnit "channel" ch)

/-- Device address of a partner's address behind a port (Table 9.1). -/
def partnerAddr (q a : Nat) : Nat := 0x0100_0000_0000_0000 + q * 0x0001_0000_0000_0000 + a

/-- The accesses of a SEND: the entry's lines, then the FILL of its flag word (R302). -/
def sendAccs (w : KWord) (x : ChanSide) : List Access :=
  let e := partnerAddr (cpPort w) (x.ring + x.tail * (x.lines + 1) * 64)
  (List.range x.lines).map (fun i =>
    { Access.blank .putLine with addr := e + 64 * i, len := 64, local_ := cpLocal w + 64 * i }) ++
  [{ Access.blank .cfe with
      addr := e + 64 * x.lines, len := 8, data := leBytes 8 (x.sent % 2 ^ 64), final := true,
      cfe := some { op := 0, state := true, lword := 0, timeout := cpTimeout w, acq := 0 } }]

/-- The words of stream 4 of a position may issue but for the wait of its head. -/
def mayIssueWaiting (s : State) (p : Nat) : Bool :=
  mayIssue (modSp s p fun sp => { sp with streams := modAt sp.streams 4 fun q => { q with waitSince := none } }) p 4

/-- A CPLY SEND breaks a limit (R302). -/
def sendBad (w : KWord) : Bool := !cpOk w || cpTimeout w == 0 || cpLocal w % 64 != 0

/-- A SEND that has a credit: its lines and its flag wait for their presentation; the credit, the tail and the count move (R302). -/
def sendDo (s : State) (p : Nat) (q : QEntry) (x : ChanSide) (l : Loc) : State :=
  let w := q.word
  let t := issueAt l 4
  let as := newAccs s p t q l (sendAccs w x)
  let s2 := closePos s p (l.presents t q as 0)
  modSend s2 (cpPort w) (cpCh w) fun _ =>
    some { x with credits := x.credits - 1, tail := if x.tail + 1 = x.entries then 0 else x.tail + 1, sent := (x.sent + 1) % 2 ^ 64 }

/-- CPLY SEND (R302, R303). -/
def execCplySend (p : Nat) (s : State) : Out :=
  onPosS s p fun l =>
    match (strmOf l.sp 4).queue with
    | [] => s
    | q :: _ =>
      let w := q.word
      if !(mayIssueWaiting s p && q.marker.isNone && isOp 0x22 121 120 1 w) then s
      else if sendBad w then closePos s p (l.reject 4 0xA20 0 0 q)
      else if !portReady s p (cpPort w) then closePos s p (l.cplyReject s p 0x409 q)
      else if !boundTo s (sendSide s (cpPort w) (cpCh w)) p then closePos s p (l.cplyReject s p 0x408 q)
      else
        let x := (sendSide s (cpPort w) (cpCh w)).getD (freshSide (lnum s p))
        if x.credits = 0 then
          if (strmOf l.sp 4).waitSince.isSome then s
          else closePos s p ((l.at_ (issueAt l 4)).strm 4 fun y => { y with waitSince := some (issueAt l 4) })
        else if !inDist (cpLocal w) (x.lines * 64) then closePos s p (l.reject 4 0xA20 0 0 q)
        else sendDo s p q x l

/-- CHANNEL_CREDIT_TIMEOUT (R302, R276). -/
def execChannelCreditTimeout (p : Nat) (s : State) : Out :=
  onPosS s p fun l =>
    match (strmOf l.sp 4).waitSince, (strmOf l.sp 4).queue with
    | some t, q :: _ =>
      let w := q.word
      let e := t + cpTimeout w
      let x := (sendSide s (cpPort w) (cpCh w)).getD (freshSide (lnum s p))
      if !treadleRuns s p 4 || !isOp 0x22 121 120 1 w || x.credits != 0 then s
      else
        closePos s p (((l.pop 4 e 1 e).kill 4).recEv s p 0x407 4 q.woff (cpPort w) 0 1)
    | _, _ => s

/-- A FREE returns its credits in transactions of up to 31 (R302). -/
def freeDo (s : State) (p : Nat) (q : QEntry) (l : Loc) : State :=
  let w := q.word
  let t := issueAt l 4
  let n := cdiv (cpCount w) 31
  let its := (List.range n).map fun i =>
    { PlyItem.blank 9 with src := lnum s p, aux := cpCh w, count := min 31 (cpCount w - 31 * i), at_ := portTime s p (t + i) (edgeLat p (cpPort w)),
                                     pres := portTime s p (t + i) 0 }
  toPort (closePos s p (l.pop 4 t n (t + n))) (cpPort w) its

/-- CPLY FREE (R302): credits return in transactions of up to 31. -/
def execCplyFree (p : Nat) (s : State) : Out :=
  issueS s p 4 (isOp 0x22 121 120 2) fun q l =>
    let w := q.word
    if !cpOk w || cpCount w == 0 then closePos s p (l.reject 4 0xA20 0 0 q)
    else if !portReady s p (cpPort w) then closePos s p (l.cplyReject s p 0x409 q)
    else if !boundTo s (recvSide s (cpPort w) (cpCh w)) p then closePos s p (l.cplyReject s p 0x408 q)
    else freeDo s p q l

/-- PLY_CREDIT_RECEIVE (R302, R303). -/
def execPlyCreditReceive (q : Nat) (t : Trans) (s : State) : Out :=
  atPort s q fun s =>
    let c := t.aux % 8
    match sendSide s q c with
    | none => s
    | some x =>
      if x.credits + t.count > 65535 then
        let p := posOf s x.spd
        let e : Ev := { code := 0x408, kind := kindOf 0x408, stream := 7, woff := 0, da := 0, db := 0,
                        rcd := some (syncRec s p 0x408 0 7 0 q (min x.credits 65535) (t.count)) }
        if decide (p < 624) then raiseAt s p e else raisePort s q e
      else
        let s := modSend s q c fun _ => some { x with credits := x.credits + t.count }
        let p := posOf s x.spd
        if decide (p < 624) then runPos s p fun l => l.at_ (arriveAt s (portPos q) p (edgeNow s q) 0) else s

end Sys2Proof.Machine
end

