-- ==== Sys2Proof/Machine/Chost.lean ====
section
/-!
DEFINITION. Host memory and CHOST (R48, R49, R366, R367): transfers between a spindle's window and host memory.
-/
namespace Sys2Proof.Machine

/-! Host memory -/

/-- n bytes of host memory. -/
def hostRead (s : State) (a n : Nat) : List Byte := memRead s.hif.host a n

/-- The host lines of a byte range. -/
def hostLines (a n : Nat) : List Nat := if n = 0 then [] else (List.range ((a + n - 1) / 64 - a / 64 + 1)).map (a / 64 + ·)

/-- Bytes written to host memory; lines written whole lose the CXL poison indication, the listed lines get it. -/
def hostWrite (s : State) (a : Nat) (bs : List Byte) (bad : List Nat) : State :=
  let whole (n : Nat) : Bool := decide (a ≤ 64 * n) && decide (64 * n + 64 ≤ a + bs.length)
  { s with hif := { s.hif with host := memWrite s.hif.host a bs,
                               hostPoison := bad.foldl (fun l n => insNat n l) (s.hif.hostPoison.filter fun n => !whole n) } }

/-! CHOST (Table 14.10) -/

def hxLines (w : KWord) : Nat := fld w 103 89
def hxLocal (w : KWord) : Nat := 64 * fld w 88 70
def hxHost (w : KWord) : Nat := 64 * fld w 45 0

/-- A CHOST breaks a limit (Table 14.10, R366). -/
def chostBad (w : KWord) : Bool :=
  !reservedClear w [(127, 70), (45, 0)] || hxLines w == 0 || decide (hxLines w > 16384) || !inDist (hxLocal w) (64 * hxLines w)

/-- A CHOST issues: its transfer is in flight. -/
def chostDo (s : State) (p op : Nat) (q : QEntry) (l : Loc) : State :=
  let w := q.word
  let t := issueAt l 4
  let x : Xfer := { pos := p, lnum := lnum s p, job := (jobAt s p).getD 8, get := op == 0, note := bitOf w 120, tag := fld w 119 104,
                    lines := hxLines w, local_ := hxLocal w, host := hxHost w, frame := s.bell.count, late := false }
  let s := closePos s p (l.pop 4 t 1 (t + 1))
  { s with hif := { s.hif with xfers := s.hif.xfers ++ [x] } }

/-- CHOST with operation `op`: 0 GET, 1 PUT (R366). At most sixteen transfers of a spindle are in flight. -/
def chost (p op : Nat) (s : State) : Out :=
  issueS s p 4 (isOp 0x23 121 121 op) fun q l =>
    if chostBad q.word then closePos s p (l.reject 4 0xA20 0 0 q)
    else if (s.hif.xfers.filter fun x => x.pos == p).length ≥ 16 then s
    else chostDo s p op q l

/-- CHOST GET. -/
def execChostGet (p : Nat) (s : State) : Out := chost p 0 s
/-- CHOST PUT. -/
def execChostPut (p : Nat) (s : State) : Out := chost p 1 s

/-- A transfer leaves those in flight. -/
def dropXfer (s : State) (x : Xfer) : State :=
  { s with hif := { s.hif with xfers := match pluck (· == x) s.hif.xfers with | some r => r.2 | none => s.hif.xfers } }

/-- The TYPE 5 entry of a transfer, when NOTE asks for it (Table 14.12). -/
def noteXfer (s : State) (x : Xfer) (bell : Nat) : State :=
  if x.note then
    addDue s { job := some x.job, type := 5, code := 0, frame := bell,
               body := x.tag + put (if x.get then 0 else 1) 16 + put x.lnum 17 + put (bell % 2 ^ 32) 27 }
  else s

/-- A host read in error or a rejected host write (R367): a GET's lines are written poisoned. -/
def xferError (s : State) (x : Xfer) : State :=
  let s := raiseAt (cxlError (dropXfer s x) (!x.get)) x.pos (ev 0x504 x.lnum x.host)
  if x.get then
    let n := 64 * x.lines
    let d := drawBytes s n
    if !live s x.pos then d.2 else runPos d.2 x.pos fun l => l.wrP x.local_ d.1 ((List.range (8 * x.lines)).map fun i => x.local_ + 8 * i)
  else s

/-- The data of a transfer move and are visible from the bell (R48). -/
def xferDone (s : State) (x : Xfer) (bell : Nat) : State :=
  let n := 64 * x.lines
  let s := payBytes s x.job n
  if x.get then
    if (hostLines x.host n).any (s.hif.hostPoison.contains ·) then xferError s x
    else noteXfer (runPos (dropXfer s x) x.pos fun l => if live s x.pos then l.wr x.local_ (hostRead s x.host n) else l) x bell
  else
    let l := (openPos s x.pos).scrub x.local_ n
    let bad := (l.poisoned x.local_ n).map fun o => (x.host + (o - x.local_)) / 64
    noteXfer (hostWrite (dropXfer (closePos s x.pos l) x) x.host (l.rd x.local_ n) bad) x bell

/-- The oldest transfer in flight of position p that `f` selects. -/
def xferOf (s : State) (p : Nat) (f : Xfer → Bool) : Option Xfer := s.hif.xfers.find? fun x => x.pos == p && f x

/-- HOST_TRANSFER_VISIBLE (R48, R359). -/
def execHostTransferVisible (p : Nat) (s : State) : Out :=
  onPosS s p fun _ =>
    match xferOf s p fun x => x.late || decide (x.frame + 2 ≤ s.bell.count) with
    | none => s
    | some x =>
      let t := xferDone s x (max (x.frame + 2) s.bell.count)
      if x.late then 
        let by_ := if t.bell.waitTill < t.bell.refTime then x.lnum else min t.bell.waitBy x.lnum
        { t with bell := { t.bell with waitTill := max t.bell.waitTill t.bell.refTime, waitBy := by_ } } else t

/-- HOST_DATA_LATE (R49): in strict mode the deadline's bell has fired and the job faults; in elastic mode the bell waits. -/
def execHostDataLate (p : Nat) (s : State) : Out :=
  onPosS s p fun _ =>
    let due := if elastic s then s.bell.count + 1 else s.bell.count
    match xferOf s p fun x => !x.late && decide (x.frame + 2 ≤ due) with
    | none => s
    | some x =>
      let s1 := { s with hif := { s.hif with xfers := s.hif.xfers.map fun y => if y = x then { y with late := true } else y } }
      raiseAt s1 p { ev 0xB08 x.tag x.frame with kind := if elastic s then 0 else 1 }

/-- HOST_ACCESS_ERROR (R367). -/
def execHostAccessError (p : Nat) (s : State) : Out :=
  onPosS s p fun _ =>
    match xferOf s p fun _ => true with
    | none => s
    | some x => xferError s x

end Sys2Proof.Machine
end

