-- ==== Sys2Proof/Machine/Hank.lean ====
section
/-!
DEFINITION. The hank (R203 to R214): CHANK PUSH and POP, their timeouts, and the mover that spills entries to the cellar and
refills them.
-/
namespace Sys2Proof.Machine

/-! Sizes (R204) -/

def HankRec.lines (r : HankRec) : Nat := r.size / 64
def HankRec.hil (r : HankRec) : Nat := r.hi * r.size / 16384
def HankRec.lol (r : HankRec) : Nat := r.lo * r.size / 16384
/-- Lines of the region that an entry holds. -/
def HankEntry.all (e : HankEntry) : Nat := e.lines + 1
/-- USED: lines of the region held by entries: those that an unfinished POP holds and one being refilled are among them. -/
def Hank.used (h : Hank) : Nat :=
  (h.region.map (·.all)).foldl (· + ·) 0 + (match h.mover with | some m => if m.refill then m.ent.all else 0 | none => 0)
/-- Lines the cellar holds. -/
def Hank.cellarLines (h : Hank) : Nat := (h.cellar.map (·.all)).foldl (· + ·) 0
/-- Free lines of the cellar. -/
def Hank.cellarRoom (h : Hank) : Nat := h.record.csize / 64 - h.cellarLines
/-- Local offset of line i of the region, wrapping. -/
def Hank.off (h : Hank) (i : Nat) : Nat := h.record.base + 64 * (i % h.record.lines)
/-- The region line where a refilled entry of n lines begins: just before the oldest entry. -/
def Hank.before (h : Hank) (n : Nat) : Nat :=
  let o := match h.region with | e :: _ => e.line | [] => h.newest
  (o + h.record.lines - n % h.record.lines) % h.record.lines

/-! CHANK (Table 7.7) -/

def chTag (w : KWord) : Nat := fld w 119 104
def chAddr (w : KWord) : Nat := fld w 95 64
def chTimeout (w : KWord) : Nat := fld w 63 32
def chLines (w : KWord) : Nat := fld w 31 8

/-- A CHANK breaks a limit (R203, R205). -/
def chBad (r : HankRec) (w : KWord) : Bool :=
  !reservedClear w [(127, 120), (119, 104), (95, 8)] || r.size == 0 || chAddr w % 64 != 0 || chTimeout w == 0 || chLines w == 0
    || decide (chLines w + 1 > r.lines) || !inDist (chAddr w) (64 * chLines w) || overlaps (chAddr w) (64 * chLines w) r.base r.size

/-- The object of the record of E-0x360 and E-0x362 (R211), in the bits that Table 10.4 gives OBJECT: the region's line at the newest end, the
cellar lines held, and the high bits of USED and LINES, whose low 16 stand in SEEN and COUNT (DESIGN CHOICE, assumption 74). -/
def hankObj (h : Hank) (n : Nat) : Nat :=
  h.newest % 2 ^ 19 + put (h.cellarLines % 2 ^ 32) 19 + put (h.used / 2 ^ 16 % 8) 51 + put (n / 2 ^ 16 % 8) 54

/-- The wait of a PUSH or POP ends. -/
def Loc.wake (l : Loc) : Loc := l.hankM fun h => { h with wait := none }

/-- E-0x360 or E-0x362 in sc t, which stops the stream. -/
def Loc.hankErr (l : Loc) (s : State) (p code t : Nat) (q : QEntry) : Loc :=
  let l := (l.pop 4 t 1 t).wake.kill 4
  l.syncErr s p code 0 4 q.woff (hankObj l.sp.hank (chLines q.word)) l.sp.hank.used (chLines q.word)

/-- The sc from t on in which every POP under way has completed, so that the newest end is that of the entries that stay (R207). -/
def popsDone (h : Hank) (t : Nat) : Nat := h.region.foldl (fun m e => max m (e.popAt.getD 0)) t

/-- The sc from t on in which n lines are free at the newest end; none while only the mover can free them. DESIGN CHOICE (assumption 107): a PUSH
behind a POP under way waits for its completion, whatever else is free. -/
def roomAt (h : Hank) (n t : Nat) : Option Nat :=
  let u := popsDone h t
  if n + (h.settle u).used ≤ h.record.lines then some u else none

/-- Lines copied with a hank entry: line i of the data goes with line i + 1 of the entry, 8 to an sc, visible 9 sc later (R206). -/
def copyData (t n : Nat) (src dst : Nat → Nat) (l : Loc) : Loc :=
  (List.range n).foldl (fun l i => l.copyLines (src i) (dst i) 64 fun _ => t + (i + 1) / 8 + 9) l

/-- A PUSH starts in sc t (R204, R206). -/
def startPush (t : Nat) (q : QEntry) (l : Loc) : Loc :=
  let w := q.word
  let n := chLines w
  let occ := cdiv (n + 1) 8
  let l := (l.pop 4 t occ (t + occ - 1 + 9)).wake
  let h := l.sp.hank
  let e : HankEntry := { line := h.newest, tag := chTag w, lines := n, seq := h.seq % 2 ^ 32, popAt := none }
  let l := l.seenAt (t + 9) (·.wr (h.off h.newest) (leBytes 64 (e.tag + put n 16 + put e.seq 64)))
  let l := copyData t n (fun i => chAddr w + 64 * i) (fun i => h.off (h.newest + 1 + i)) l
  l.hankM fun h => { h with region := h.region ++ [e], newest := (h.newest + n + 1) % h.record.lines, seq := h.seq + 1 }

/-- A waiting PUSH cannot be relieved (R210): the region's entries, one that an unfinished POP holds among them, from the oldest on. -/
def unrelievable (h : Hank) (n : Nat) : Bool :=
  let free := h.record.lines - h.used
  if h.record.csize = 0 ∨ h.record.lpf = 0 then decide (free < n + 1)
  else
    let spilling := match h.mover with | some m => if m.refill then 0 else m.ent.all | none => 0
    let rest := match h.mover with | some m => if m.refill then h.region else h.region.tail | none => h.region
    let r := rest.foldl (fun (a : Nat × Nat × Bool) e =>
      if a.2.2 && decide (e.all ≤ a.2.1) then (a.1 + e.all, a.2.1 - e.all, true) else (a.1, a.2.1, false))
      (free + spilling, h.cellarRoom - spilling, true)
    decide (r.1 < n + 1)

/-- A CHANK waits from sc t on. -/
def Loc.hankWait (l : Loc) (t : Nat) (q : QEntry) : Loc := (l.at_ t).hankM fun h => { h with wait := some { q := q, since := t } }

/-- A PUSH at issue in sc t: it starts, raises E-0x360, or waits (R206, R210). -/
def pushDo (s : State) (p t : Nat) (q : QEntry) (l : Loc) : Loc :=
  let h := l.sp.hank
  let n := chLines q.word
  if roomAt h (n + 1) t = some t then startPush t q l
  else if h.record.fault && unrelievable h n then l.hankErr s p 0x360 t q
  else l.hankWait t q

/-- The treadle of a position may let a waiting CHANK with operation `op` start. -/
def hankWaits (s : State) (p op : Nat) (l : Loc) : Option HankWait :=
  l.sp.hank.wait.filter fun w => isOp 0x24 121 120 op w.q.word && treadleRuns s p 4

/-- A PUSH that waits for a POP starts when the POP completes, unless its timeout comes first (R211). -/
def pushAgain (w : HankWait) (l : Loc) : Loc :=
  match roomAt l.sp.hank (chLines w.q.word + 1) w.since with
  | some u => if u ≤ w.since + chTimeout w.q.word then startPush u w.q l else l
  | none => l

/-- CHANK PUSH (R205, R206, R210); one that waits tries again. -/
def execChankPush (p : Nat) (s : State) : Out :=
  match hankWaits s p 0 (openPos s p) with
  | some w => onPos s p (pushAgain w)
  | none => issue s p 4 (isOp 0x24 121 120 0) fun q l =>
      if chBad l.sp.hank.record q.word then l.reject 4 0xA20 0 0 q else pushDo s p (issueAt l 4) q l

/-- The TAG and LINES of the newest entry do not match the POP: E-0x361 (R207). -/
def Loc.orderErr (l : Loc) (t : Nat) (q : QEntry) (e : Option HankEntry) : Loc :=
  let l := (l.pop 4 t 1 t).wake.kill 4
  let top := match e with | some e => put e.lines 24 + put e.tag 48 | none => 0
  l.raise (evW 0x361 4 q.woff (chTag q.word) (chLines q.word + top))

/-- The newest entry that no POP has started on. -/
def Hank.top (h : Hank) : Option HankEntry := (h.region.filter HankEntry.live).getLast?

/-- A POP of the newest region entry copies its lines, and frees them when it completes; a spill of the entry is abandoned (R207). -/
def popDo (t : Nat) (q : QEntry) (e : HankEntry) (l : Loc) : Loc :=
  let occ := cdiv (e.lines + 1) 8
  let done := t + occ - 1 + 9
  let l := (l.pop 4 t occ done).wake
  let h := l.sp.hank
  let l := copyData t e.lines (fun i => h.off (e.line + 1 + i)) (fun i => chAddr q.word + 64 * i) l
  let mine (m : Mover) : Bool := !m.refill && m.ent.seq == e.seq
  l.hankM fun h => { h with region := h.region.map (fun x => if x.seq = e.seq then { x with popAt := some done } else x),
                            mover := h.mover.filter (fun m => !mine m) }

/-- A POP starts on the newest region entry in sc t, or raises E-0x361 (R207). -/
def startPop (t : Nat) (q : QEntry) (l : Loc) : Loc :=
  match l.sp.hank.top with
  | none => l
  | some e => if e.tag != chTag q.word || e.lines != chLines q.word then l.orderErr t q (some e) else popDo t q e l

/-- The mover refills the region. -/
def Hank.refilling (h : Hank) : Bool := h.mover.any (·.refill)

/-- CHANK POP (R205, R207). -/
def execChankPop (p : Nat) (s : State) : Out :=
  issue s p 4 (isOp 0x24 121 120 1) fun q l =>
    let h := l.sp.hank
    let t := issueAt l 4
    if chBad h.record q.word then l.reject 4 0xA20 0 0 q
    else if h.top.isSome then startPop t q l
    else if h.cellar.isEmpty && !h.refilling then l.orderErr t q none
    else l.hankWait t q

/-- The sc in which the mover's entry has moved whole (R208). -/
def Mover.doneAt (m : Mover) : Option Nat :=
  if m.next = m.ent.all then m.last.map (· + if m.refill then 244 else 237) else none

/-- What the wait is for may come by sc e: a POP completes, or the mover's entry. -/
def mayWake (h : Hank) (w : HankWait) (e : Nat) : Bool :=
  (h.mover.bind Mover.doneAt).any (· ≤ e) || (isOp 0x24 121 120 0 w.q.word && (roomAt h (chLines w.q.word + 1) w.since).any (· ≤ e))

/-- The wait's timeout is the sc that ends it: the waiting word raises its event (R211). -/
def hankTimeout (p op code : Nat) (s : State) : Out :=
  onPos s p fun l =>
    match hankWaits s p op l with
    | some w =>
      let e := w.since + chTimeout w.q.word
      if mayWake l.sp.hank w e then l else l.hankErr s p code e w.q
    | none => l

/-- HANK_PUSH_TIMEOUT. -/
def execHankPushTimeout (p : Nat) (s : State) : Out := hankTimeout p 0 0x360 s
/-- HANK_POP_TIMEOUT. -/
def execHankPopTimeout (p : Nat) (s : State) : Out := hankTimeout p 1 0x362 s

/-! The mover (R208, R209) -/

/-- The mover of a position may work: its job runs, it does not skip, budget is left. -/
def moverRuns (s : State) (p : Nat) : Bool :=
  let sp := spAt s p
  (match jobAt s p with | some j => (jobOf s j).state == 2 | none => false) && sp.skipping == 0 && !inCheckpoint s p && !s.bell.held && powered s p
    && decide (sp.hank.spent < sp.hank.record.lpf)

/-- The oldest region entry, when it fits in the cellar's free room. -/
def spillable (h : Hank) : Option HankEntry :=
  match h.region with
  | e :: _ => if e.live && h.record.csize != 0 && decide (e.all ≤ h.cellarRoom) then some e else none
  | [] => none

/-- The transfer that R209's list starts. -/
def moverPick (h : Hank) : Option Mover :=
  let refill : Option Mover := h.cellar.getLast?.map fun e =>
    { refill := true, ent := { e with line := h.before e.all, popAt := none }, cell := e.line, next := 0, last := none }
  let spill : Option Mover := (spillable h).map fun e => { refill := false, ent := e, cell := h.cellarLines, next := 0, last := none }
  let popWaits := match h.wait with | some w => isOp 0x24 121 120 1 w.q.word | none => false
  let pushWaits := match h.wait with | some w => isOp 0x24 121 120 0 w.q.word | none => false
  if popWaits && refill.isSome then refill
  else if pushWaits && spill.isSome then spill
  else if decide (h.used > h.record.hil) && decide (h.region.length ≥ 2) && spill.isSome then spill
  else match h.cellar.getLast? with
    | some e => if decide (h.used < h.record.lol) && decide (h.used + e.all ≤ h.record.hil) then refill else none
    | none => none

/-- HANK_MOVER_START. -/
def execHankMoverStart (p : Nat) (s : State) : Out :=
  onPos s p fun l =>
    if moverRuns s p && l.sp.hank.mover.isNone then l.hankM fun h => { h with mover := (moverPick h).map fun m => { m with ready := l.sp.clock.lc } } else l

/-- The mover's next line where it can move one in the cycle in progress: the mover, its job, the line's HBM offset, and its sc, which is that
from which the mover may move it or the cycle's first (R208, R340). The mover works, the line's channel has a credit of the job left, and the
window is open. -/
def moverNext (s : State) (p : Nat) : Option (Mover × Nat × Nat × Nat) :=
  let sp := spAt s p
  match sp.hank.mover, jobAt s p with
  | some m, some j =>
    let off := hbmOff (sp.hank.record.cellar + 64 * (m.cell + m.next))
    let t := max m.ready (cycleSc s p)
    if moverRuns s p && decide (m.next < m.ent.all) && decide (0 < (getKey (creditKey j (stackOf off) (chanOf off)) s.hbm.credits).getD 0)
        && decide (rcOf s p t < s.bell.lastBell + workWin s + stretchWin s) then some (m, j, off, t) else none
  | _, _ => none

/-- A mover of job j has a line for this channel that ranks before `key` (R340). -/
def moverAhead (s : State) (j st ch key : Nat) : Bool :=
  (jobSet s j).any fun n => match moverNext s (posOf s n) with
    | some (m, k, off, t) => k == j && stackOf off == st && chanOf off == ch && decide (grantKey s (posOf s n) m.ready t n true < key)
    | none => false

/-- A carder of job j has a line for this channel that ranks before `key`. -/
def carderAhead (s : State) (j st ch key : Nat) : Bool :=
  s.hbm.waiting.any fun x => x.job == j && stackOf x.off == st && chanOf x.off == ch && decide (lineKey s x < key)

/-- The mover's line is granted in sc t with a credit of job j: a spill's line is read and on its way to HBM, where it lands 237 sc later; a
refill's is read there and arrives 240 sc later (R208). -/
def moverStep (s : State) (p j : Nat) (m : Mover) (off t : Nat) : State :=
  let k := creditKey j (stackOf off) (chanOf off)
  let o := (spAt s p).hank.off (m.ent.line + m.next)
  let l := (openPos s p).at_ t
  let l := if m.refill then l else l.scrub o 64
  let acc := { Access.blank (if m.refill then .getLine else .putLine) with src := lnum s p, tag := 2 ^ 64, addr := hbmBase + off, len := 64, local_ := o }
  let x : HbmAcc :=
    { pos := p, job := j, acc := acc, write := !m.refill, off := off, mover := true, at_ := t + if m.refill then 240 else 237,
      data := if m.refill then hbmRead s off 64 else l.rd o 64, poison := !m.refill && !(l.granules o 64).isEmpty,
      errs := if m.refill then hbmErrs s off else 0 }
  let s := { s with hbm := { s.hbm with granted := s.hbm.granted ++ [x], credits := insKey k ((getKey k s.hbm.credits).getD 0 - 1) s.hbm.credits } }
  payLines (closePos s p (l.hankM fun h =>
    { h with mover := some { m with next := m.next + 1, last := some t, ready := t + 1 }, spent := h.spent + 1 })) j 1

/-- HANK_MOVER_LINE (R208, R340): the next line of the entry in transfer takes a credit of its channel and moves, when none is before it. -/
def execHankMoverLine (p : Nat) (s : State) : Out :=
  onPosS s p fun _ =>
    match moverNext s p with
    | some (m, j, off, t) =>
      let key := grantKey s p m.ready t (lnum s p) true
      if moverAhead s j (stackOf off) (chanOf off) key || carderAhead s j (stackOf off) (chanOf off) key then s
      else moverStep s p j m off t
    | none => s

/-- What waits on the mover may start in sc t (R206, R207). -/
def wakeHank (s : State) (p t : Nat) (l : Loc) : Loc :=
  match hankWaits s p 0 l, hankWaits s p 1 l with
  | some w, _ => if roomAt l.sp.hank (chLines w.q.word + 1) t = some t then startPush t w.q l else l
  | _, some w => if l.sp.hank.top.isSome then startPop t w.q l else l
  | _, _ => l

/-- E-0x363 at most once per bell (R213). DESIGN CHOICE (assumption 109): it is raised where a spill raises the level, and not again in a later bell
in which the level only stays. -/
def highWater (l : Loc) : Loc :=
  let h := l.sp.hank
  if h.record.cwm != 0 && decide (h.cellarLines * 16384 > h.record.cwm * h.record.csize) && !h.warned then
    (l.hankM fun h => { h with warned := true }).raise (ev 0x363 0 h.cellarLines)
  else l

/-- The mover's entry has moved whole in the direction `refill`, and none of its lines is under way: its sc. -/
def moverDone (s : State) (p : Nat) (refill : Bool) (h : Hank) : Option (Mover × Nat) :=
  if s.hbm.granted.any (fun x => x.mover && x.pos == p) then none
  else (h.mover.filter (·.refill == refill)).bind fun m => m.doneAt.map fun t => (m, t)

/-- HANK_SPILL_COMPLETE (R208, R213): the entry's region lines are free and its lines count as spilled. -/
def execHankSpillComplete (p : Nat) (s : State) : Out :=
  onPos s p fun l =>
    match moverDone s p false l.sp.hank with
    | some (m, t) =>
      let l := (l.at_ t).hankM fun h => { h with mover := none, region := h.region.tail, cellar := h.cellar ++ [{ m.ent with line := m.cell }] }
      wakeHank s p t (highWater (l.count fun c => { c with spilled := sat32 c.spilled m.ent.all }))
    | none => l

/-- HANK_REFILL_COMPLETE (R208, R209). -/
def execHankRefillComplete (p : Nat) (s : State) : Out :=
  onPos s p fun l =>
    match moverDone s p true l.sp.hank with
    | some (m, t) =>
      let l := (l.at_ t).hankM fun h => { h with mover := none, region := m.ent :: h.region, cellar := h.cellar.dropLast }
      wakeHank s p t (l.count fun c => { c with refilled := sat32 c.refilled m.ent.all })
    | none => l

/-! Grants (R340) -/

/-- HBM_GRANT. -/
def execHbmGrant (st ch : Nat) (s : State) : Out :=
  if st < 8 then
    if ch < 32 then
      let s := grantsBy s st ch
      match nextGrant s st ch with
      | none => .next s
      | some x =>
        let g := grantAt s x
        if isLate s x.acc (!x.write) || moverAhead s x.job st ch (lineKey s x) then .next s
        else .next (runPos (grantLine s st ch g x) x.pos (·.at_ g))
    else .fault (.noSuchUnit "channel" ch)
  else .fault (.noSuchUnit "stack" st)

end Sys2Proof.Machine
end

