-- ==== Sys2Proof/Machine/Faults.lean ====
section
/-!
DEFINITION. Failures of the block's own parts (chapter 20): spindle faults, abandoned repairs, bits that flip in memories, overruns
and a lost reference.
-/
namespace Sys2Proof.Machine

/-- The position of logical number n is being filled by the refill that runs (R476). -/
def refilling (s : State) (p : Nat) : Option (Nat × Nat) :=
  match s.repair.queue with
  | (j, n) :: _ => if s.repair.active && posOf s n == p then some (j, n) else none
  | [] => none

/-- The repair of number n of job j is abandoned and the job's queued refills are dropped; those that are complete are still reported (R478). -/
def abandonRepair (s : State) (j n : Nat) : State :=
  let q := s.repair.queue.filter (·.1 != j)
  let s := { s with repair := { s.repair with queue := q, active := !q.isEmpty } }
  raiseJob (modJob s j fun b => { b with abandoned := true }) j (ev 0xA05 n 0)

/-- A spindle fault of position p (R474): it leaves service, its number waits for a remap and its job takes a stop fault. -/
def spindleFault (s : State) (p cause stream : Nat) (e : Ev) : State :=
  if (spAt s p).service.oos then raiseAt s p e
  else
    let s := raiseAt s p e
    let s := modSp s p fun sp => { sp with service := { oos := true, cause := cause, stream := stream } }
    let s := match lnumOf s p with
      | some n => { s with repair := { s.repair with failed := insNat n s.repair.failed } }
      | none => s
    match refilling s p with
    | some (j, n) => abandonRepair s j n
    | none => s

/-- Streams are 0 to 5, the treadle 7. -/
def onEngine (p k : Nat) (r : State) : Out :=
  if p < 624 then (if k < 6 ∨ k = 7 then .next r else .fault (.noSuchUnit "stream" k)) else .fault (.noSuchUnit "position" p)

/-- LOGIC_CHECK. -/
def execLogicCheck (p k : Nat) (s : State) : Out := onEngine p k (spindleFault s p 1 k (evW 0xA01 k 0 k 0))

/-! A position goes dark (R383) -/

/-- Position p goes dark with a cause of Table 15.7: its engines stop and its distaff is lost, with the writes on their way to it. -/
def goDark (s : State) (p cause : Nat) : State :=
  if (pwAt s p).dark then s
  else
    let s := modPw s p fun w =>
      { w with dark := true, cause := cause, wakeReq := none, ready := false, wake := min w.wake 1, mv := 0, target := 0 }
    let e := ev 0x602 cause 0
    let s := spindleFault s p 3 7 e
    modSp s p fun sp =>
      { sp with distaff := Distaff.reset, pend := [], sigs := [],
                carder := { sp.carder with present := [], jobs := [], loftWaits := [] }, hank := { sp.hank with mover := none, wait := none },
                reeler := { sp.reeler with convs := [] } }

/-! Bits that flip (R344, R471, R472) -/

/-- A filled line of the loft takes a flipped bit. -/
def flipLoft (n bit : Nat) (c : Carder) : Carder :=
  { c with loft := modAt c.loft n fun x => if x.filled then { x with errs := x.errs ^^^ 2 ^ bit } else x }

/-- MEMORY_BIT_ERROR: kind 0 a distaff word, 1 a bobbin element (half × 2^18 + its place), 2 a loft line in order of use, 3 an HBM
line. -/
def execMemoryBitError (kind p index bit : Nat) (s : State) : Out :=
  match kind with
  | 0 => if index < distSize / 8 ∧ bit < 72 then
      onPos s p fun l => l.dist fun d => if d.poison.contains index then d else { d with errs := flipKey index bit d.errs }
    else .fault (.noSuchUnit "word" index)
  | 1 => if index < 2 ^ 19 ∧ bit < 128 then
      onPos s p fun l => l.half (index / 2 ^ 18) fun x =>
        if x.poison.contains (index % 2 ^ 18) then x else { x with errs := flipKey (index % 2 ^ 18) bit x.errs }
    else .fault (.noSuchUnit "word" index)
  | 2 => if index < 4096 ∧ bit < 512 then onPos s p fun l => l.card (flipLoft index bit) else .fault (.noSuchUnit "line" index)
  | 3 => if index < 12000000000 ∧ bit < 576 then
      .next { s with hbm := { s.hbm with errs := if s.hbm.poison.contains index then s.hbm.errs else flipKey index bit s.hbm.errs } }
    else .fault (.noSuchUnit "line" index)
  | n => .fault (.noSuchUnit "memory" n)

/-! Overruns (R27, R31) -/

/-- sc between the bell and the frame-end marker of a stream, or until now while it has not retired. -/
def frameCount (s : State) (p k : Nat) : Nat :=
  let sp := spAt s p
  let q := strmOf sp k
  if q.finished then q.frameSc else sp.clock.lc - sp.clock.bellLc

/-- The work window in sc of a position (R26). -/
def workSc (s : State) (p : Nat) : Nat := workWin s * (pwAt s p).goal / 56

/-- FRAME_OVER_BUDGET (R27): once per frame and engine. -/
def execFrameOverBudget (p k : Nat) (s : State) : Out :=
  if k < 6 then
    onPosS s p fun l =>
      let q := strmOf l.sp k
      let n := frameCount s p k
      let runs := match jobAt s p with | some j => (jobOf s j).state == 2 | none => false
      if runs && q.en && !q.overRaised && decide (n > workSc s p) then
        raiseAt (runPos s p fun l => l.strm k fun x => { x with overRaised := true }) p (evW 0xB04 k 0 k n)
      else s
  else .fault (.noSuchUnit "stream" k)

/-- The engine of stream k at a position has not finished the frame of a running job that nothing has stopped (R25, R28). -/
def unfinished (s : State) (p k : Nat) : Bool :=
  let sp := spAt s p
  let q := strmOf sp k
  match jobAt s p with
  | none => false
  | some j =>
    let b := jobOf s j
    b.state == 2 && !b.stop && !ckptHold s b && decide (sp.skipping ≤ 1) && q.en && !q.finished

/-- The bell generator runs: it has fired, no reference is lost (R50) and no trip has turned the rails off (R423). -/
def bellRuns (s : State) : Bool := s.bell.fired && !s.bell.held && !s.power.off

/-- FRAME_OVERRUN (R31): in strict mode the end of the stretch allowance finds the engine unfinished. -/
def execFrameOverrun (p k : Nat) (s : State) : Out :=
  if k < 6 then
    onPosS s p fun _ =>
      if !elastic s && bellRuns s && unfinished s p k then
        let t := s.bell.lastBell + workWin s + stretchWin s
        let s := runPos { s with bell := { s.bell with refTime := max s.bell.refTime t } } p fun l =>
          l.at_ (localAt s p ((workWin s + stretchWin s) * (pwAt s p).goal))
        raiseAt s p (evW 0xB01 k 0 k 0)
      else s
  else .fault (.noSuchUnit "stream" k)

/-! A lost reference (R50) -/

/-- Bytes of a distaff range that hold an unspecified value from now on. -/
def scramble (s : State) (p a n : Nat) : State :=
  let d := drawBytes s n
  runPos d.2 p fun l => l.wr a d.1

/-- What an access under way could write at its target is unspecified. -/
def scrambleAccess (s : State) (a : Access) : State :=
  match whereIs a.addr, writtenBytes a with
  | .distaff n off, some (b, len) => scramble s (posOf s n) (off + (b - a.addr)) (min len (distSize - off))
  | .hbm off, some (_, len) => let d := drawBytes s len; hbmWrite d.2 off d.1 false
  | _, _ => s

/-- What the answer to an access of this device's carder would write at its sender is unspecified. -/
def scrambleAnswer (s : State) (a : Access) : State :=
  if a.via.isSome then s
  else match a.kind, a.cfe with
    | .getLine, _ => scramble s (posOf s a.src) a.local_ a.len
    | .cfe, some c => if c.op = 1 ∨ c.op = 2 then scramble s (posOf s a.src) (8 * c.lword) 8 else s
    | _, _ => s

/-- An access under way, at its target and at its sender. -/
def loseAccess (s : State) (a : Access) : State := scrambleAnswer (scrambleAccess s a) a

/-- A transfer under way is abandoned: the bytes it could write are unspecified (R365, R470). -/
def abandonXfer (s : State) (x : Xfer) : State :=
  let s := dropXfer s x
  if x.get then scramble s x.pos x.local_ (64 * x.lines)
  else let d := drawBytes s (64 * x.lines); hostWrite d.2 x.host d.1 []

/-- The accesses that are under way anywhere in the device. -/
def underWay (s : State) : List Access :=
  s.fabric.net ++ s.spindles.flatMap (fun sp => sp.carder.present ++ sp.carder.loftWaits.map (·.acc) ++ sp.reeler.queue ++ sp.reeler.held ++ sp.reeler.waits.map (·.acc))
    ++ (s.hbm.waiting ++ s.hbm.granted).map (·.acc) ++ s.ports.flatMap (fun x => (x.items ++ x.wire ++ x.sent).flatMap (·.accs))

/-- Local ranges that a position's own engines could still write: writes not yet visible, data ops and conversions that have issued. -/
def ownRanges (sp : Spindle) : List (Nat × Nat) :=
  sp.pend.map (fun e => (e.off, e.data.length))
    ++ sp.whorl.halves.flatMap (fun x => (x.drain.filter (·.doneAt.isNone)).flatMap fun d =>
        let op := fld d.q.word 121 119
        (if op = 3 then [(drainAddr d.q.word, 64)] else []) ++
          if op = 4 then [] else (List.range (drainNr d.q.word)).map fun j => opRow op d.layout d.q.word j)
    ++ sp.reeler.convs.map (fun c => (rcDst c.q.word, c.buf.nel * rcSize c.q.word))

/-- A half with an operation under way that could write totals: its partition of the bobbin is undefined, as after a fault (R134). -/
def loseHalf (n : Nat) (x : Half) : Half :=
  if x.strm.isSome || !x.handed.isEmpty || x.drain.any (fun d => d.doneAt.isNone && fld d.q.word 121 119 == 4) then
    { x with undef := some n, tot := [], poison := [], strm := none, handed := [], drain := [] }
  else { x with drain := [] }

/-- Every byte that what has issued at a position could write is unspecified. -/
def losePos (s : State) (p : Nat) : State :=
  let rs := ownRanges (spAt s p)
  let s := runPos s p fun l => l.mod fun sp =>
    { sp with pend := [], whorl := { sp.whorl with halves := sp.whorl.halves.zipIdx.map fun x => loseHalf (s.free + x.2) x.1 },
              carder := { sp.carder with present := [], jobs := [], loftWaits := [] }, reeler := { sp.reeler with queue := [], held := [], waits := [], convs := [] } }
  rs.foldl (fun s r => scramble s p r.1 r.2) { s with free := s.free + 2 }

end Sys2Proof.Machine
end

