-- ==== Sys2Proof/Machine/Lantern.lean ====
section
/-!
DEFINITION. The lantern and the regulators (chapters 15 and 16, R393 to R398, R405) and the thermal sites (chapter 17): samples, limit
levels, droops, phases, wakes, set-points, margins, warnings and trips.
-/
namespace Sys2Proof.Machine

/-- Change the lantern. -/
def modLan (s : State) (f : Lantern → Lantern) : State := { s with lantern := f s.lantern }
/-- Change a spire's power state. -/
def modSpire (s : State) (i : Nat) (f : SpirePower → SpirePower) : State :=
  modLan s fun l => { l with spire := modAt l.spire i f }
/-- Power state of a spire. -/
def spireAt (s : State) (i : Nat) : SpirePower := s.lantern.spire.getD i SpirePower.reset
/-- A position that exists, for its power state. -/
def onPw (p : Nat) (r : State) : Out := onUnit "position" 624 p r
/-- Reference time brought to t at least; a device that has lost its reference keeps its last value (R50). -/
def timeTo (s : State) (t : Nat) : State := if s.bell.held then s else { s with bell := { s.bell with refTime := max s.bell.refTime t } }

/-! Power off (R391, R423, R445) -/

/-- Every engine, port and link stops, the regulators are off, no HBM command follows (Table 17.4), and with the belfry SMB_ALERT_N is
released (Table 22.8). -/
def powerOff (s : State) : State :=
  let s := s.hif.xfers.foldl abandonXfer s
  { s with power := { s.power with off := true, sleep := 0, wakeDue := false, waiting := none },
           hif := { s.hif with link := false, width := 0, evRecv := none, alerts := [], cxlWait := [] },
           hbm := { s.hbm with waiting := [], granted := [], credits := [] },
           fabric := { s.fabric with net := [], replies := [], flits := [], lands := [], lates := [] },
           ports := s.ports.map fun x => { x with state := 0, items := [], tx := [], wire := [], sent := [], downOut := 0 },
           bell := { s.bell with fired := false }, pins := { s.pins with alert := false } }

/-- A thermal trip (R423): the cause, the site and its last reading are recorded in the always-on domain. -/
def trip (s : State) (cause site reading : Nat) : State :=
  if s.thermal.tripped || !s.power.vaon then s
  else
    let s := powerOff s
    { s with thermal := { s.thermal with trip := some (cause, site, reading), tripped := true, tripDue := true }, pins := { s.pins with thermtrip := true } }

/-! Thermal sites (R417 to R422) -/

/-- Site state. -/
def siteAt (s : State) (n : Nat) : Site := s.thermal.sites.getD n Site.reset
/-- Change a site. -/
def modSite (s : State) (n : Nat) (f : Site → Site) : State :=
  { s with thermal := { s.thermal with sites := modAt s.thermal.sites n f } }
/-- A temperature code as a number of 0.125 °C (R425). -/
def tempOf (c : Nat) : Int := signedN 12 (c % 4096)

/-- The reading of a site: the higher of its valid sensors (R417); none when it is blind. -/
def siteReading (x : Site) : Option Int :=
  match x.excl.contains 0, x.excl.contains 1 with
  | true, true => none
  | true, false => some (tempOf x.b)
  | false, true => some (tempOf x.a)
  | false, false => some (max (tempOf x.a) (tempOf x.b))

/-- The reading's 12-bit code, 0x800 when blind (R425). -/
def readingCode (x : Site) : Nat := match siteReading x with | some r => unsignedN 12 r | none => 0x800

/-- Warning level and hard limit of a site (Table 17.3). -/
def siteWarn (n : Nat) : Int := if n < 624 then 800 else 760
def siteHard (n : Nat) : Int := if n < 624 then 880 else 840

/-- The job and logical number an event of a site names: those of the position. -/
def raiseSite (s : State) (n : Nat) (e : Ev) : State := if n < 624 then raiseAt s n e else raiseDev s e

/-- A sensor is excluded (R419); a site with both excluded is blind (R420). -/
def excludeSensor (s : State) (n e : Nat) : State :=
  if (siteAt s n).excl.contains e then s
  else
    let s := raiseSite (modSite s n fun x => { x with excl := insNat e x.excl, run := 0 }) n (ev 0x703 (n + put e 10) 0)
    if (siteAt s n).excl.length = 2 then
      raiseSite (modSite s n fun x => { x with blindAt := some s.bell.refTime, acked := false }) n (ev 0x704 n 0)
    else s

/-- A value outside −40 to 150 °C. -/
def outOfRange (c : Nat) : Bool := decide (tempOf c < -320) || decide (tempOf c > 1200)

/-- A sample of a site: values, exclusion of values out of range, then the limits (R421). -/
def sampleSite (s : State) (n a b : Nat) : State :=
  let s := modSite s n fun x => { x with a := if x.excl.contains 0 then x.a else a % 4096, b := if x.excl.contains 1 then x.b else b % 4096 }
  let s := if outOfRange a && !(siteAt s n).excl.contains 0 then excludeSensor s n 0 else s
  let s := if outOfRange b && !(siteAt s n).excl.contains 1 then excludeSensor s n 1 else s
  match siteReading (siteAt s n) with
  | none => s
  | some r =>
    if siteHard n ≤ r then trip s 2 n (unsignedN 12 r)
    else if siteWarn n ≤ r then
      if (siteAt s n).warn then s
      else raiseSite (modSite s n fun x => { x with warn := true }) n (ev 0x701 n (unsignedN 12 r))
    else if r ≤ siteWarn n - 24 then modSite s n fun x => { x with warn := false } else s

/-- SENSOR_EXCLUDED. -/
def execSensorExcluded (site sens : Nat) (s : State) : Out :=
  if sens < 2 then onUnit "site" 640 site (excludeSensor s site sens) else .fault (.noSuchUnit "sensor" sens)

/-- rc from a site's going blind to its trip (R420). -/
def blindTime : Nat := 4200000000

/-- BLIND_SITE_ACK: a write to CUP_BLIND_ACK. -/
def execBlindSiteAck (site : Nat) (s : State) : Out :=
  .next <|
    match (siteAt s site).blindAt with
    | some t => if decide (site < 640) && decide (s.bell.refTime < t + blindTime) then modSite s site fun x => { x with acked := true } else s
    | none => s

/-- BLIND_SITE_EXPIRE. -/
def execBlindSiteExpire (site : Nat) (s : State) : Out :=
  onUnit "site" 640 site <|
    match (siteAt s site).blindAt with
    | some t => if (siteAt s site).acked then s else trip (timeTo s (t + blindTime)) 3 site 0x800
    | none => s

/-- TRIP_COMPARATOR_FIRE: the comparator of a compute or SRAM site (R422). -/
def execTripComparatorFire (site : Nat) (s : State) : Out :=
  onUnit "site" 632 site <|
    trip { s with thermal := { s.thermal with comparators := insNat site s.thermal.comparators } } 0 site (readingCode (siteAt s site))

/-- HBM_CATTRIP. -/
def execHbmCattrip (st : Nat) (s : State) : Out :=
  onUnit "stack" 8 st <|
    trip { s with thermal := { s.thermal with comparators := insNat (632 + st) s.thermal.comparators } } 1 (632 + st)
      (readingCode (siteAt s (632 + st)))

/-! Current samples and limit levels (R375, R393 to R395) -/

/-- Sum of the latest n samples. -/
def sumN (n : Nat) (h : List Nat) : Nat := (h.take n).foldl (· + ·) 0

/-- A quantity's samples, its limits over W1, W10 and W100, and what E-0x610 calls it. -/
structure Quantity where
  hist : List Nat
  l1 : Nat
  l10 : Nat
  l100 : Nat
  code : Nat
deriving DecidableEq, Repr

/-- The first window that exceeds its limit, with the reading. -/
def Quantity.exceeds (q : Quantity) : Option (Nat × Nat) :=
  if sumN 1 q.hist > q.l1 then some (0, sumN 1 q.hist)
  else if sumN 10 q.hist > 10 * q.l10 then some (1, sumN 10 q.hist / 10)
  else if sumN 100 q.hist > 100 * q.l100 then some (2, sumN 100 q.hist / 100)
  else none

/-- Every window is at or below 90 % of its limit. -/
def Quantity.calm (q : Quantity) : Bool :=
  decide (10 * sumN 1 q.hist ≤ 9 * q.l1) && decide (sumN 10 q.hist ≤ 9 * q.l10) && decide (sumN 100 q.hist ≤ 90 * q.l100)

/-- No limit. -/
def noLimit : Nat := 10 ^ 12

/-- The VCORE current of a position against its cap (R376, Table 16.1), in mA. -/
def posQuantity (s : State) (p : Nat) : Quantity :=
  let cap := 12000 * (pwAt s p).capPct / 100
  { hist := (pwAt s p).hist, l1 := cap * 3 / 2, l10 := cap * 4 / 3, l100 := cap, code := put p 4 }
/-- The VIN current of a spire. -/
def vinQuantity (s : State) (i : Nat) : Quantity :=
  { hist := (spireAt s i).hist, l1 := 880000, l10 := 800000, l100 := 680000, code := 1 + put i 4 }
/-- Package power in mW. -/
def pkgQuantity (s : State) : Quantity :=
  { hist := s.lantern.pkgHist, l1 := noLimit, l10 := noLimit, l100 := 1000 * stf s 0x10000 11 0, code := 2 }

/-- A position is gated, or waits for its wake (R377). -/
def gated (w : PosPower) : Bool := w.wake == 1 || w.wake == 2

/-- An event of a quantity or rail raised at most once per bell. -/
def onceEv (s : State) (key : Nat) (e : Ev) (p : Option Nat) : State :=
  if s.lantern.raised.contains key then s
  else
    let s := modLan s fun l => { l with raised := insNat key l.raised }
    match p with | some p => raiseAt s p e | none => raiseDev s e

/-- The limit level of a position after a sample (R394), given the quantities of its spire and of the package. -/
def updateLevel (vin : List (Option (Nat × Nat))) (vinCalm : List Bool) (pkg : Option (Nat × Nat)) (pkgCalm : Bool) (s : State) (p : Nat) : State :=
  let w := pwAt s p
  let q := posQuantity s p
  let on := !gated w
  let mine := q.exceeds
  let exceeds := mine.isSome || (on && ((vin.getD (spireOf p) none).isSome || pkg.isSome))
  let calm := q.calm && (!on || (vinCalm.getD (spireOf p) true && pkgCalm))
  let lv := if exceeds then min (w.level + 1) 2 else if calm then w.level - 1 else w.level
  if lv = w.level then s
  else
    let s := modPw s p fun w => { w with level := lv }
    if lv < w.level then s
    else
      let s := if w.level = 0 then
          let s := modSp s p fun sp => { sp with clock := { sp.clock with events := sp.clock.events + 1 } }
          match jobAt s p with
          | some j => modJob s j fun b => { b with pwr := { b.pwr with rose := true } }
          | none => s
        else s
      let e (q : Quantity) (r : Nat × Nat) : Ev := ev 0x610 (q.code + put r.1 2) r.2
      let s := match mine with | some r => onceEv s (16 + put p 8) (e q r) (some p) | none => s
      let s := match on, vin.getD (spireOf p) none with
        | true, some r => onceEv s (17 + put (spireOf p) 8) (e (vinQuantity s (spireOf p)) r) none
        | _, _ => s
      match on, pkg with
      | true, some r => onceEv s 18 (e (pkgQuantity s) r) none
      | _, _ => s

/-- The board rails and VEDGE by their row of Table 15.1: the maximum current in mA. -/
def railMax (row : Nat) : Nat :=
  match row with | 2 => 96000 | 4 => 60000 | 5 => 80000 | 6 => 4000 | 7 => 50000 | 8 => 25000 | _ => 1500

/-- E-0x611 for a rail of a spire (R395). -/
def railCheck (row i : Nat) (h : List Nat) (s : State) : State :=
  let m := railMax row
  let q : Quantity := { hist := h, l1 := m * 5 / 4, l10 := m * 11 / 10, l100 := m, code := 0 }
  match q.exceeds with
  | some r => onceEv s (32 + row + put i 8) (ev 0x611 (row + put i 4 + put r.1 6) r.2) none
  | none => s

/-- Keep the latest 100 samples. -/
def keep100 (v : Nat) (h : List Nat) : List Nat := (v :: h).take 100

/-- Nominal voltages in mV of the five board rails of a spire (Table 15.1). -/
def railMv : List Nat := [1050, 750, 1800, 800, 1200]

/-- Power in µW of the board rails of a spire, one by one. -/
def railPower (rs : List Nat) : List Nat := rs.zipIdx.map fun r => r.1 * railMv.getD r.2 0

/-- Sum of a list. -/
def total (l : List Nat) : Nat := l.foldl (· + ·) 0

/-- VIN of a spire in a sample: voltage and current. -/
def vinOf (x : Sample) (i : Nat) : Nat × Nat := x.vin.getD i (0, 0)

/-- Package power in µW, the sum of V × I over every rail of Table 15.1 (Table 16.1): VCORE at each position's voltage in force, VEDGE at 0.70 V,
VSRAM at half of VIN, VIN as sampled, the board rails and VAON at their nominal voltages (assumption 31). -/
def pkgPower (x : Sample) (l : Lantern) : Nat :=
  total (x.vin.map fun v => v.1 * v.2) + total (l.pos.zipIdx.map fun w => (x.pos.getD w.2 (0, 0)).1 * w.1.mv)
    + total (x.sram.zipIdx.map fun v => v.1 * (vinOf x (spireOf v.2)).1 / 2) + total (x.edge.map (· * 700))
    + total (x.rails.map fun r => total (railPower r)) + x.vaon * 1800

/-- VIN-side input in µW of a position's VCORE phases and VSRAM converter. -/
def posInput (x : Sample) (p : Nat) : Nat := (vinOf x (spireOf p)).1 * (x.pos.getD p (0, 0)).2

/-- VIN-side input in µW of the VEDGE phases of a spire: what its positions leave of VIN's current (Table 15.1, Table 16.2). -/
def edgeInput (x : Sample) (i : Nat) : Nat :=
  (vinOf x i).1 * ((vinOf x i).2 - total ((List.range 156).map fun k => (x.pos.getD (156 * i + k) (0, 0)).2))

/-- The energy of a sample (R406, Table 16.2). -/
def sampleEnergy (x : Sample) : Meter :=
  { e0 := ((List.range 624).map fun p => (p, posInput x p)).filter (·.2 != 0),
    eSpire := (List.range 4).map fun i => let r := railPower (x.rails.getD i []); [edgeInput x i, total (r.take 3), total ((r.drop 3).take 2)],
    eAon := x.vaon * 1800 }

/-- The rc of the next sample: the next multiple of 1,024, also where a bell has just fired there (R375, R406). -/
def sampleTime (s : State) : Nat := max ((s.lantern.sampleAt / 1024 + 1) * 1024) (cdiv s.bell.refTime 1024 * 1024)

/-- A sample is stored: positions, spires, package, energy of the bell (R375, R406). -/
def storeSample (x : Sample) (l : Lantern) : Lantern :=
  { l with
      pos := l.pos.zipIdx.map fun w =>
        let v := x.pos.getD w.2 (0, 0)
        { w.1 with amps := v.1, sram := x.sram.getD w.2 0, hist := keep100 v.1 w.1.hist },
      spire := l.spire.zipIdx.map fun w =>
        let v := x.vin.getD w.2 (0, 0)
        let rs := x.rails.getD w.2 []
        { w.1 with mv := v.1, ma := v.2, hist := keep100 v.2 w.1.hist, edgeHist := keep100 (x.edge.getD w.2 0) w.1.edgeHist,
                   rails := (List.range 5).map (rs.getD · 0),
                   railHist := w.1.railHist.zipIdx.map fun h => keep100 (rs.getD h.2 0) h.1,
                   vaonHist := if w.2 = 0 then keep100 x.vaon w.1.vaonHist else [] },
      pkgHist := keep100 (pkgPower x l / 1000) l.pkgHist,
      vaon := x.vaon,
      e0 := (sampleEnergy x).e0.foldl (fun m v => insKey v.1 ((getKey v.1 m).getD 0 + v.2) m) l.e0,
      eSpire := List.zipWith (List.zipWith (· + ·)) l.eSpire (sampleEnergy x).eSpire,
      eAon := l.eAon + x.vaon * 1800, fresh := sampleEnergy x }

/-- Every position's lost cycles are counted up to rc t. -/
def countAllLoss (s : State) (t : Nat) : State := (List.range 624).foldl (countLoss t) s

/-- The rc that the commands of position p have reached. -/
def nowRc (s : State) (p : Nat) : Nat := max s.bell.refTime (rcOf s p (spAt s p).clock.lc)

/-- VIN of a spire out of range (R391), at most once per bell. -/
def vinCheck (s : State) (i : Nat) : State :=
  let w := spireAt s i
  if (decide (w.mv < 1350) || decide (w.mv > 1650)) && !w.vinSeen then
    raiseDev (modSpire s i fun w => { w with vinSeen := true }) (ev 0x607 i w.mv)
  else s

/-- Count a sample in LNT_LIMIT_HITS of a spire when a limit that governs there was exceeded. -/
def countHits (s : State) (i : Nat) : State :=
  let pos := (List.range 156).any fun k => (posQuantity s (156 * i + k)).exceeds.isSome
  if pos || (vinQuantity s i).exceeds.isSome || (pkgQuantity s).exceeds.isSome then
    modSpire s i fun w => { w with hits := sat32 w.hits 1 }
  else s

/-- The neighbours of a position (R386). -/
def neighbours (p : Nat) : List Nat :=
  let x := p % 156 / 12
  let y := p % 12
  (if x = 0 then [] else [p - 12]) ++ (if x = 12 then [] else [p + 12]) ++ (if y = 0 then [] else [p - 1]) ++ (if y = 11 then [] else [p + 1])

/-- A neighbour draws less than 80 % of its cap; a dark one draws nothing. -/
def quiet (s : State) (p : Nat) : Bool :=
  let w := pwAt s p
  w.dark || decide (100 * w.amps < 80 * 120 * w.capPct)

/-- A wake that waits may start its ramp once a sample finds every neighbour quiet (R386). -/
def markReady (s : State) : State :=
  modLan s fun l => { l with pos := l.pos.zipIdx.map fun w =>
    if w.1.wake = 2 ∧ (neighbours w.2).all (quiet s) then { w.1 with ready := true } else w.1 }

/-- LANTERN_SAMPLE: the sample at the next multiple of 1,024 rc. -/
def execLanternSample (x : Sample) (s : State) : Out :=
  if s.power.off then .next s
  else
    let s := timeTo s (sampleTime s)
    let s := countAllLoss s s.bell.refTime
    let s := markReady (modLan s fun l => { storeSample x l with sampleAt := s.bell.refTime })
    let vin := (List.range 4).map fun i => (vinQuantity s i).exceeds
    let vc := (List.range 4).map fun i => (vinQuantity s i).calm
    let s := (List.range 4).foldl (fun s i => countHits (vinCheck s i) i) s
    let s := (List.range 624).foldl (updateLevel vin vc (pkgQuantity s).exceeds (pkgQuantity s).calm) s
    let s := (List.range 4).foldl (fun s i =>
      let w := spireAt s i
      (List.range 5).foldl (fun s r => railCheck (4 + r) i (w.railHist.getD r []) s) (railCheck 2 i w.edgeHist s)) s
    let s := railCheck 9 0 (spireAt s 0).vaonHist s
    .next (x.temps.foldl (fun s t => if t.1 < 632 then sampleSite s t.1 t.2.1 t.2.2 else s) s)

/-! Set-points and droops (R378, R379, R396 to R398) -/

/-- vf of a position at ratio n in mV (R433). -/
def vf (s : State) (p n : Nat) : Nat := ((getKey p s.keep.test.vfPos).getD s.keep.test.vf).getD (n - 1) 0

/-- Setpoint of a position at ratio n (R396). -/
def setpoint (s : State) (p n : Nat) : Nat := vf s p n + 5 * (pwAt s p).margin

/-- Droop threshold (R379). -/
def droopAt (s : State) (p : Nat) : Nat := (pwAt s p).mv - stf s 0x10008 7 0

/-- A raise whose setpoint is reached switches the oscillator when it is not stretching (R397). -/
def trySwitch (s : State) (p : Nat) : State :=
  let w := pwAt s p
  if w.ratio < w.goal && decide (w.target ≤ w.mv) && !(spAt s p).clock.stretching then modPw s p fun w => { w with ratio := w.goal }
  else s

/-- A position's reference count runs at ratio n from this bell (R397): the setpoint moves to that of n, a lower ratio is in force at once
and a higher one when the setpoint is reached; a wait after a droop still stands (R398). A position that is not on keeps its voltage (R377). -/
def stepTo (n : Nat) (s : State) (p : Nat) : State :=
  trySwitch (modPw s p fun w =>
    if w.wake != 0 || w.dark then { w with goal := n, ratio := n }
    else { w with goal := n, ratio := min w.ratio n, target := setpoint s p n, stepAt := max w.stepAt s.bell.lastBell }) p

/-- The lowest reading among the valid sensors, in units of 2.5 mV (R378). -/
def lowest (s : State) (p : Nat) (readings : List Nat) : Option Nat :=
  (readings.zipIdx.filter fun r => !(pwAt s p).excl.contains r.2).foldl (fun m r => match m with | some v => some (min v r.1) | none => some r.1) none

/-- The lowest valid reading lies below a voltage in mV. -/
def readsBelow (s : State) (p : Nat) (readings : List Nat) (mv : Nat) : Bool :=
  match lowest s p readings with | some v => decide (5 * v < 2 * mv) | none => false

/-- DROOP_STRETCH_START: the lowest valid reading falls below the threshold. -/
def execDroopStretchStart (p : Nat) (readings : List Nat) (s : State) : Out :=
  onPw p <|
    if readsBelow s p readings (droopAt s p) then
      let t := nowRc s p
      let s := countLoss t s p
      modSp s p fun sp =>
        let c := sp.clock
        { sp with clock := { c with stretching := true, since := if c.stretching then c.since else t, events := c.events + b2n (!c.stretching) } }
    else s

/-- The rc up to which a droop stretch of position p that has cost `lost` cycles is counted: not before they can have been lost. -/
def stretchRc (s : State) (p lost : Nat) : Nat := max (nowRc s p) ((spAt s p).clock.since + cdiv (lost * 56) (pwAt s p).goal)

/-- DROOP_STRETCH_END: `lost` are the cycles that the stretch has cost since it began, since the last bell or since they were last counted.
Where the lowest valid reading has reached the threshold and its hysteresis the stretch ends, and a set-point step resumes 256 sc later
(R398); where it has not, the stretch goes on, with its cycles counted so far (assumption 79). -/
def execDroopStretchEnd (p : Nat) (readings : List Nat) (lost : Nat) (s : State) : Out :=
  onPw p <|
    if (spAt s p).clock.stretching then
      let u := stretchRc s p lost
      let s := addLost (countLoss u s p) p u lost
      if readsBelow s p readings (droopAt s p + stf s 0x10008 15 8) then s
      else
        let s := modSp s p fun sp => { sp with clock := { sp.clock with stretching := false } }
        trySwitch (modPw s p fun w => { w with stepAt := max w.stepAt (u + cdiv (256 * 56) w.ratio - 256) }) p
    else s

/-- One increment toward a target. -/
def towards (a b : Nat) : Nat := if a < b then min (a + 5) b else max (a - 5) b

/-- DVFS_SETPOINT_STEP: 256 rc after the last increment the setpoint moves, unless the lowest valid reading is below the threshold (R398). -/
def execDvfsSetpointStep (p : Nat) (readings : List Nat) (s : State) : Out :=
  onPw p <|
    let w := pwAt s p
    if s.power.off || w.mv = w.target || (spAt s p).clock.stretching || readsBelow s p readings (droopAt s p) then s
    else
      let t := w.stepAt + 256
      let s := countLoss t (timeTo s t) p
      trySwitch (modPw s p fun w => { w with mv := towards w.mv w.target, stepAt := t }) p

/-! Phases, converters and VIN (R381 to R385, R391) -/

/-- A spire-edge position (R383). -/
def atEdge (p : Nat) : Bool :=
  let x := p % 156 / 12
  let y := p % 12
  x == 0 || x == 12 || y == 0 || y == 11

/-- PHASE_FAIL (R382, R383). -/
def execPhaseFail (p phase : Nat) (s : State) : Out :=
  if phase < 4 then
    onPw p <|
      if (pwAt s p).phfail.contains phase then s
      else
        let s := modPw s p fun w => { w with phfail := insNat phase w.phfail }
        if (pwAt s p).dark then s
        else if atEdge p then goDark s p 1
        else if (pwAt s p).phfail.length ≥ 2 then goDark s p 0
        else raiseAt (modPw s p fun w => { w with capPct := min w.capPct 75 }) p (ev 0x601 phase 0)
  else .fault (.noSuchUnit "phase" phase)

/-- VSRAM_CONVERTER_FAIL (R383). -/
def execVsramConverterFail (p : Nat) (s : State) : Out :=
  onPw p (goDark (modPw s p fun w => { w with sramFail := true }) p 2)

/-- Every running job, and every job that starts, takes a bell fault. -/
def faultLive (s : State) (code : Nat) : State :=
  (List.range 8).foldl (fun s j => if (jobOf s j).state = 1 ∨ (jobOf s j).state = 2 then faultJob s j code false else s) s

/-- Every running job takes a bell fault. -/
def faultRunning (s : State) (code : Nat) : State :=
  (List.range 8).foldl (fun s j => if (jobOf s j).state = 2 then faultJob s j code false else s) s

/-- DIE_EDGE_PHASE_FAIL (R384): the fifth failure holds every job and lets none start. -/
def execDieEdgePhaseFail (i : Nat) (s : State) : Out :=
  onUnit "spire" 4 i <|
    let n := (spireAt s i).edgeFail
    if n ≥ 5 then s
    else
      let s := modSpire s i fun w => { w with edgeFail := n + 1 }
      if n + 1 < 5 then raiseDev s (ev 0x605 i 0)
      else
        let s := faultLive (raiseDev s (ev 0x606 i 0)) 0x606
        { s with power := { s.power with noJob := true } }

/-- VIN_WINDOW_TRIP (R391). -/
def execVinWindowTrip (i : Nat) (s : State) : Out :=
  onUnit "spire" 4 i <|
    if !s.power.vaon then s else
    let s := powerOff s
    { s with thermal := { s.thermal with vinTrip := insNat i s.thermal.vinTrip, vinOff := true }, pins := { s.pins with vfault := true },
             power := { s.power with vinBad := true } }

/-! The background window (R380, R385, R417) -/

/-- Put a number in its place in a rising list, equals kept. -/
def insSorted (v : Nat) : List Nat → List Nat
  | [] => [v]
  | x :: xs => if v ≤ x then v :: x :: xs else x :: insSorted v xs

/-- Twice the median of eight readings. -/
def median2 (r : List Nat) : Nat := let l := r.foldl (fun a v => insSorted v a) []; l.getD 3 0 + l.getD 4 0

/-- The position draws less than 25 % of its rating (R380, R385). -/
def light (w : PosPower) : Bool := decide (4 * w.amps < 12000)

/-- The comparison of a position's droop sensors, in units of 2.5 mV (R380). -/
def droopCompare (s : State) (p : Nat) (r : List Nat) : State :=
  let m := median2 r
  let w := pwAt s p
  if !light w || w.dark then s else
  let off (i : Nat) : Bool := let v := 2 * r.getD i 0; decide (v > m + 24) || decide (v + 24 < m)
  let runs := (List.range 8).map fun i => if off i then w.droopRun.getD i 0 + 1 else 0
  let hit := (List.range 8).filter fun i => decide (runs.getD i 0 ≥ 16) && !w.excl.contains i
  let s := modPw s p fun w => { w with droopRun := runs, excl := hit.foldl (fun l i => insNat i l) w.excl }
  let s := hit.foldl (fun s i => raiseAt s p (ev 0x603 i 0)) s
  if (pwAt s p).excl.length ≥ 3 then goDark s p 3 else s

/-- A static-drop measurement of a position (R385). -/
def dropMeasure (s : State) (p mv : Nat) : State :=
  let w := pwAt s p
  if gated w || w.dark || !light w then s
  else
    let run := if mv > stf s 0x10010 7 0 then min (w.bumpRun + 1) 64 else 0
    let s := modPw s p fun w => { w with bumpRun := run }
    if run = 64 ∧ !w.bump then
      raiseAt (modPw s p fun w => { w with bump := true, capPct := min w.capPct 50 }) p (ev 0x604 mv 0)
    else s

/-- HBM readouts of a stack (R417, R342). -/
def hbmReadout (s : State) (h a b : Nat) : State :=
  let s := sampleSite s (632 + h) a b
  let hot := match siteReading (siteAt s (632 + h)) with | some r => decide (r > 680) | none => s.hbm.hot.getD h false
  { s with hbm := { s.hbm with hot := modAt s.hbm.hot h fun _ => hot } }

/-- BACKGROUND_WINDOW. -/
def execBackgroundWindow (b : Background) (s : State) : Out :=
  if s.power.off then .next s
  else
    let s := b.droop.foldl (fun s d => if d.1 < 624 then droopCompare s d.1 d.2 else s) s
    let s := b.drop.foldl (fun s d => if d.1 < 624 then dropMeasure s d.1 d.2 else s) s
    .next (b.hbm.foldl (fun s t => if t.1 < 8 then hbmReadout s t.1 t.2.1 t.2.2 else s) s)

/-! Ageing (R405) -/

/-- A binary32 from a decimal fraction n / d. -/
def fRat (n d : Nat) : F32 := fdiv (fOfNat n) (fOfNat d)

/-- NHIGH of a job over its set (R396). -/
def nhigh (s : State) (j : Nat) : Nat :=
  let ps := (jobSet s j).map (posOf s)
  ((List.range 64).filter fun i => ps.all fun p => decide (setpoint s p (i + 1) ≤ 720)).foldl (fun m i => max m (i + 1)) 0

/-- NHIGH of every job that lives after a change of margin: E-0x614 where that of a running job falls (R396, R405). -/
def newHigh (s : State) : State :=
  (List.range 8).foldl (fun s j =>
    if !jobRuns s j then s else
    let h := nhigh s j
    let old := (jobOf s j).pwr.nhigh
    let s := modJob s j fun b => { b with pwr := { b.pwr with nhigh := h } }
    if (jobOf s j).state = 2 ∧ h < old then raiseJob s j (ev 0x614 h 0) else s) s

/-- The test record's count of a position's ring oscillators. -/
def roTest (s : State) (p : Nat) : Nat := (getKey p s.keep.test.roPos).getD s.keep.test.ro

/-- The need of R405 in steps of 5 mV: of the shortfall of the mean of two counts, of this sum, against a test count, in units of 0.004,
rounded up. -/
def needSteps (test sum : Nat) : Nat := cdiv (250 * (2 * test - sum)) (2 * test)

/-- `slow` of R405 as binary32. -/
def slowness (test sum : Nat) : F32 :=
  if sum < 2 * test then rnd32 false (2 * test - sum) (2 * test) 0 else if test = 0 then zero32 false else rnd32 true (sum - 2 * test) (2 * test) 0

/-- A change is appended to the margin log (R405): a write that does not verify leaves an entry in part, with E-0x807 (R431). -/
def logMargin (s : State) (e : MarginEntry) (ok : Bool) : State :=
  let n := s.keep.marginLog.length
  let t := { s with keep := { s.keep with marginLog := s.keep.marginLog ++ [if ok then some e else none] } }
  if ok then t else raiseDev t (ev 0x807 0x18C0000 (0x18C0000 + 16 * n))

/-- A measurement of a position's ring oscillators: their corrected counts (R405); `ok`: the write that it brings verifies. -/
def measureAge (p ro0 ro1 : Nat) (ok : Bool) (s : State) : State :=
  let s := modPw s p fun w => { w with ro0 := ro0 % 2 ^ 16, ro1 := ro1 % 2 ^ 16, agedAt := some s.bell.count }
  let m := (pwAt s p).margin
  let sum := ro0 % 2 ^ 16 + ro1 % 2 ^ 16
  let need := needSteps (roTest s p) sum
  if need > m ∧ m < 12 then
    let s := modPw s p fun w => { w with margin := m + 1 }
    let e : MarginEntry := { pos := p, old := m, new := m + 1, ro0 := ro0 % 2 ^ 16, ro1 := ro1 % 2 ^ 16, bell := s.bell.count }
    let s := logMargin s e ok
    let s := raiseAt s p (ev 0x613 (5 * m + put (5 * (m + 1)) 8) (ro0 % 2 ^ 16 + put (ro1 % 2 ^ 16) 16))
    newHigh s
  else if need > 12 ∧ m = 12 then spindleFault s p 5 7 (ev 0x616 (slowness (roTest s p) sum).toNat 0)
  else s

/-- A count corrected to the test conditions: `d` is what the calibration record's coefficients add to it. -/
def corrected (n : Nat) (d : Int) : Nat := ((n : Int) + d).toNat

/-- AGEING_MEASUREMENT: once every 4,096 bells; the two counts and their corrections, and whether a write of the margin log verifies. -/
def execAgeingMeasurement (p ro0 ro1 : Nat) (corr : Int × Int) (s : State) (flashOk : Bool := true) : Out :=
  onPw p <|
    let due := match (pwAt s p).agedAt with | some b => decide (b + 4096 ≤ s.bell.count) | none => true
    if due && s.bell.fired && !(pwAt s p).dark then measureAge p (corrected ro0 corr.1) (corrected ro1 corr.2) flashOk s else s

/-! Wakes (R386 to R388, R402) -/

/-- A wake is requested for a gated position. -/
def requestWake (s : State) (p : Nat) : State :=
  if (pwAt s p).wake = 1 ∧ !(pwAt s p).dark then modPw s p fun w => { w with wake := 2, wakeReq := some s.bell.count, ready := false } else s

/-- A requested wake is ready to start its ramp (R386). -/
def rampReady (s : State) (p : Nat) : Bool :=
  let w := pwAt s p
  w.wake == 2 && (w.ready || match w.wakeReq with | some b => decide (b + 4 ≤ s.bell.count) | none => false)

/-- WAKE_RAMP_START: at most 16 ramp in a spire, in ascending order of 12x + y. -/
def execWakeRampStart (p : Nat) (s : State) : Out :=
  onPw p <|
    let mine := (List.range 156).map fun k => 156 * spireOf p + k
    let ramping := (mine.filter fun q => (pwAt s q).wake == 3).length
    let first := mine.find? (rampReady s)
    if !s.power.off && decide (ramping < 16) && first == some p then
      modPw s p fun w => { w with wake := 3, step := 0, wakeReq := none, rampAt := s.bell.refTime }
    else s

/-- A position power-gates: its phases hold the retention voltage (R377). -/
def gate (w : PosPower) : PosPower := { w with wake := 1, wakeReq := none, ready := false, step := 0, mv := 450, target := 450 }

/-- A ramp ends: the position is on, at the setpoint of its ratio, at which it runs unless a stretch is in progress (R397). -/
def switchOn (s : State) (p t : Nat) : State :=
  trySwitch (modPw (countLoss t s p) p fun w =>
    { w with wake := 0, step := 0, rampAt := t, mv := setpoint s p w.goal, target := setpoint s p w.goal }) p

/-- A droop reading of position p or of a neighbour lies below its threshold (R387). -/
def rampHeld (s : State) (p : Nat) (readings : List (Nat × List Nat)) : Bool :=
  readings.any fun r => (p :: neighbours p).contains r.1 && readsBelow s r.1 r.2 (droopAt s r.1)

/-- WAKE_RAMP_STEP: the next step, or the position is on 2,100 rc after step 8; neither while a reading lies below its threshold. `recovered`: such
a reading had held the ramp, and every reading has recovered. -/
def execWakeRampStep (p : Nat) (recovered : Bool) (s : State) (readings : List (Nat × List Nat) := []) : Out :=
  onPw p <|
    let w := pwAt s p
    if s.power.off = false ∧ w.wake = 3 ∧ rampHeld s p readings = false then
      let t := if recovered then max (w.rampAt + 2100) (s.bell.refTime + 256) else w.rampAt + 2100
      let s := timeTo s t
      if w.step = 7 then switchOn s p t
      else modPw s p fun w => { w with step := w.step + 1, rampAt := t }
    else s

/-- IDLE_POWER_GATE (R402): an unowned position gates after IDLE_BELLS bells with no owner. -/
def execIdlePowerGate (p : Nat) (s : State) : Out :=
  onPw p <|
    let w := pwAt s p
    let n := stf s 0x10000 19 12
    if n != 0 && decide (w.idle > n) && (jobAt s p).isNone && !w.dark && w.wake == 0 && (refilling s p).isNone then
      modPw s p gate
    else s

/-- FRAME_SKIP_END (R403): the skipped frames are over and the streams resume. -/
def execFrameSkipEnd (p : Nat) (s : State) : Out :=
  onPos s p fun l => if l.sp.skipping = 1 then l.mod fun sp => { sp with skipping := 0 } else l

end Sys2Proof.Machine
end

