-- ==== Sys2Proof/Machine/RegMap.lean ====
section
/-!
DEFINITION. The register map (chapter 21): reads of the set-up space and of the doorbell page, reads that clear, and writes that stage.
Offsets from 0x40_0000 on stand for the doorbell page of BAR2/3 and from 0x41_0000 on for the component registers of BAR4/5 (assumption 40).
-/
namespace Sys2Proof.Machine

/-! The crossing table (R498, Table 21.14) -/

/-- Kind and padded latency of a crossing (Tables 1.2, 1.3), a port's that of its class, or of the class in which its training failed (R295);
none where the entry names no crossing. -/
def xingKind (s : State) (i : Nat) : Option (Nat × Nat) :=
  let sp := i / 2048
  let j := i % 2048
  if sp ≥ 4 then none
  else if j < 312 then some (0, 2)
  else if j < 936 then
    let q := (j - 312) / 4
    let x := q / 12
    let y := q % 12
    match (j - 312) % 4 with
    | 0 => if x < 12 then some (0, 2) else if sp % 2 = 0 then some (2, 24) else none
    | 1 => if y < 11 then some (0, 2) else if sp / 2 = 0 then some (2, 24) else none
    | 2 => if 0 < x then some (0, 2) else if sp % 2 = 1 then some (2, 24) else none
    | _ => if 0 < y then some (0, 2) else if sp / 2 = 1 then some (2, 24) else none
  else if j < 950 then
    let u := (j - 936) / 2
    let at_ := if u = 6 then 1 else spireOf (portPos u)
    if at_ = sp then some (1, 6) else none
  else if j < 956 then
    let p := j - 950
    if spireOf (portPos p) = sp then some (3, classLat (portAt s p).cls) else none
  else if j ≤ 1112 then some (4, Config.padding 4 % 4096)
  else none

/-- The raw delay that has been measured of a crossing: a port's by its last training, another's by calibration. -/
def xingRaw (s : State) (k i : Nat) : Option Nat := if k = 3 then (portAt s (i % 2048 - 950)).raw else getKey i s.xing

/-- One entry of BEL_XING_TABLE. -/
def xingEntry (s : State) (i : Nat) : Nat :=
  match xingKind s i with
  | none => 0
  | some (k, l) =>
    match xingRaw s k i with
    | some raw => raw % 4096 + put l 12 + put k 24 + put (b2n (decide (l < raw))) 31
    | none => min (Config.rawDelay i) l + put l 12 + put k 24

/-! Blocks of the map (Tables 21.2 to 21.9): the 8-byte slot at an offset of a block -/

/-- Bits of a list of small numbers. -/
def maskOf (l : List Nat) : Nat := l.foldl (fun m i => m ||| 2 ^ i) 0

/-- Trues among the last 16. -/
def count16 (l : List Bool) : Nat := ((l.take 16).filter id).length

/-- BEL_ registers. -/
def belSlot (s : State) (o : Nat) : Nat :=
  if o = 0x00 then 0x4768 + put Config.stepping.toNat 16 + put 1 24
  else if o = 0x20 then s.bell.count
  else if o = 0x28 then s.bell.refTime
  else if o = 0x30 then s.bell.slipCount
  else if o = 0x38 then s.bell.slipTotal
  else if o = 0x48 then
    s.regs.result + put (b2n (s.regs.request.isSome || s.regs.snap.isSome)) 2 + put s.regs.tag 16 + put s.regs.field 32
  else if o = 0x50 then st s o + put s.power.sleep 2
  else if o = 0x58 then s.power.step + put (b2n s.power.noJob) 4 + put (b2n s.power.deepWake) 5 + put (s.power.timeUs % 2 ^ 32) 32
  else if o = 0x60 then
    match s.repair.queue with
    | (j, n) :: rest => if s.repair.active then 1 + put j 1 + put n 4 + put (min rest.length 63) 14
        else put (min (rest.length + 1) 63) 14
    | [] => 0
  else if 0x1000 ≤ o ∧ o < 0x1200 then
    let b := (jobOf s ((o - 0x1000) / 0x40)).num
    match o % 0x40 with
    | 0x00 => b.step + put (b2n b.nf) 40 + put (b2n b.verdict) 41
    | 0x08 => st s o + b.lse + put b.apply_ 8 + put b.clean 48
    | 0x10 => b.a
    | 0x18 => b.key.toNat
    | 0x20 => b.skips
    | _ => 0
  else if 0x8000 ≤ o ∧ o < 0x10000 then xingEntry s ((o - 0x8000) / 4) + put (xingEntry s ((o - 0x8000) / 4 + 1)) 32
  else st s o

/-- LNT_ registers. -/
def lntSlot (s : State) (o : Nat) : Nat :=
  if o = 0x10018 then s.keep.test.cores
  else if o = 0x10020 then s.lantern.idleUj / 65536
  else if 0x11000 ≤ o ∧ o < 0x11400 then
    let b := jobOf s ((o - 0x11000) / 0x80)
    let r := o % 0x80
    if r = 0x00 then st s o + put b.pwr.nrun 32 + put b.pwr.nhigh 40
    else if r = 0x08 then st s o
    else if r = 0x10 then
      b.pwr.npace + put b.pwr.nrun 8 + put (b2n b.pwr.thr) 16 + put (count16 b.pwr.own) 21 + put (unsignedN 16 b.pwr.offset) 32
    else if r = 0x18 then (b.pwr.plag.take 6).zipIdx.foldl (fun a x => a + put (count16 x.1) (5 * x.2)) 0
    else if r < 0x48 then b.energy.getD ((r - 0x20) / 8) 0 / 65536
    else 0
  else if 0x12000 ≤ o ∧ o < 0x12100 then
    let w := spireAt s ((o - 0x12000) / 0x40)
    match o % 0x40 with
    | 0x00 => w.mv % 4096 + put (w.ma / 1000 % 4096) 16 + put (min w.edgeFail 5) 28
    | 0x08 => (w.rails.take 5).zipIdx.foldl (fun a x => a + put (x.1 / 100 % 4096) (12 * x.2)) 0
        + (if o = 0x12008 then put (min (s.lantern.vaon / 100) 15) 60 else 0)
    | 0x10 => w.hits
    | _ => 0
  else st s o

/-- A 64-bit register holds bytes 8w to 8w + 7 of a big-endian string. -/
def bytesWord (bs : List Byte) (w : Nat) : Nat := leNat ((bs.drop (8 * w)).take 8)

/-- KEP_ registers. -/
def kepSlot (s : State) (o : Nat) : Nat :=
  let k := s.keep
  if o = 0x20000 then
    k.stage + put (b2n k.stopped) 3 + put (k.slots.getD 0 0) 4 + put (k.slots.getD 2 0) 5 + put (k.slots.getD 1 0) 6
      + put (b2n k.operator.isSome) 7 + put (b2n k.cfgApplied) 8 + put (k.ksvn % 2 ^ 32) 32
  else if o = 0x20018 then k.opState + put k.opCode 2
  else if o = 0x20020 then k.next
  else if 0x20040 ≤ o ∧ o < 0x20060 then bytesWord (beBytes 32 k.nonce.toNat) ((o - 0x20040) / 8)
  else if 0x20080 ≤ o ∧ o < 0x200C0 then bytesWord (beBytes 64 k.devid.toNat) ((o - 0x20080) / 8)
  else st s o

/-- HIF_ registers; ring 8 of the completion rings is the device event ring. -/
def hifSlot (s : State) (o : Nat) : Nat :=
  let cqs (r : CqRing) : Nat := r.tail + put (b2n r.phase) 17
  let cq (j : Nat) : CqRing := s.hif.cq.getD j CqRing.reset
  if o = 0x30000 then b2n s.hif.link + put s.hif.width 1 + put (b2n s.hif.fast) 3
  else if o = 0x30018 then cqs (cq 8)
  else if decide (0x31000 ≤ o) && decide (o < 0x31800) && o % 0x20 == 0x10 then
    let r := s.hif.sq.getD ((o - 0x31000) / 0x20) SqRing.reset
    r.head + put (b2n r.err) 16
  else if 0x32000 ≤ o ∧ o < 0x32800 then
    let j := (o - 0x32000) / 0x100
    let b := jobOf s j
    let r := o % 0x100
    if r = 0x10 then cqs (cq j)
    else if r = 0x18 then (cq j).lost
    else if r = 0x20 then b.state + put b.reason 8 + put (b2n b.ovf) 16
    else if r = 0x28 then b.ckptArea
    else if r = 0x30 then b.ckptBell
    else st s o
  else st s o

/-- PLY_ registers. -/
def plySlot (s : State) (o : Nat) : Nat :=
  let q := (o - 0x40000) / 0x100
  let x := portAt s q
  let r := o % 0x100
  if q ≥ 6 then 0
  else if r = 0x00 then st s o - 16 * fldN (st s o) 4 4
  else if r = 0x08 then
    x.state + put x.txw 2 + put x.rxw 4 + put x.cls 6 + put x.txsp 8 + put x.rxsp 13
      + (match portOwner s q with | some j => put 1 18 + put j 19 | none => 0) + put (maskOf x.rxfail) 22
  else if r = 0x10 then x.paceN + put x.paceLag 8 + put (b2n x.paceThr) 16
  else if r = 0x18 then x.fecCorr
  else if r = 0x20 then x.frameBad
  else if r = 0x28 then x.admitWait
  else if 0x40 ≤ r ∧ r < 0x80 then x.chStall.getD ((r - 0x40) / 8) 0
  else 0

/-- HBM_ and CUP_ registers. -/
def hbmSlot (s : State) (o : Nat) : Nat :=
  if 0x50000 ≤ o ∧ o < 0x50200 then
    let h := (o - 0x50000) / 0x40
    match o % 0x40 with
    | 0x00 => b2n (s.hbm.hot.getD h false) + put (s.hbm.passes.getD h 0 % 2 ^ 24) 8
    | 0x08 => s.hbm.corr.getD h 0
    | 0x10 => s.hbm.uncorr.getD h 0
    | 0x18 => s.hbm.bg.getD h 0
    | _ => 0
  else if o = 0x80000 then s.thermal.inlet % 4096 + put (s.thermal.outlet % 4096) 12
  else if o = 0x80010 then
    match s.thermal.trip with
    | some (c, n, r) => c + put n 2 + put (r % 4096) 12 + put 1 24
    | none => 0
  else if 0x81000 ≤ o ∧ o < 0x82400 then
    let x := siteAt s ((o - 0x81000) / 8)
    let sens (e v : Nat) : Nat := if x.excl.contains e then 0x800 else v % 4096
    readingCode x + put (sens 0 x.a) 12 + put (sens 1 x.b) 24 + put (b2n x.suspect) 36 + put (maskOf x.excl) 37
      + put (b2n x.acked) 39 + put (b2n x.warn) 40
  else st s o

/-- Format of a plane in SPN_WHORL_STATE: 0 when not valid, which a plane is from the completion of its MLOAD (R120). -/
def planeBits (sp : Spindle) : Nat :=
  let pl (h n : Nat) : Plane := (halfOf sp (if sp.whorl.split then h else 0)).planes.getD n Plane.reset
  ([(0, 0), (0, 1), (1, 0), (1, 1)].zipIdx.foldl (fun a x =>
    let p := pl x.1.1 x.1.2
    if p.valid && decide (p.doneAt ≤ sp.clock.lc) then a + put p.fmt (4 + 4 * x.2) + put 1 (20 + x.2) else a) (b2n sp.whorl.split))

/-- The layout of a half in SPN_BOBBIN_STATE, with the data ops that its drain path holds in sc t. -/
def layoutBits (t : Nat) (x : Half) : Nat :=
  x.layout.live + put (b2n x.layout.cmpt) 1 + put x.layout.acc 2 + put x.layout.roww 4 + put x.layout.clog 5
    + put (unsignedN 10 x.layout.win) 8 + put (min (x.drain.filter fun d => d.doneAt.all (t ≤ ·)).length 2) 18

/-- The RC counters of a position by their offset in its page. -/
def spnCounter (c : Counters) (r : Nat) : Nat :=
  match r with
  | 0x200 => c.blkUnder | 0x208 => c.nonFin | 0x210 => c.outOvf | 0x218 => c.x128Sat | 0x220 => c.optNf
  | 0x228 => c.whorlBusy | 0x230 => c.whorlBubble | 0x238 => c.whorlInstr | 0x240 => c.bobbinStall | 0x248 => c.qskip
  | 0x250 => c.qdrift | 0x258 => c.hankStall | 0x260 => c.spilled | 0x268 => c.refilled | 0x270 => c.reelBusy
  | 0x278 => c.reelPeak | 0x280 => c.loftHits | 0x288 => c.loftMisses | 0x290 => c.meshHold | 0x298 => c.hbmHold
  | 0x2A0 => c.eccCorr | 0x2A8 => c.eccPoison | _ => 0

/-- SPN_ registers: offset r of the page of position p. -/
def spnSlot (s : State) (p r : Nat) : Nat :=
  let sp := spAt s p
  let w := pwAt s p
  if r = 0x000 then min sp.clock.lastBell 0xFFFFFF + put (min sp.clock.lastEvents 255) 24
  else if r = 0x008 then sp.clock.total
  else if r = 0x010 then
    maskOf w.phfail + put (b2n w.sramFail) 4 + put (b2n w.dark) 5 + put (if w.dark then w.cause else 0) 6 + put (maskOf w.excl) 8
      + put w.capPct 16 + put (b2n w.bump) 23 + put (min w.bumpRun 64) 24 + put w.wake 32 + put (if w.wake = 3 then w.step else 0) 34
      + put (w.amps / 10 % 4096) 48
  else if r = 0x018 then w.margin + put w.level 4 + put (w.ro0 % 65536) 32 + put (w.ro1 % 65536) 48
  else if r = 0x020 then b2n sp.service.oos + put sp.service.cause 1 + put sp.service.stream 4
  else if r = 0x028 then planeBits sp
  else if r = 0x030 then 
    layoutBits sp.clock.lc (halfOf sp 0) + (if sp.whorl.split then put (layoutBits sp.clock.lc (halfOf sp 1)) 32 else 0)
  else if r = 0x038 then (halfOf sp 0).pc % 2 ^ 30 + put ((halfOf sp 1).pc % 2 ^ 30) 32
  else if r = 0x040 ∨ r = 0x048 then st s (0x100000 + 0x400 * p + r)
  else if r = 0x050 then (halfOf sp 0).sel % 2 ^ 32 + put ((halfOf sp 1).sel % 2 ^ 32) 32
  else if r = 0x058 then
    sp.hank.used % 2 ^ 24 + (match sp.hank.mover with | some m => put 1 24 + put (b2n m.refill) 25 | none => 0)
      + put (sp.hank.cellarLines % 2 ^ 32) 32
  else if r = 0x060 then
    let old := match sp.hank.region with | e :: _ => e.line | [] => sp.hank.newest
    sp.hank.newest + put old 19 + put (min sp.hank.region.length 0x1FFF) 38 + put (min sp.hank.cellar.length 0x1FFF) 51
  else if r = 0x068 then
    maskOf ((List.range 16).filter fun i => (sp.reeler.buffers.getD i none).isSome) + put (sp.reeler.queue.length) 16
      + put (min ((sp.carder.sent.filter fun x => x.final && x.onWay sp.clock.lc).length) 8) 25
  else if r = 0x070 then sp.reeler.waits.length + put (sp.ctr.fePeak % 64) 8
  else if r = 0x080 then sp.syncErr % 2 ^ 64
  else if r = 0x088 then (getKey p s.syncCap).getD sp.syncErr / 2 ^ 64 % 2 ^ 64
  else if r = 0x090 then (getKey p s.syncCap).getD sp.syncErr / 2 ^ 128 % 2 ^ 64
  else if 0x100 ≤ r ∧ r < 0x180 then sp.sems.getD ((r - 0x100) / 8) 0
  else if r = 0x228 then let x := sp.countBusy sp.clock.lc; x.ctr.whorlBusy - x.busyAhead sp.clock.lc
  else if r = 0x230 then sat32 sp.ctr.whorlBubble (bubblesNow (openPos s p) 0 sp.clock.lc + bubblesNow (openPos s p) 1 sp.clock.lc)
  else spnCounter sp.ctr r

/-- TRD_ registers: offset r of the page of position p. -/
def trdSlot (s : State) (p r : Nat) : Nat :=
  let sp := spAt s p
  if r < 0x30 then
    let q := strmOf sp (r / 8)
    q.next % 2 ^ 32 + put (min (q.queue.filter (·.marker.isNone)).length 128) 32 + put (b2n q.en) 40 + put (b2n q.finished) 41
      + put (b2n q.halted) 42
  else if 0x40 ≤ r ∧ r < 0x1C0 then
    let i := (r - 0x40) / 8
    let c := (strmOf sp (i / 8)).loops.getD (i % 8) ⟨0, false⟩
    c.value % 2 ^ 24 + put (b2n c.armed) 24
  else 0

/-- The 8-byte slot at an offset that is a multiple of 8 (R489, R490). -/
def slotAt (s : State) (o : Nat) : Nat :=
  if o < 0x10000 then belSlot s o
  else if o < 0x20000 then lntSlot s o
  else if o < 0x30000 then kepSlot s o
  else if o < 0x40000 then hifSlot s o
  else if o < 0x50000 then plySlot s o
  else if o < 0x100000 then hbmSlot s o
  else if o < 0x19C000 then spnSlot s ((o - 0x100000) / 0x400) (o % 0x400)
  else if o < 0x200000 then 0
  else if o < 0x24E000 then trdSlot s ((o - 0x200000) / 0x200) (o % 0x200)
  else 0

/-- The doorbell page at an offset that is a multiple of 8 (Table 14.3). -/
def pageSlot (s : State) (o : Nat) : Nat :=
  if 0x8000 ≤ o ∧ o < 0x8090 then memNat s.hif.msix (o - 0x8000) 8
  else if o = 0xC000 then maskOf s.hif.msixPend
  else 0

/-- The registers that answer after a boot stopped (R435). -/
def answersStopped (o : Nat) : Bool := o == 0x20000 || o == 0x30000 || (decide (0x20080 ≤ o) && decide (o < 0x200C0))

/-- The set-up space answers fully (R451). -/
def spaceOpen (s : State) : Bool := s.power.step == 14 && !s.power.off

/-- A legal access (R490). -/
def legalAcc (off n : Nat) : Bool := (n == 4 || n == 8) && off % n == 0

/-- What a read of n bytes at an offset returns. -/
def regRead (s : State) (off n : Nat) : Nat :=
  let o := off / 8 * 8
  if !legalAcc off n then 0
  else
    let v := if off ≥ 0x410000 then (if spaceOpen s then compSlot s (o - 0x410000) else 0)
      else if off ≥ 0x400000 then (if spaceOpen s then pageSlot s (o - 0x400000) else 0)
      else if s.keep.stopped then (if answersStopped o then slotAt s o else 0)
      else if spaceOpen s then slotAt s o else 0
    v / 2 ^ (8 * (off % 8)) % 2 ^ (8 * n)

/-! Reads that clear (R492) -/

/-- The counter at an offset in a position's page becomes 0; a peak becomes the occupancy as it stands. -/
def clearCtr (waits queue r : Nat) (c : Counters) : Counters :=
  match r with
  | 0x070 => { c with fePeak := waits }
  | 0x200 => { c with blkUnder := 0 } | 0x208 => { c with nonFin := 0 } | 0x210 => { c with outOvf := 0 }
  | 0x218 => { c with x128Sat := 0 } | 0x220 => { c with optNf := 0 } | 0x228 => { c with whorlBusy := 0 }
  | 0x230 => { c with whorlBubble := 0 } | 0x238 => { c with whorlInstr := 0 } | 0x240 => { c with bobbinStall := 0 }
  | 0x248 => { c with qskip := 0 } | 0x250 => { c with qdrift := 0 } | 0x258 => { c with hankStall := 0 }
  | 0x260 => { c with spilled := 0 } | 0x268 => { c with refilled := 0 } | 0x270 => { c with reelBusy := 0 }
  | 0x278 => { c with reelPeak := queue } | 0x280 => { c with loftHits := 0 } | 0x288 => { c with loftMisses := 0 }
  | 0x290 => { c with meshHold := 0 } | 0x298 => { c with hbmHold := 0 } | 0x2A0 => { c with eccCorr := 0 }
  | 0x2A8 => { c with eccPoison := 0 } | _ => c

/-- A position's page after a read at an offset: the occupations counted so far are not counted again. -/
def clearSpn (r : Nat) (sp : Spindle) : Spindle :=
  if r = 0x228 then let x := sp.countBusy sp.clock.lc; { x with ctr := { x.ctr with whorlBusy := x.busyAhead sp.clock.lc } }
  else { sp with ctr := clearCtr sp.reeler.waits.length sp.reeler.queue.length r sp.ctr }

/-- The counter of a port at an offset in its registers becomes 0. -/
def clearPort (r : Nat) (x : Port) : Port :=
  if r = 0x18 then { x with fecCorr := 0 }
  else if r = 0x20 then { x with frameBad := 0 }
  else if r = 0x28 then { x with admitWait := 0 }
  else if 0x40 ≤ r ∧ r < 0x80 then { x with chStall := modAt x.chStall ((r - 0x40) / 8) fun _ => 0 }
  else x

/-- The RC fields of the slot at o become 0. -/
def clearRc (s : State) (o : Nat) : State :=
  if o = 0x30 then { s with bell := { s.bell with slipCount := 0 } }
  else if inBlock o 0x1020 0x40 8 then modJob s ((o - 0x1000) / 0x40) fun b => { b with num := { b.num with skips := 0 } }
  else if inBlock o 0x12010 0x40 4 then modSpire s ((o - 0x12000) / 0x40) fun w => { w with hits := 0 }
  else if inBlock o 0x32018 0x100 8 then
    { s with hif := { s.hif with cq := modAt s.hif.cq ((o - 0x32000) / 0x100) fun r => { r with lost := 0 } } }
  else if 0x40000 ≤ o ∧ o < 0x40600 then modPort s ((o - 0x40000) / 0x100) (clearPort (o % 0x100))
  else if 0x50000 ≤ o ∧ o < 0x50200 then
    let h := (o - 0x50000) / 0x40
    let z (l : List Nat) : List Nat := modAt l h fun _ => 0
    match o % 0x40 with
    | 0x08 => { s with hbm := { s.hbm with corr := z s.hbm.corr } }
    | 0x10 => { s with hbm := { s.hbm with uncorr := z s.hbm.uncorr } }
    | 0x18 => { s with hbm := { s.hbm with bg := z s.hbm.bg } }
    | _ => s
  else if 0x100000 ≤ o ∧ o < 0x19C000 then
    let p := (o - 0x100000) / 0x400
    modSp (if o % 0x400 = 0x230 then runPos s p fun l => l.bubblesSeen l.sp.clock.lc else s) p (clearSpn (o % 0x400))
  else s

/-- SPN_SYNC_ERR word 0 read: the record is captured for words 1 and 2 (R493). -/
def captureSync (s : State) (p : Nat) : State := { s with syncCap := insKey p (spAt s p).syncErr s.syncCap }

/-- A message leaves the block. -/
def sendMsg (s : State) (kind : Nat) (bs : List Byte) : State :=
  { s with hif := { s.hif with out := s.hif.out ++ [{ kind := kind, bytes := bs }] } }

/-- RC_REGISTER_READ: the value goes out and the RC fields returned clear (R490, R492, R493). -/
def execRcRegisterRead (off n : Nat) (s : State) : Out :=
  .next <|
    let v := regRead s off n
    let t := sendMsg s 4 (leBytes n v)
    if legalAcc off n && spaceOpen s && !s.keep.stopped && decide (off < 0x400000) then
      let o := off / 8 * 8
      let t := if off % 8 = 0 then clearRc t o else t
      if decide (0x100000 ≤ o) && decide (o < 0x19C000) && o % 0x400 == 0x80 then captureSync t ((o - 0x100000) / 0x400) else t
    else t

/-- SYNC_ERR_CAPTURE. -/
def execSyncErrCapture (p : Nat) (s : State) : Out := onUnit "position" 624 p (captureSync s p)

/-! Writes (R455, R456, R491) -/

/-- The mask of the bits [hi:lo]. -/
def bitsMask (hi lo : Nat) : Nat := (2 ^ (hi + 1 - lo) - 1) <<< lo

/-- The ST bits of a slot that an access of n bytes at off covers in whole fields. -/
def stagedMask (off n : Nat) : Nat :=
  let lo := 8 * (off % 8)
  (stFields (off / 8 * 8)).foldl (fun m f => if lo ≤ f.2 ∧ f.1 < lo + 8 * n then m ||| bitsMask f.1 f.2 else m) 0

/-- Put a staged value in its place by offset, over what was staged there. -/
def stageIn (o mask v : Nat) : List Staged → List Staged
  | [] => [{ off := o, mask := mask, value := v }]
  | x :: xs =>
    if o < x.off then { off := o, mask := mask, value := v } :: x :: xs
    else if o = x.off then { off := o, mask := x.mask ||| mask, value := (x.value - (x.value &&& mask)) + v } :: xs
    else x :: stageIn o mask v xs

/-- Stage the fields a write covers. -/
def stageWrite (off n v : Nat) (l : List Staged) : List Staged :=
  let m := stagedMask off n
  if m = 0 then l else stageIn (off / 8 * 8) m (((v % 2 ^ (8 * n)) <<< (8 * (off % 8))) &&& m) l

/-- The commit request with its tag (R456). -/
def askCommit (s : State) (tag : Nat) : State := { s with regs := { s.regs with request := some (tag % 65536) } }

/-- MSI-X vectors that wait and are no longer masked are sent. -/
def flushMsix (s : State) : State :=
  let open_ (v : Nat) : Bool := !(memNat s.hif.msix (16 * v + 12) 1).testBit 0
  let go := s.hif.msixPend.filter open_
  let s := { s with hif := { s.hif with msixPend := s.hif.msixPend.filter fun v => !open_ v } }
  go.foldl (fun s v => sendMsg s 0 [BitVec.ofNat 8 v]) s

/-- COMMIT_GO. -/
def execCommitGo (tag : Nat) (s : State) : Out := .next (if spaceOpen s && !s.keep.stopped then askCommit s tag else s)

/-- REGISTER_WRITE. -/
def execRegisterWrite (off n v : Nat) (s : State) : Out :=
  if legalAcc off n && spaceOpen s && !s.keep.stopped then
    if off = 0x40 then .next (if v.testBit 0 then askCommit s (v / 65536) else s)
    else if off = 0x80008 then execBlindSiteAck (v % 1024) s
    else if 0x408000 ≤ off ∧ off < 0x408090 then
      .next (flushMsix { s with hif := { s.hif with msix := memWrite s.hif.msix (off - 0x408000) (leBytes n v) } })
    else if 0x410000 ≤ off ∧ off < 0x420000 then .next (compWrite (off - 0x410000) n v s)
    else if off < 0x400000 then .next { s with regs := { s.regs with staged := stageWrite off n v s.regs.staged } }
    else .next s
  else .next s

end Sys2Proof.Machine
end

