-- ==== Sys2Proof/Machine/Commit.lean ====
section
/-!
DEFINITION. Commits (R455 to R461): the snapshot, its three checks in order, and what applying it does.
-/
namespace Sys2Proof.Machine

/-! The measurement log (R436) -/

/-- An entry is appended to the measurement log. -/
def measure (s : State) (i : Nat) (d : BitVec 512) : State :=
  { s with keep := { s.keep with log := s.keep.log ++ [(i, (if s.bell.fired then s.bell.count else 0), d)] } }

/-- Digest of the spare map in effect: its 576 entries as 16-bit values. -/
def mapDigest (s : State) : BitVec 512 := digest ((List.range 576).flatMap fun n => leBytes 2 (mapEntry s n))

/-- The spare map has changed: a further index-6 entry. -/
def measureMap (s : State) : State := measure s 6 (mapDigest s)

/-! The configuration with a snapshot laid over it (R457) -/

/-- Value of a register with the snapshot laid over the values in effect. -/
def laid (s : State) (l : List Staged) (o : Nat) : Nat :=
  match l.find? (·.off == o) with
  | some x => (st s o - (st s o &&& x.mask)) + x.value
  | none => st s o

/-- Bits of a register that the snapshot stages. -/
def stagedBits (l : List Staged) (o : Nat) : Nat := match l.find? (·.off == o) with | some x => x.mask | none => 0

/-- A value in a closed range. -/
def within (lo v hi : Nat) : Bool := decide (lo ≤ v) && decide (v ≤ hi)

/-- Site code of entry k of a spare-map word that holds logical number n: none where X or Y is out of range. -/
def entrySite (v k n : Nat) : Option Nat :=
  let e := v / 2 ^ (16 * k) % 65536
  if e % 16 ≤ 12 ∧ e / 16 % 16 ≤ 11 then some (156 * (n / 144) + 12 * (e % 16) + e / 16 % 16) else none

/-- Check 1: the fields of a staged register lie within their own limits. -/
def limitsOk (s : State) (l : List Staged) (o : Nat) : Bool :=
  let v := laid s l o
  let f (hi lo : Nat) : Nat := fldN v hi lo
  if o = 0x08 then within 14 (f 4 0) 20
  else if o = 0x10 then within 80 (f 6 0) 95 && within 1 (f 14 8) 10
  else if o = 0x18 then f 31 8 != 0
  else if o = 0x50 then f 1 0 != 3
  else if inBlock o 0x1008 0x40 8 then f 31 24 != 0xFF && f 47 32 != 0
  else if inBlock o 0x2000 8 144 then
    (List.range 4).all fun k => (stagedBits l o) / 2 ^ (16 * k) % 256 == 0 || (entrySite v k ((o - 0x2000) / 8 * 4 + k)).isSome
  else if o = 0x10000 then within 500 (f 11 0) 3400
  else if o = 0x10008 then within 10 (f 7 0) 60 && within 2 (f 15 8) 10
  else if o = 0x10010 then within 5 (f 7 0) 40
  else if inBlock o 0x11000 0x80 8 then within 1 (f 7 0) 64 && within 1 (f 15 8) 64 && f 27 16 != 0
  else if inBlock o 0x11008 0x80 8 then within 1 (f 12 8) 16
  else if o = 0x20008 then decide (f 3 0 ≤ 4) && (f 3 0 == 0 || within 1 (f 31 8) 8388608)
  else if o = 0x20010 then f 5 0 == 0
  else if inBlock o 0x31008 0x20 64 then within 4 (f 8 4) 16
  else if o = 0x30010 || inBlock o 0x32008 0x100 8 then within 6 (f 6 2) 16
  else if inBlock o 0x40000 0x100 6 then f 3 2 != 3
  else if decide (0x100000 ≤ o) && o % 0x400 == 0x40 then
    (within 8 (f 4 0) 20 || f 4 0 == 31) && f 7 6 != 3 && f 19 8 != 0
  else true

/-- The sites that the laid-over map gives the numbers of spire i, in order (R250). -/
def laidSites (s : State) (l : List Staged) (i : Nat) : List Nat :=
  (List.range 144).filterMap fun k => let n := 144 * i + k; entrySite (laid s l (0x2000 + n / 4 * 8)) (n % 4) n

/-- A snapshot's spare map differs from the one in effect. -/
def mapChanges (s : State) (l : List Staged) : Bool :=
  (List.range 144).any fun k => let o := 0x2000 + 8 * k; laid s l o != st s o

/-- Union of the four pages of job j for a stack and channel, laid over. -/
def planUnion (s : State) (l : List Staged) (j sc : Nat) : Nat :=
  (List.range 4).foldl (fun m pg => m ||| laid s l (0x60000 + 8 * ((4 * j + pg) * 256 + sc))) 0

/-- A range of device addresses lies wholly in the host window or in the populated HBM (R442, R480). -/
def hostOrHbm (a n : Nat) : Bool :=
  (decide (0x0010_0000_0000_0000 ≤ a) && decide (a + n ≤ 0x0020_0000_0000_0000)) || inHbm a n

/-- Check 2: the groups of fields that a staged register belongs to agree. -/
def agreeOk (s : State) (l : List Staged) (o : Nat) : Bool :=
  let v := laid s l o
  let f (hi lo : Nat) : Nat := fldN v hi lo
  if o = 0x10 then decide (f 6 0 + f 14 8 ≤ 98)
  else if inBlock o 0x1008 0x40 8 then decide (f 23 16 ≤ f 31 24)
  else if inBlock o 0x2000 8 144 then
    let n := (o - 0x2000) / 8 * 4
    let all := laidSites s l (n / 144)
    (v == st s o || decide (s.keep.log.length < 200)) &&
      (List.range 4).all fun k => match entrySite v k (n + k) with | some c => decide ((all.filter (· == c)).length ≤ 1) | none => true
  else if o = 0x10008 then decide (f 15 8 < f 7 0)
  else if inBlock o 0x11000 0x80 8 then decide (f 15 8 ≤ f 7 0)
  else if inBlock o 0x11008 0x80 8 then (f 1 1 == 0 || f 31 16 != 0) && decide (f 31 16 ≤ f 47 32)
  else if o = 0x20008 ∨ o = 0x20010 then
    let op := laid s l 0x20008
    fldN op 3 0 == 0 || hostOrHbm (laid s l 0x20010) (fldN op 31 8)
  else if o = 0x30008 || inBlock o 0x31000 0x20 64 || inBlock o 0x32000 0x100 8 then
    v == st s o || !((st s (o + 8)).testBit 0 && (laid s l (o + 8)).testBit 0)
  else if o = 0x30010 || inBlock o 0x31008 0x20 64 || inBlock o 0x32008 0x100 8 then
    let keep := if inBlock o 0x31008 0x20 64 then fldN v 8 1 == stf s o 8 1 else fldN v 6 2 == stf s o 6 2
    keep || !((st s o).testBit 0 && v.testBit 0)
  else if decide (0x32000 ≤ o) && decide (o < 0x32800) && inBlock (o % 0x100) 0x40 8 9 then
    let j := (o - 0x32000) / 0x100
    let w := (o % 0x100 - 0x40) / 8
    (v == 0 || !s.power.noJob) &&
      (List.range 8).all (fun k => k == j || laid s l (0x32040 + 0x100 * k + 8 * w) &&& v == 0) &&
      (List.range 64).all fun b => !v.testBit b || decide (posOf s (64 * w + b) < 624 ∨ (mapChanges s l ∧
        (entrySite (laid s l (0x2000 + (64 * w + b) / 4 * 8)) ((64 * w + b) % 4) (64 * w + b)).isSome))
  else if inBlock o 0x60000 8 8192 then
    let i := (o - 0x60000) / 8
    let j := i / 1024
    (List.range 8).all fun k => k == j || planUnion s l k (i % 256) &&& v == 0
  else true

/-- Any job runs. -/
def anyRuns (s : State) : Bool := (List.range 8).any (jobRuns s)

/-- Check 3: no field of a staged register that cannot change while a job runs changes while one runs (Table 19.4). -/
def busyOk (s : State) (l : List Staged) (o : Nat) : Bool :=
  let v := laid s l o
  let same := v == st s o
  if o = 0x08 then same || !anyRuns s
  else if inBlock o 0x2000 8 144 then same || !anyRuns s
  else if o = 0x50 then same || fldN v 1 0 == 0 || !anyRuns s
  else if o = 0x20008 then fldN (v &&& stagedBits l o) 3 0 == 0 || (!anyRuns s && s.keep.opState != 1)
  else if inBlock o 0x40000 0x100 6 then
    let q := (o - 0x40000) / 0x100
    (fldN v 3 0 == stf s o 3 0 || !anyRuns s) &&
      (!(v &&& stagedBits l o).testBit 4 || match portOwner s q with | some j => !jobRuns s j | none => true)
  else if 0x32000 ≤ o ∧ o < 0x32800 then same || !jobRuns s ((o - 0x32000) / 0x100)
  else true

/-- The first check that fails, with the lowest offset that fails it: 2 mismatch, 3 busy (R457, R458). -/
def refusal (s : State) (l : List Staged) : Option (Nat × Nat) :=
  let os := l.map (·.off)
  match os.find? (fun o => !limitsOk s l o) with
  | some o => some (2, o)
  | none =>
    match os.find? (fun o => !agreeOk s l o) with
    | some o => some (2, o)
    | none => (os.find? (fun o => !busyOk s l o)).map fun o => (3, o)

/-! Applying (R458) -/

/-- A submission ring is disabled: its unaccepted descriptors and its position go (R372). -/
def dropSq (s : State) (r : Nat) : State :=
  { s with hif := { s.hif with sq := modAt s.hif.sq r fun _ => SqRing.reset,
                               descs := s.hif.descs.filter fun d => d.ring != r || d.accepted.isSome } }

/-- Completion ring j; 8 is the device event ring. -/
def cqAt (s : State) (j : Nat) : CqRing := s.hif.cq.getD j CqRing.reset
/-- Change completion ring j. -/
def modCq (s : State) (j : Nat) (f : CqRing → CqRing) : State := { s with hif := { s.hif with cq := modAt s.hif.cq j f } }

/-- An entry that cannot be written is held, or lost when 512 are held: E-0x503 is raised when it is latched, and the job faults (R360, R371). -/
def holdEntry (s : State) (j : Nat) (e : Entry) : State :=
  if (cqAt s j).held.length < 512 then modCq s j fun r => { r with held := r.held ++ [e] }
  else
    let s := modCq s j fun r => { r with lost := sat32 r.lost 1 }
    if j < 8 then
      let s1 := modJob s j fun b => { b with ovf := true }
      if (jobOf s j).ovf then faultJob s1 j 0x503 false else raiseJob s1 j (ev 0x503 0 0)
    else s

/-- A completion ring is disabled: what it held goes to the device event ring, as far as that holds it (R360, R368). -/
def dropCq (s : State) (j : Nat) : State :=
  let held := if j < 8 then (cqAt s j).held else []
  held.foldl (fun s e => holdEntry s 8 e)
    (modCq s j fun r => { r with tail := 0, head := 0, phase := true, held := if j < 8 then [] else r.held })

/-- A wake is requested for every position that the map gives a number of some HIF_JOB_SET (R402). -/
def wakeSets (s : State) : State :=
  (List.range 8).foldl (fun s j => (jobSet s j).foldl (fun s n => requestWake s (posOf s n)) s) s

/-- The spare map of a snapshot takes effect. -/
def applyMap (s : State) (l : List Staged) : State :=
  let m := (List.range 576).map fun n =>
    let o := 0x2000 + n / 4 * 8
    if (stagedBits l o) / 2 ^ (16 * (n % 4)) % 256 = 0 then posOf s n else (entrySite (laid s l o) (n % 4) n).getD 1000
  if m = s.map then s else wakeSets (measureMap { s with map := m })

/-- One register of a snapshot takes effect, with what its fields do. -/
def applyReg (s : State) (l : List Staged) (o : Nat) : State :=
  let v := laid s l o
  let old := st s o
  if inBlock o 0x2000 8 144 then s
  else if o = 0x20008 then
    if fldN v 3 0 = 0 then setSt s o v
    else
      let s := setSt s o (v - fldN v 3 0)
      { s with keep := { s.keep with op := fldN v 3 0, opLen := fldN v 31 8, opState := 1, opCode := 0 } }
  else
    let s := setSt s o v
    if o = 0x50 then { s with power := { s.power with modeAt := some s.bell.count } }
    else if inBlock o 0x31008 0x20 64 then
      (if old.testBit 0 && !v.testBit 0 then dropSq s ((o - 0x31000) / 0x20) else s)
    else if o = 0x30010 then (if old.testBit 0 && !v.testBit 0 then dropCq s 8 else s)
    else if inBlock o 0x32008 0x100 8 then
      (if old.testBit 0 && !v.testBit 0 then dropCq s ((o - 0x32000) / 0x100) else s)
    else if inBlock o 0x40000 0x100 6 then
      let q := (o - 0x40000) / 0x100
      (if fldN old 0 0 = fldN v 0 0 then s
       else if fldN v 0 0 = 1 then s
       else modPort s q fun x => { x with state := 0, items := [], tx := [], wire := [], sent := [] })
    else if inBlock o 0x11008 0x80 8 then
      (if old.testBit 1 == v.testBit 1 then s
       else modJob s ((o - 0x11000) / 0x80) fun b => { b with pwr := { b.pwr with rebCount := 0, rebDue := false } })
    else if decide (0x32000 ≤ o) && decide (o < 0x32800) && inBlock (o % 0x100) 0x40 8 9 then
      let w := (o % 0x100 - 0x40) / 8
      (List.range 64).foldl (fun s b => if v.testBit b then requestWake s (posOf s (64 * w + b)) else s) s
    else s

/-- LSE is clamped into its range and CLEAN kept below RUN (R227). -/
def clampScale (s : State) (j : Nat) : State :=
  let v := st s (0x1008 + 0x40 * j)
  modJob s j fun b => { b with num := { b.num with
    lse := min (max b.num.lse (fldN v 23 16)) (fldN v 31 24), clean := if b.num.clean < fldN v 47 32 then b.num.clean else 0 } }

/-- A snapshot is applied as one group. -/
def applySnap (s : State) (l : List Staged) : State := (l.map (·.off)).foldl (fun s o => applyReg s l o) (applyMap s l)

/-- The result of a commit is recorded and reported (R458). -/
def noteCommit (s : State) (code result tag field : Nat) : State :=
  raiseDev { s with regs := { s.regs with result := result, tag := tag, field := field } } (ev code tag field)

/-- COMMIT_DECIDE: the snapshot under validation is applied or refused. `refused` is the code of a mismatch. -/
def decideCommit (s : State) (mismatch : Nat) : State :=
  match s.regs.snap with
  | none => s
  | some (tag, l) =>
    let s := { s with regs := { s.regs with snap := none } }
    match refusal s l with
    | none => noteCommit (applySnap s l) 0x900 1 tag 0
    | some (r, o) => noteCommit s (if r = 2 then mismatch else 0x902) r tag o

/-- COMMIT_SNAPSHOT: every dirty field is taken, the dirty bits and the request are cleared (R456). -/
def takeSnap (s : State) : State :=
  match s.regs.request with
  | none => s
  | some tag => { s with regs := { s.regs with snap := some (tag, s.regs.staged), staged := [], request := none } }

/-- What a bell does for commits: the earlier snapshot is decided, then a request takes its snapshot. -/
def bellCommit (s : State) : State := takeSnap (decideCommit s 0x901)

end Sys2Proof.Machine
end

