-- ==== Sys2Proof/Machine/Rings.lean ====
section
/-!
DEFINITION. The rings (R353 to R360, R368): doorbells, descriptor fetch, and the entries written to completion rings.
-/
namespace Sys2Proof.Machine

/-- Submission ring r. -/
def sqAt (s : State) (r : Nat) : SqRing := s.hif.sq.getD r SqRing.reset
/-- Change submission ring r. -/
def modSq (s : State) (r : Nat) (f : SqRing → SqRing) : State := { s with hif := { s.hif with sq := modAt s.hif.sq r f } }
/-- HIF_SQ_CTRL_r. -/
def sqCtrl (s : State) (r hi lo : Nat) : Nat := stf s (0x31008 + 0x20 * r) hi lo
/-- HIF_CQ_CTRL_j, or HIF_DEQ_CTRL for j = 8. -/
def cqCtrl (s : State) (j hi lo : Nat) : Nat := stf s (if j < 8 then 0x32008 + 0x100 * j else 0x30010) hi lo
/-- Base of completion ring j. -/
def cqBase (s : State) (j : Nat) : Nat := st s (if j < 8 then 0x32000 + 0x100 * j else 0x30008)
/-- Entries of submission ring r, of completion ring j. -/
def sqSize (s : State) (r : Nat) : Nat := 2 ^ sqCtrl s r 8 4
def cqSize (s : State) (j : Nat) : Nat := 2 ^ cqCtrl s j 6 2
/-- The job that ring r serves. -/
def sqJob (s : State) (r : Nat) : Nat := sqCtrl s r 3 1

/-! Doorbells (R354) -/

/-- The light sleep state ends at the next bell (R464). -/
def wakeLight (s : State) : State := if s.power.sleep = 1 then { s with power := { s.power with wakeDue := true } } else s

/-- DOORBELL_SQ. -/
def execDoorbellSq (r v : Nat) (s : State) : Out :=
  onUnit "ring" 64 r <|
    if spaceOpen s && !s.keep.stopped then
      let t := v % 65536
      let s := if sqCtrl s r 0 0 = 0 then s else wakeLight s
      if sqCtrl s r 0 0 = 0 ∨ sqSize s r ≤ t then raiseDev s (ev 0x502 r v) else modSq s r fun x => { x with tail := t }
    else s

/-- A head doorbell of completion ring j. -/
def headBell (j d v : Nat) (s : State) : State :=
  if spaceOpen s && !s.keep.stopped then
    let t := v % 65536
    let s := if cqCtrl s j 0 0 = 0 then s else wakeLight s
    if cqCtrl s j 0 0 = 0 ∨ cqSize s j ≤ t then raiseDev s (ev 0x502 d v) else modCq s j fun x => { x with head := t }
  else s

/-- DOORBELL_CQ. -/
def execDoorbellCq (j v : Nat) (s : State) : Out := onUnit "job" 8 j (headBell j (64 + j) v s)
/-- DOORBELL_DEQ. -/
def execDoorbellDeq (v : Nat) (s : State) : Out := .next (headBell 8 72 v s)

/-! Descriptors (Table 14.4) -/

/-- Field [hi:lo] of a descriptor. -/
def Desc.f (d : Desc) (hi lo : Nat) : Nat := fldN d.word hi lo
/-- OPCODE. -/
def Desc.op (d : Desc) : Nat := d.f 7 0
/-- FENCE, CHAIN and NOTIFY. -/
def Desc.fence (d : Desc) : Bool := d.word.testBit 8
def Desc.chain (d : Desc) : Bool := d.word.testBit 9
def Desc.notify (d : Desc) : Bool := d.word.testBit 10
/-- REQTAG. -/
def Desc.tag (d : Desc) : Nat := d.f 63 32

/-- Ring r may be served by the fetcher (R355). -/
def servable_ (s : State) (r : Nat) : Bool :=
  let x := sqAt s r
  sqCtrl s r 0 0 == 1 && x.head != x.seen && !x.err
    && decide ((s.hif.descs.filter fun d => d.ring == r && !d.done).length < 64)

/-- The ring served next, from the one after the last. -/
def nextRing (s : State) : Option Nat := ((List.range 64).map fun i => (s.hif.turn + i) % 64).find? (servable_ s)

/-- Some host line of a range returns poisoned data. -/
def hostBad (s : State) (a n : Nat) : Bool := (hostLines a n).any (s.hif.hostPoison.contains ·)

/-- One descriptor of ring r is fetched, with the record of a JOB_START (R355, R364): `err` and `recErr` are errors of the two host reads, and
E-0x504 names the address of the one that fails first (Table 20.4a). -/
def fetchOne (s : State) (r : Nat) (err recErr : Bool) : State :=
  let x := sqAt s r
  let a := st s (0x31000 + 0x20 * r) + 64 * x.head
  let w := leNat (hostRead s a 64)
  let rcd := fldN w 191 128
  let start := w % 256 == 1
  let j := sqJob s r
  let s := { s with hif := { s.hif with turn := (r + 1) % 64, fetched := s.hif.fetched + 1 } }
  let bad := err || hostBad s a 64
  if bad || (start && (recErr || hostBad s rcd 128)) then
    let e := ev 0x504 (r + 2 ^ 31) (if bad then a else rcd)
    raiseJob (cxlError (modSq s r fun x => { x with err := true }) false) j (if jobRuns s j then e else { e with kind := 0 })
  else
    let d : Desc := { ring := r, idx := x.head, word := w, record := if start then hostRead s rcd 128 else [], accepted := none,
                      started := false, result := none, done := false, energy := [0, 0, 0, 0, 0], job := j, held := false }
    let s := payBytes (modSq s r fun x => { x with head := (x.head + 1) % sqSize s r }) j (if start then 192 else 64)
    { s with hif := { s.hif with descs := s.hif.descs ++ [d] } }

/-- DESCRIPTOR_FETCH: the descriptor of the ring whose turn it is; `err`: its host read returns an error, `recErr`: that of the record of a
JOB_START does. -/
def execDescriptorFetch (err : Bool) (s : State) (recErr : Bool := false) : Out :=
  .next <|
    if s.bell.fired && !s.bell.held && !s.power.off && s.hif.link && decide (s.hif.fetched < 256) then
      match nextRing s with
      | some r => fetchOne s r err recErr
      | none => s
    else s

/-! Entries (R358 to R360, R368) -/

/-- Rank of an entry's type within its frame (R359). -/
def entryRank (e : Entry) : Nat := match e.type with | 1 => 0 | 2 => 0 | 0 => 1 | 5 => 2 | 3 => 3 | _ => 4

/-- Order of an entry within its rank: time and logical spindle of an event, ring and index of a completion, logical spindle of a host
transfer. -/
def entryKey (e : Entry) : Nat :=
  match e.type with
  | 1 => e.at_ * 1024 + e.spd
  | 2 => e.at_ * 1024 + e.spd
  | 0 => fldN e.body 5 0 * 65536 + fldN e.body 21 6
  | 5 => fldN e.body 26 17
  | _ => 0

/-- Entry a goes before entry b. -/
def entryBefore (a b : Entry) : Bool :=
  decide (a.frame < b.frame) || (a.frame == b.frame &&
    (decide (entryRank a < entryRank b) || (entryRank a == entryRank b && decide (entryKey a < entryKey b))))

/-- Put an entry in its place behind its equals. -/
def insEntry (e : Entry) : List Entry → List Entry
  | [] => [e]
  | x :: xs => if entryBefore e x then e :: x :: xs else x :: insEntry e xs

/-- The ring an entry goes to (R368). -/
def ringOf (s : State) (e : Entry) : Nat :=
  match e.job with
  | some j => if j < 8 ∧ cqCtrl s j 0 0 = 1 then j else 8
  | none => 8

/-- The 32 bytes of an entry (Tables 14.11, 14.12). -/
def entryBytes (phase : Bool) (e : Entry) : List Byte :=
  leBytes 32 (b2n phase + put e.type 1 + (if e.type = 1 ∨ e.type = 2 then put (e.code % 4096) 4 else 0)
    + (match e.job with | some j => put (j % 8) 16 | none => put 1 19) + put (e.body % 2 ^ 192) 64)

/-- The ring can take an entry now. -/
def ringReady (s : State) (j : Nat) : Bool :=
  s.hif.link && cqCtrl s j 0 0 == 1 && ((cqAt s j).tail + 1) % cqSize s j != (cqAt s j).head

/-- The receipt of an entry is written in its slot (R369). -/
def putSlot (s : State) (e : Entry) : State :=
  match e.slot with
  | some x => payBytes (hostWrite s x.1 x.2 []) (e.job.getD 8) x.2.length
  | none => s

/-- An entry is written at the tail of its ring, after its receipt. -/
def putEntry (s : State) (j : Nat) (e : Entry) : State :=
  let s := putSlot s e
  let r := cqAt s j
  let s := payBytes (hostWrite s (cqBase s j + 32 * r.tail) (entryBytes r.phase e) []) (e.job.getD 8) 32
  let wrap := r.tail + 1 == cqSize s j
  modCq s j fun r => { r with tail := if wrap then 0 else r.tail + 1, phase := if wrap then !r.phase else r.phase }

/-- The entries that ring j holds are written first, as far as it has room. -/
def drainHeld : List Entry → Nat → State → State
  | [], _, s => s
  | e :: es, j, s =>
    if ringReady s j then drainHeld es j (modCq (putEntry s j e) j fun r => { r with held := es }) else s

/-- One due entry is written or held. -/
def placeEntry (s : State) (e : Entry) : State :=
  let j := ringOf s e
  if (cqAt s j).held.isEmpty && ringReady s j then putEntry s j e
  else if s.hif.link then holdEntry (putSlot s e) j { e with slot := none }
  else holdEntry s j e

/-- MSI-X vector j goes out, or waits while it is masked (R359). -/
def sendVector (s : State) (j : Nat) : State :=
  if (memNat s.hif.msix (16 * j + 12) 1).testBit 0 then { s with hif := { s.hif with msixPend := insNat j s.hif.msixPend } }
  else sendMsg s 0 [BitVec.ofNat 8 j]

/-- ENTRY_WRITE: the entries that arose in earlier frames are written in the order of R359, then the vectors are sent. -/
def execEntryWrite (s : State) : Out :=
  .next <|
    if s.bell.fired && !s.power.off then
      let old := s
      let now := s.hif.due.filter fun e => decide (e.frame < s.bell.count)
      let s := { s with hif := { s.hif with due := s.hif.due.filter fun e => !decide (e.frame < s.bell.count) } }
      let s := (List.range 9).foldl (fun s j => drainHeld (cqAt s j).held j s) s
      let s := (now.foldl (fun l e => insEntry e l) []).foldl placeEntry s
      (List.range 9).foldl (fun s j =>
        if ((cqAt s j).tail != (cqAt old j).tail || (cqAt s j).phase != (cqAt old j).phase) && cqCtrl s j 1 1 == 1 then sendVector s j
        else s) s
    else s

end Sys2Proof.Machine
end

