-- ==== Sys2Proof/Machine/Bulk.lean ====
section
/-!
DEFINITION. Background movers (R342, R343, R362): lines read and written at device addresses with the poison they carry, and ranges moved
line by line.
-/
namespace Sys2Proof.Machine

/-- What a read of one line gives: its bytes and the 8-byte words of them that are poisoned. -/
structure Line where
  data : List Byte
  bad : List Nat
deriving DecidableEq, Repr

/-- Every word of a line. -/
def allWords : List Nat := List.range 8

/-- Device address to host physical address. -/
def hostAddr (a : Nat) : Nat := a - 0x0010_0000_0000_0000

/-- Bring a line to a mover: an error of a line of HBM is counted and reported, naming no job (R344); bytes of host memory and lines of
HBM are charged to `key` (R408). -/
def lineIn (s : State) (key a : Nat) : Line × State :=
  match whereIs a with
  | .distaff n off =>
    let p := posOf s n
    let s := runPos s p fun l => l.scrub off 64
    let l := openPos s p
    ({ data := l.rd off 64, bad := (l.poisoned off 64).map fun o => (o - off) / 8 }, s)
  | .hbm off =>
    let e := hbmErrs s off
    let s := hbmCode (payLines (bgLines s (stackOf off) 1) key 1) off e none
    ({ data := hbmRead s off 64, bad := if e ≥ 2 then allWords else [] }, s)
  | .host h => ({ data := hostRead s h 64, bad := if hostBad s h 64 then allWords else [] }, payBytes s key 64)
  | _ => ({ data := [], bad := [] }, s)

/-- Put a line where it belongs; a poisoned word poisons the word of a distaff, the line of HBM and the line of host memory. -/
def lineOut (s : State) (key a : Nat) (x : Line) : State :=
  let s := shotWrite s none a x.data
  match whereIs a with
  | .distaff n off => if (pwAt s (posOf s n)).dark then s else runPos s (posOf s n) fun l => l.wrP off x.data (x.bad.map fun w => off + 8 * w)
  | .hbm off => hbmWrite (payLines (bgLines s (stackOf off) 1) key 1) off x.data (!x.bad.isEmpty)
  | .host h => hostWrite (payBytes s key 64) h x.data (if x.bad.isEmpty then [] else [h / 64])
  | _ => s

/-- n lines moved one after another. -/
def moveLines (key src dst : Nat) : Nat → State → State
  | 0, s => s
  | n + 1, s =>
    let r := lineIn s key src
    moveLines key (src + 64) (dst + 64) n (lineOut r.2 key dst r.1)

/-- n lines read one after another: their bytes, and whether some word of them was poisoned. -/
def readLines (key a : Nat) : Nat → State → (List Byte × Bool) × State
  | 0, s => (([], false), s)
  | n + 1, s =>
    let r := lineIn s key a
    let t := readLines key (a + 64) n r.2
    ((r.1.data ++ t.1.1, !r.1.bad.isEmpty || t.1.2), t.2)

/-- A byte string written at a line address; a last line in part is filled with what was there. -/
def writeLines (key : Nat) : Nat → Nat → List Byte → State → State
  | 0, _, _, s => s
  | f + 1, a, bs, s =>
    match bs with
    | [] => s
    | b :: rest =>
      let x := (b :: rest).take 64
      writeLines key f (a + 64) ((b :: rest).drop 64)
        (lineOut s key a { data := if x.length = 64 then x else x ++ ((lineIn s key a).1.data.drop x.length), bad := [] })

/-- Write a whole byte string. -/
def writeAll (s : State) (key a : Nat) (bs : List Byte) : State := writeLines key (cdiv bs.length 64) a bs s

/-- A line that a mover may name for job j: host window, populated HBM or a window of the set (R362). -/
def moverPlace (s : State) (j a n : Nat) : Bool :=
  hostOrHbm a n ||
    match whereIs a with
    | .distaff k off => inDist off n && inSet s j k && decide (posOf s k < 624)
    | _ => false

/-- A mover's address that needs the host link. -/
def inHost (a : Nat) : Bool := match whereIs a with | .host _ => true | _ => false

end Sys2Proof.Machine
end

