-- ==== Sys2Proof/Machine/Requests.lean ====
section
/-!
DEFINITION. Descriptors in the device (R355 to R365): requests, completion and its entry, refusal, acceptance at a bell, which descriptor
starts next, receipts that become due, and the end of a job.
-/
namespace Sys2Proof.Machine

/-! Requests (R361) -/

/-- The descriptors of ring r, in ring order. -/
def ringDescs (s : State) (r : Nat) : List Desc := s.hif.descs.filter (·.ring == r)

/-- The descriptors of a ring as requests. -/
def requests : List Desc → List (List Desc)
  | [] => []
  | d :: ds =>
    if d.chain then
      match requests ds with
      | [] => [[d]]
      | g :: gs => (d :: g) :: gs
    else [d] :: requests ds

/-- The request of a descriptor. -/
def requestOf (s : State) (d : Desc) : List Desc := ((requests (ringDescs s d.ring)).find? (·.contains d)).getD [d]

/-- Change the first descriptor equal to d. -/
def setDesc (s : State) (d x : Desc) : State :=
  match s.hif.descs.findIdx? (· == d) with
  | some i => { s with hif := { s.hif with descs := modAt s.hif.descs i fun _ => x } }
  | none => s

/-- Five energies added class by class. -/
def addE (a b : List Nat) : List Nat := (List.range 5).map fun i => a.getD i 0 + b.getD i 0
/-- No energy. -/
def zeroE : List Nat := [0, 0, 0, 0, 0]

/-- A receipt becomes due (R411); a slot that never had a job has no receipt slots, so nothing is written for it. -/
def askReceipt (s : State) (q : RcptReq) : State :=
  if q.slots = 0 then s else { s with hif := { s.hif with receipts := s.hif.receipts ++ [q] } }

/-- The receipt of a request that has completed (R361, R411). -/
def requestReceipt (s : State) (g : List Desc) : State :=
  match g with
  | [] => s
  | d :: _ =>
    if d.tag = 0 then s
    else
      let b := jobOf s d.job
      let at_ := d.accepted.getD (s.bell.count, s.bell.lastBell)
      askReceipt s
        { kind := 2, job := d.job, flags := b2n (g.any (·.held)), reqtag := d.tag, firstBell := at_.1, firstRt := at_.2,
          lastBell := s.bell.count - 1, endRt := s.bell.lastBell, energy := (g.map (·.energy)).foldl addE zeroE, step := b.stepAt,
          base := b.rcptBase, slots := b.rcptSlots, chain := b.rcptChain }

/-- The request has completed. -/
def requestDone (g : List Desc) : Bool := g.all (·.done) && match g.getLast? with | some d => !d.chain | none => true

/-- Requests of ring r that have completed leave the device with their receipts. -/
def settle (s : State) (r : Nat) : State :=
  let rs := requests (ringDescs s r)
  let left := (rs.filter fun g => !requestDone g).flatMap id
  let s := { s with hif := { s.hif with descs := s.hif.descs.filter (·.ring != r) ++ left } }
  (rs.filter requestDone).foldl requestReceipt s

/-- The body of a completion entry (Table 14.12). -/
def doneBody (s : State) (d : Desc) (status : Nat) : Nat :=
  d.ring + put d.idx 6 + put d.op 22 + put status 30 + put (d.f 127 64) 38 + put d.tag 102 + put (s.bell.count % 2 ^ 32) 134

/-- Descriptor d completes with a status at this bell (R356). -/
def complete (s : State) (d : Desc) (status : Nat) : State :=
  let s := setDesc s d { d with started := true, done := true, result := some status }
  let s := if d.notify || status != 0 then
      addDue s { job := some d.job, type := 0, code := 0, body := doneBody s d status, frame := s.bell.count } else s
  settle s d.ring

/-- Descriptor d has started and its last effect is in place, with the status it completes with at the next bell. -/
def finishAt (s : State) (d : Desc) (status : Nat) : State := setDesc s d { d with started := true, result := some status }

/-- The descriptors behind d in its request that have been accepted and have not started. -/
def behind (s : State) (d : Desc) : List Desc :=
  (((requestOf s d).dropWhile (· != d)).drop 1).filter fun x => x.accepted.isSome && !x.started && !x.done

/-- A descriptor is refused with status 1, and those behind it in its chain complete without acting (R361). -/
def refuse (s : State) (d : Desc) : State :=
  let rest := behind s d
  let s := raiseJob s d.job { ev 0x501 (d.ring + put d.idx 6) 0 with kind := 0 }
  rest.foldl (fun s x => complete s x 1) (complete s d 1)

/-! Limits of a descriptor (Tables 14.4 to 14.6) -/

/-- Piece i of a COPY: source, destination. -/
def copyPiece (d : Desc) (i : Nat) : Nat × Nat := (d.f 191 128 + i * d.f 383 320, d.f 255 192 + i * d.f 447 384)

/-- The fields of a COPY are legal (R362). -/
def copyOk (s : State) (d : Desc) : Bool :=
  let n := d.f 287 256
  n % 64 == 0 && decide (64 ≤ n) && d.f 303 288 != 0 && decide (n ≤ d.f 447 384) &&
    (List.range (d.f 303 288)).all fun i =>
      let x := copyPiece d i
      x.1 % 64 == 0 && x.2 % 64 == 0 && moverPlace s d.job x.1 n && moverPlace s d.job x.2 n

/-- A descriptor that breaks no rule of its own (R361). -/
def descOk (s : State) (d : Desc) : Bool :=
  let used (l : List (Nat × Nat)) : Bool := reservedClearN 512 d.word ((10, 0) :: (127, 32) :: l)
  match d.op with
  | 0 => used []
  | 1 => used [(191, 135)]
  | 2 => used []
  | 3 => used [(191, 128), (255, 192), (287, 256), (303, 288), (383, 320), (447, 384)] && copyOk s d
  | 4 => used [(191, 133), (207, 192)] && decide (1 ≤ d.f 207 192) && decide (d.f 207 192 ≤ 256)
  | 5 => used [(191, 140), (255, 192)] && hostOrHbm (d.f 191 128) (max 1 (d.f 255 192))
  | 6 => used [(191, 140), (255, 192)] && hostOrHbm (d.f 191 128) (max 1 (d.f 255 192))
  | _ => false

/-- The chain before d holds a refused descriptor. -/
def chainRefused (s : State) (d : Desc) : Bool :=
  ((requestOf s d).takeWhile (· != d)).any fun x => x.done && x.result == some 1

/-- A descriptor fetched in the frame that has ended is accepted (R355, R361); nothing of a job is dispatched once its JOB_STOP is. -/
def accept (s : State) (d : Desc) : State :=
  let x := { d with accepted := some (s.bell.count, s.bell.lastBell) }
  let s := setDesc s d x
  if chainRefused s x then complete s x 1
  else
    let tag := match requestOf s x with | f :: _ => f.tag | [] => x.tag
    if !(descOk s x && x.tag == tag) then refuse s x
    else if x.op = 2 ∧ jobRuns s x.job then modJob s x.job fun b => { b with stop := true, stopAll := true }
    else s

/-- Every fetched descriptor is accepted, in ascending ring number and then ring order (R357). -/
def acceptAll (s : State) : State :=
  (List.range 64).foldl (fun s r => (((ringDescs s r).filter (·.accepted.isNone)).foldl accept s)) s

/-- Descriptor x of d's job was accepted before d, or has started, and has not completed (R480, R484). -/
def outstandingFor (d x : Desc) : Bool :=
  x.job == d.job && !x.done && x != d && match x.accepted, d.accepted with
    | some a, some b => x.started || decide (a.1 < b.1) || (a.1 == b.1 && decide (x.ring < d.ring))
    | _, _ => false

/-- A CHECKPOINT of d's job is outstanding. -/
def ckptOutstanding (s : State) (d : Desc) : Bool := (jobOf s d.job).ckpt.isSome || s.hif.descs.any fun x => x.op == 5 && outstandingFor d x

/-- A RESTORE of d's slot is outstanding. -/
def restoreOutstanding (s : State) (d : Desc) : Bool := s.hif.descs.any fun x => x.op == 6 && outstandingFor d x

/-! Starts (R356, R357, R365) -/

/-- Descriptor d is accepted and has neither started nor completed. -/
def startable (d : Desc) : Bool := d.accepted.isSome && !d.started && !d.done

/-- The descriptor of ring r that may start. -/
def headOf (s : State) (r : Nat) : Option Desc :=
  let ds := ringDescs s r
  match ds.find? fun d => startable d && d.op != 2 with
  | none => none
  | some d => if d.fence && !((ds.takeWhile (· != d)).all (·.done)) then none else some d

/-- Descriptors start. -/
def belfryRuns (s : State) : Bool := s.bell.fired && !s.bell.held && !s.power.off

/-- A refill can move its lines: its spare is on (R476). -/
def refillRuns (s : State) : Bool :=
  belfryRuns s && s.repair.active && match s.repair.queue with
    | (_, n) :: _ => (pwAt s (posOf s n)).wake == 0 && !(pwAt s (posOf s n)).dark
    | [] => false

/-- The order of acceptance (R357). -/
def acceptKey (d : Desc) : Nat := (d.accepted.getD (0, 0)).1 * 64 + d.ring

/-- The descriptor that starts next: a JOB_STOP first, then the rings in order, but a COPY or the load of a RESTORE, which move in their start
(assumption 1), after a refill, and the COPYs last, in the order of their acceptance (R342). -/
def nextStart (s : State) : Option Desc :=
  let mover (d : Desc) : Bool := d.op == 3 || d.op == 6
  let heads := ((List.range 64).filterMap (headOf s)).filter fun d => !(refillRuns s && mover d)
  (((List.range 64).findSome? fun r => (ringDescs s r).find? fun d => startable d && d.op == 2)) <|>
    (heads.find? (·.op != 3)) <|> (pluckMin (fun _ => true) acceptKey heads).map (·.1)

/-- The next descriptor to start, when it is one of ring r with this opcode. -/
def startOf (s : State) (r op : Nat) : Option Desc :=
  if belfryRuns s then (nextStart s).filter fun d => d.ring == r && d.op == op else none

/-- A command that starts a descriptor of ring r. -/
def onStart (s : State) (r op : Nat) (f : State → Desc → State) : Out :=
  onUnit "ring" 64 r (match startOf s r op with | some d => f s d | none => s)

/-! Receipts and statistics of a job (R411, R365) -/

/-- A job receipt becomes due: final (0) or interim (1). -/
def jobReceipt (s : State) (j kind : Nat) (stopped : Bool) : State :=
  let b := jobOf s j
  let s := askReceipt s
    { kind := kind, job := j, flags := b2n b.rcptHeld + 2 * b2n stopped + 4 * b2n b.rcptRestored, reqtag := 0, firstBell := b.rcptFirst,
      firstRt := b.rcptFirstRt, lastBell := s.bell.count - 1, endRt := s.bell.lastBell, energy := b.rcptEnergy, step := b.stepAt,
      base := b.rcptBase, slots := b.rcptSlots, chain := b.rcptChain }
  modJob s j fun b => { b with rcptFirst := s.bell.count, rcptFirstRt := s.bell.lastBell, rcptEnergy := zeroE, rcptHeld := false,
                               rcptRestored := false, rcptChain := none }

/-- A statistics entry of a job (Table 14.12). -/
def statEntry (s : State) (j : Nat) : State :=
  let b := jobOf s j
  let s := addDue s { job := some j, type := 3, code := 0, frame := s.bell.count,
                      body := b.statBells % 2 ^ 32 + put (b.statSlips % 2 ^ 32) 32 + put (b.statSlip % 2 ^ 64) 64
                        + put (s.bell.count % 2 ^ 32) 128 }
  modJob s j fun b => { b with statBells := 0, statSlips := 0, statSlip := 0, statDue := false }

/-- STATISTICS_ENTRY. -/
def execStatisticsEntry (j : Nat) (s : State) : Out := onUnit "job" 8 j (if (jobOf s j).statDue then statEntry s j else s)

/-! The end of a job (R365) -/

/-- The wait entries of a job's carders leave every table of this device (R287). -/
def dropWaits (s : State) (j : Nat) : State :=
  { s with spindles := s.spindles.map fun sp =>
      { sp with reeler := { sp.reeler with waits := sp.reeler.waits.filter fun w => w.acc.via.isSome || !inSet s j w.acc.src } } }

/-- The transfers of a job are abandoned. -/
def abandonXfers (s : State) (j : Nat) : State := (s.hif.xfers.filter (·.job == j)).foldl abandonXfer s

/-- The ports and channels of a job are released: what they had admitted goes into no later frame (R304). -/
def releasePorts (s : State) (j : Nat) : State :=
  let own := (jobOf s j).ports
  let s := { s with ports := s.ports.zipIdx.map fun x =>
      if own.testBit x.2 then
        { runFrames s.bell.refTime x.1 with send := x.1.send.map fun _ => none, recv := x.1.recv.map fun _ => none, items := [], sent := [], tx := [], wire := [] }
      else x.1 }
  modJob s j fun b => { b with ports := 0 }

/-- The repairs of a job are dropped with it. -/
def dropRepairs (s : State) (j : Nat) : State :=
  let q := s.repair.queue.filter (·.1 != j)
  { s with repair := { s.repair with queue := q, active := !q.isEmpty, finished := s.repair.finished.filter (·.1 != j) } }

/-- The descriptor that started job j and stays outstanding. -/
def starterOf (s : State) (j : Nat) : Option Desc :=
  match (jobOf s j).start with
  | some (r, i) => s.hif.descs.find? fun d => d.ring == r && d.idx == i && d.started && !d.done && (d.op == 1 || d.op == 6)
  | none => none

/-- Job j ends at this bell: after HALT, or by a JOB_STOP, whose bell accepts further descriptors only after the end (R357). -/
def endJob (s : State) (j : Nat) (stopped : Bool) : State :=
  let s := dropWaits s j
  let s := match starterOf s j with | some d => complete s d (if stopped then 2 else 0) | none => s
  let rest := s.hif.descs.filter fun d => d.job == j && !d.done && d.op != 2 &&
    match d.accepted with | some a => decide (a.1 < s.bell.count) | none => false
  let s := rest.foldl (fun s d => complete s d 2) s
  let s := dropRepairs (abandonXfers (releasePorts s j) j) j
  let s := jobReceipt s j 0 stopped
  let s := if (jobOf s j).statlog = 0 then s else statEntry s j
  modJob s j fun b => { b with state := 0, fault := none, stop := false, stopAll := false, start := none, restoring := false, ckpt := none, statDue := false,
                               closeBell := false, abandoned := false }

/-- NOP. -/
def execNop (r : Nat) (s : State) : Out := onStart s r 0 fun s d => complete s d 0

/-- JOB_STOP: it ends the job of its ring when the slot is not Idle. -/
def execJobStop (r : Nat) (s : State) : Out :=
  onStart s r 2 fun s d => complete (if jobRuns s d.job then endJob s d.job true else s) d 0

/-! COPY (R362) -/

/-- n lines read, kept one by one. -/
def linesIn (key a : Nat) : Nat → State → List Line × State
  | 0, s => ([], s)
  | n + 1, s =>
    let r := lineIn s key a
    let t := linesIn key (a + 64) n r.2
    (r.1 :: t.1, t.2)

/-- Lines written one after another. -/
def linesOut (key a : Nat) (ls : List Line) (s : State) : State :=
  ls.zipIdx.foldl (fun s x => lineOut s key (a + 64 * x.2) x.1) s

/-- Every piece of a COPY moves; a source read once for SSTR 0 is not read again. -/
def copyAll (s : State) (d : Desc) : State :=
  let key := descKey d.ring d.idx
  let n := d.f 287 256 / 64
  let k := d.f 303 288
  if d.f 383 320 = 0 then
    let r := linesIn key (d.f 191 128) n s
    (List.range k).foldl (fun s i => linesOut key (copyPiece d i).2 r.1 s) r.2
  else (List.range k).foldl (fun s i => moveLines key (copyPiece d i).1 (copyPiece d i).2 n s) s

/-- A COPY has a piece in the host window. -/
def copyHost (d : Desc) : Bool :=
  (List.range (d.f 303 288)).any fun i => inHost (copyPiece d i).1 || inHost (copyPiece d i).2

/-- COPY: its lines move in the background and it completes at the next bell; without a host link its host accesses fail. -/
def execCopy (r : Nat) (s : State) : Out :=
  onStart s r 3 fun s d =>
    if copyHost d && !s.hif.link then finishAt s d 3 else finishAt (copyAll s d) d 0

/-! SNAPSHOT (R242, R243, Table 14.7) -/

/-- Range i of a snapshot list: SRC, DST, LEN, and its reserved bits. -/
def snapRange (l : List Byte) (i : Nat) : Nat × Nat × Nat × Nat :=
  let w := leNat ((l.drop (32 * i)).take 32)
  (fldN w 63 0, fldN w 127 64, fldN w 191 128, fldN w 255 192)

/-- A range of a snapshot list is legal. -/
def snapOk (s : State) (j : Nat) (x : Nat × Nat × Nat × Nat) : Bool :=
  x.1 % 64 == 0 && x.2.1 % 64 == 0 && x.2.2.1 % 64 == 0 && x.2.2.2 == 0 && moverPlace s j x.1 x.2.2.1 && !inHost x.1 && inHost x.2.1 &&
    hostOrHbm x.2.1 x.2.2.1

/-- SNAPSHOT: the list is read and the descriptor waits for the job's close bell. -/
def execSnapshot (r : Nat) (s : State) : Out :=
  onStart s r 4 fun s d =>
    let n := d.f 207 192
    let a := d.f 191 128
    if !s.hif.link || hostBad s a (32 * n) then finishAt s d 3
    else
      let l := hostRead s a (32 * n)
      let s := payBytes s (descKey d.ring d.idx) (32 * n)
      if (List.range n).all fun i => snapOk s d.job (snapRange l i) then setDesc s d { d with started := true, record := l } else refuse s d

/-- The snapshots of a job that are to be taken at this bell. -/
def snapsDue (s : State) (j : Nat) : List Desc :=
  if (jobOf s j).closeBell then
    s.hif.descs.filter fun d => d.job == j && d.op == 4 && d.started && !d.done && d.result.isNone &&
      match d.accepted with | some a => decide (a.1 < s.bell.count) | none => false
  else []

/-- The close bell of the snapshots that are due finds what they are to hold (R243). -/
def takeShots (s : State) : State :=
  let js := (List.range 8).filter fun j => !(snapsDue s j).isEmpty
  { s with hif := { s.hif with shots := js.map fun j => { job := j, dist := s.spindles.map (·.distaff.mem), hbm := s.hbm.mem } } }

/-- A byte of a snapshot, with a free byte at hand: one that the job has changed since the close bell is copied with an unspecified value, any
other as the close bell found it (R243). -/
def snapByte (x : Shot) (old : Byte) (a : Nat) (now free : Byte) : Byte :=
  if x.own.contains a || (getKey a x.other).getD old != now then free else old

/-- A line of a snapshot of job j. -/
def snapLine (s : State) (j a : Nat) (x : Line) : Line × State :=
  match s.hif.shots.find? (·.job == j) with
  | none => (x, s)
  | some y =>
    let d := drawBytes s x.data.length
    ({ x with data := (shotBytes s y a x.data.length).zip (x.data.zip d.1) |>.zipIdx.map fun v => snapByte y v.1.1 (a + v.2) v.1.2.1 v.1.2.2 }, d.2)

/-- n lines of a snapshot of job j copied. -/
def snapLines (key j src dst : Nat) : Nat → State → State
  | 0, s => s
  | n + 1, s =>
    let r := lineIn s key src
    let x := snapLine r.2 j src r.1
    snapLines key j (src + 64) (dst + 64) n (lineOut x.2 key dst x.1)

/-- One snapshot is captured and copied. -/
def takeOne (s : State) (d : Desc) : State :=
  if !s.hif.link then finishAt s d 3
  else
    finishAt ((List.range (d.f 207 192)).foldl (fun s i =>
      let x := snapRange d.record i
      snapLines (descKey d.ring d.idx) d.job x.1 x.2.1 (x.2.2.1 / 64) s) s) d 0

/-- A refill, the load of a RESTORE or a COPY is there to move its lines, which the copies of a snapshot follow (R342). -/
def moversAhead (s : State) : Bool := belfryRuns s && (refillRuns s || (nextStart s).any fun d => d.op == 3 || d.op == 6)

/-- SNAPSHOT_TAKE. -/
def execSnapshotTake (j : Nat) (s : State) : Out :=
  onUnit "job" 8 j (if moversAhead s then s else (snapsDue s j).foldl takeOne s)

end Sys2Proof.Machine
end

