-- ==== Sys2Proof/Machine/Jobs.lean ====
section
/-!
DEFINITION. Starting a job (R61, R203, R348, R363, R364) and its re-entry after a repair (R479).
-/
namespace Sys2Proof.Machine

/-! The job record (Table 14.8) -/

/-- Field [hi:lo] of a job record. -/
def recF (bs : List Byte) (hi lo : Nat) : Nat := fldN (leNat bs) hi lo
/-- PORTS, STREAMS, HANK and MIRROR. -/
def recPorts (bs : List Byte) : Nat := recF bs 5 0
def recStreams (bs : List Byte) : Nat := recF bs 223 192
def recHank (bs : List Byte) : Nat := recF bs 255 224
def recMirror (bs : List Byte) : Nat := recF bs 287 256

/-- The fields of a job record lie within their limits (Table 14.8), LSE between the given FLOOR and CEIL. -/
def recordFits (floor ceil : Nat) (bs : List Byte) : Bool :=
  let f (hi lo : Nat) : Nat := recF bs hi lo
  reservedClearN 1024 (leNat bs)
      [(5, 0), (23, 8), (71, 32), (119, 80), (191, 128), (223, 192), (255, 224), (287, 256), (307, 288), (383, 320), (399, 384)]
    && decide (floor ≤ f 15 8) && decide (f 15 8 ≤ ceil) && decide (1 ≤ f 23 16) && decide (f 23 16 ≤ 64)
    && recStreams bs % 16 == 0 && inDist (recStreams bs) 128 && recHank bs % 64 == 0 && inDist (recHank bs) 64
    && recMirror bs % 64 == 0 && inDist (recMirror bs) 64 && f 303 288 != 0 && decide (f 303 288 ≤ 4095) && decide (f 307 304 ≤ 12)
    && f 383 320 % 1024 == 0 && f 399 384 != 0 && inHost (f 383 320) && inHost (f 383 320 + 1024 * f 399 384 - 1)

/-- The fields of the job record of a JOB_START, with FLOOR and CEIL of BEL_JOB_LSCALE. -/
def recordOk (s : State) (j : Nat) (bs : List Byte) : Bool :=
  let v := st s (0x1008 + 0x40 * j)
  recordFits (fldN v 23 16) (fldN v 31 24) bs

/-! Checks of a spindle -/

/-- Entry k of a stream table at a local offset (Table 2.4): BASE, LENGTH, EN and the reserved bits. -/
def streamEnt (l : Loc) (a k : Nat) : Nat × Nat × Bool × Nat :=
  let w := l.rdN (a + 16 * k) 16
  (fldN w 31 0, fldN w 63 32, w.testBit 64, fldN w 127 65)

/-- The hank record at a local offset with its reserved bits (Table 7.6). -/
def readHank (l : Loc) (a : Nat) : HankRec × Bool :=
  let w := l.rdN a 64
  ({ base := fldN w 31 0, size := fldN w 63 32, cellar := fldN w 127 64, csize := fldN w 191 128, hi := fldN w 199 192,
     lo := fldN w 207 200, fault := w.testBit 208, cwm := fldN w 223 216, lpf := fldN w 255 224 },
   reservedClearN 512 w [(208, 0), (255, 216)])

/-- The streams whose entries in the stream table break R61; entries 6 and 7 name no stream. -/
def streamsBad (l : Loc) (a : Nat) (h : HankRec) : List Nat :=
  (List.range 8).filter fun k =>
    let e := streamEnt l a k
    if k ≥ 6 then !(e.1 == 0 && e.2.1 == 0 && !e.2.2.1 && e.2.2.2 == 0)
    else e.2.2.2 != 0 || (k == 0 && !e.2.2.1) ||
      (e.2.2.1 && (e.1 % 16 != 0 || e.2.1 == 0 || !inDist e.1 (16 * e.2.1) || overlaps e.1 (16 * e.2.1) h.base h.size))

/-- The hank record is legal on a spindle of spire i (R203). -/
def hankOk (r : HankRec) (clear : Bool) (i : Nat) : Bool :=
  clear && r.base % 4096 == 0 && r.size % 4096 == 0 && r.cellar % 4096 == 0 && r.csize % 4096 == 0 && (r.size == 0 || decide (8192 ≤ r.size))
    && decide (r.base + r.size ≤ distSize) && decide (1 ≤ r.hi) && decide (r.lo < r.hi) &&
    (r.csize == 0 || (inHbm r.cellar r.csize && (r.cellar - hbmBase) / 192000000000 == i &&
      (r.cellar + r.csize - 1 - hbmBase) / 192000000000 == i))

/-- Range i of a mirror record (Table 13.6): HADDR, LOFF, LEN. -/
def mirrorRange (bs : List Byte) (i : Nat) : Nat × Nat × Nat :=
  let w := leNat ((bs.drop (16 * i)).take 16)
  (fldN w 63 0, fldN w 95 64, fldN w 127 96)

/-- The mirror record is legal (R348). -/
def mirrorOk (bs : List Byte) : Bool :=
  (List.range 4).all fun i =>
    let x := mirrorRange bs i
    x.2.2 == 0 || (x.1 % 64 == 0 && x.2.1 % 64 == 0 && x.2.2 % 64 == 0 && inDist x.2.1 x.2.2 && inHbm x.1 x.2.2 &&
      (List.range i).all fun k => let y := mirrorRange bs k; y.2.2 == 0 || !overlaps x.2.1 x.2.2 y.2.1 y.2.2)

/-! Frames and times of a spindle -/

/-- Offset of the first word of the frame that opens (R66). -/
def firstWord (q : Stream) : Nat :=
  match q.queue, q.ctrl, q.flights with
  | e :: _, _, _ => e.woff
  | [], e :: _, _ => e.woff
  | [], [], f :: _ => f.woff
  | [], [], [] => q.next

/-- The loop counters at the first word of the frame that opens (R66). -/
def firstLoops (q : Stream) : List LoopCtr :=
  match q.queue with
  | e :: _ => if e.loops.isEmpty then q.loops else e.loops
  | [] => q.loops

/-- A stream's times move by n. -/
def shiftStream (n : Nat) (q : Stream) : Stream :=
  { q with free := q.free + n, doneAt := q.doneAt + n, waitSince := q.waitSince.map (· + n),
           queue := q.queue.map fun e => { e with at_ := e.at_ + n }, ctrl := q.ctrl.map fun e => { e with at_ := e.at_ + n },
           flights := q.flights.map fun f => { f with due := f.due + n } }

/-- The times of a hank move by n. -/
def shiftHank (n : Nat) (h : Hank) : Hank :=
  { h with wait := h.wait.map fun w => { w with since := w.since + n }, mover := h.mover.map fun m => { m with last := m.last.map (· + n), ready := m.ready + n },
           region := h.region.map fun e => { e with popAt := e.popAt.map (· + n) } }

/-- The times of a reeler move by n. -/
def shiftReeler (n : Nat) (r : Reeler) : Reeler :=
  let acc (a : Access) : Access := { a with at_ := a.at_ + n }
  { r with queue := r.queue.map acc, held := r.held.map acc, free := r.free + n, lastLand := r.lastLand + n,
           waits := r.waits.map fun w => { acc := acc w.acc, expiry := w.expiry + n },
           convs := r.convs.map fun c => { c with at_ := c.at_ + n }, landing := r.landing.map fun x => (x.1, x.2 + n) }

/-- The times that a position's parts keep move with its count, so that what they count in sc goes on (R38). -/
def shiftTimes (n : Nat) (sp : Spindle) : Spindle :=
  if n = 0 then sp
  else
    { sp with
        streams := sp.streams.map (shiftStream n), sigs := sp.sigs.map fun g => { g with at_ := g.at_ + n }, fetchFree := sp.fetchFree + n,
        pend := sp.pend.map fun e => { e with at_ := e.at_ + n }, hank := shiftHank n sp.hank, reeler := shiftReeler n sp.reeler,
        carder := { sp.carder with present := sp.carder.present.map fun a => { a with at_ := a.at_ + n },
                                   sent := sp.carder.sent.map fun x => { x with landAt := x.landAt.map (· + n) } } }

/-! Step 3 and step 4 of R364 on a spindle -/

/-- A stream as its table entry sets it. -/
def freshStream (e : Nat × Nat × Bool × Nat) : Stream :=
  { Stream.reset with base := e.1, len := e.2.1, en := e.2.2.1, finished := !e.2.2.1 }

/-- A half at job start (R141, R147, R180, R181); its planes stay. The layout has Wr = 128, of which an array that an earlier job left split
uses 64 while it stays split (R142; DEDUCED, assumption 94). -/
def freshHalf (x : Half) : Half :=
  { Half.reset with planes := x.planes.map fun p => { p with busyTill := 0, readyAt := 0, doneAt := 0 } }

/-- A spindle at job start: what R364 and R479 clear, and nothing left of what an earlier job had issued. -/
def freshSpindle (es : List (Nat × Nat × Bool × Nat)) (h : HankRec) (sp : Spindle) : Spindle :=
  { sp with
      streams := es.map freshStream, sems := List.replicate 16 0, sigs := [],
      distaff := { sp.distaff with full := [] },
      whorl := { sp.whorl with halves := sp.whorl.halves.map freshHalf, busy := [],
                               ports := sp.whorl.ports.map fun q => { FeedPort.reset with fifo := q.fifo } },
      carder := { Carder.reset with sent := sp.carder.sent, nextTag := sp.carder.nextTag },
      hank := { Hank.reset with record := h },
      reeler := { sp.reeler with buffers := List.replicate 16 none, convs := [], cur := none },
      marked := false, halfRun := none, fendPhase := none, skipping := 0 }

/-- The belfry prepares and checks the spindle of logical number n for job j; the result says whether every check passes. DESIGN CHOICE
(assumption 82): one E-0xA23 names the lowest invalid entry of a stream table, with no stream for entries 6 and 7. -/
def primeSpindle (s : State) (j n : Nat) (bs : List Byte) : State × Bool :=
  let p := posOf s n
  let a := recStreams bs
  let ranges := [(a, 128), (recHank bs, 64), (recMirror bs, 64)]
  let l := (openPos s p).reading ranges
  let h := readHank l (recHank bs)
  let m := l.rd (recMirror bs) 64
  let es := (List.range 6).map (streamEnt l a)
  let bad := l.anyPoison ranges
  let evs := (match bad with | some o => [{ evW 0x302 7 0 7 (ownAddr s p o) with kind := 0 }] | none => [])
    ++ (match streamsBad l a h.1 with | [] => [] | k :: _ => [evW 0xA23 (if k < 6 then k else 7) 0 0 0]) ++ (if hankOk h.1 h.2 (spireOf p) then [] else [ev 0xA24 0 0])
    ++ (if mirrorOk m then [] else [ev 0xA25 0 0])
  let l := { l.mod (freshSpindle es h.1) with evs := l.evs ++ evs }
  let s := closePos s p l
  (modJob s j fun b => { b with mirrors := insKey n m b.mirrors }, evs.isEmpty)

/-- Every spindle of the set. -/
def primeAll (s : State) (j : Nat) (bs : List Byte) : State × Bool :=
  (jobSet s j).foldl (fun r n => let x := primeSpindle r.1 j n bs; (x.1, r.2 && x.2)) (s, true)

/-! JOB_START (R364) -/

/-- A refused start: status 5 and E-0x507 with its reason. -/
def refuseStart (s : State) (d : Desc) (reason : Nat) : State :=
  let s := modJob s d.job fun b => { b with reason := reason }
  complete (raiseJob s d.job (ev 0x507 reason 0)) d 5

/-- A port of a PORTS field that belongs to another job, or will when its start succeeds (R304). -/
def portTaken (s : State) (j ports : Nat) : Bool :=
  (List.range 8).any fun k => k != j && (jobOf s k).state != 0 && (ports &&& ((jobOf s k).ports ||| recPorts (jobOf s k).record)) != 0

/-- The number of a set that has no position. -/
def setUnplaced (s : State) (j : Nat) : Bool := (jobSet s j).any fun n => !decide (posOf s n < 624)

/-- The reason for refusing a JOB_START. -/
def startReason (s : State) (j : Nat) (bs : List Byte) : Option Nat :=
  if (jobOf s j).state != 0 then some 1
  else if (jobSet s j).isEmpty || s.power.noJob || setUnplaced s j then some 2
  else if portTaken s j (recPorts bs) then some 3
  else if !recordOk s j bs || cqCtrl s j 0 0 == 0 then some 4
  else none

/-- NREQ and BASE of a job record take effect. -/
def setPower (s : State) (j : Nat) (bs : List Byte) : State :=
  let o := 0x11000 + 0x80 * j
  setSt s o (recF bs 23 16 + put (stf s o 15 8) 8 + put (recF bs 299 288) 16)

/-- What a start or a restore sets in the slot. -/
def bindJob (s : State) (d : Desc) (bs : List Byte) (b : Job) : Job :=
  { b with state := 1, ovf := false, ports := 0, record := bs, statlog := recF bs 307 304, rcptBase := recF bs 383 320,
           rcptSlots := recF bs 399 384, fault := none, stop := false, stopAll := false, start := some (d.ring, d.idx), page := 0, phase := 0,
           statBells := 0, statSlips := 0, statSlip := 0, statDue := false, closeBell := false, energy := zeroE, rcptEnergy := zeroE,
           rcptFirst := s.bell.count, rcptFirstRt := s.bell.lastBell, rcptHeld := false, rcptRestored := false,
           rcptChain := some (0, 0#512), mirrors := [], abandoned := false, ckpt := none, ckptArea := 0, ckptBell := 0,
           pwr := { JobPower.reset with npace := b.pwr.npace, nrun := b.pwr.nrun } }

/-- Numeric state from a job record (R224, R364). -/
def recNumeric (bs : List Byte) (x : Numeric) : Numeric :=
  { x with key := BitVec.ofNat 64 (recF bs 191 128), step := recF bs 71 32, nf := false, a := recF bs 119 80, lse := recF bs 15 8,
           clean := 0, verdict := false }

/-- NHIGH of job j is computed (R396). -/
def setHigh (s : State) (j : Nat) : State := modJob s j fun b => { b with pwr := { b.pwr with nhigh := nhigh s j } }

/-- JOB_START. -/
def execJobStart (r : Nat) (s : State) : Out :=
  onStart s r 1 fun s d =>
    let j := d.job
    let bs := d.record
    match startReason s j bs with
    | some k => refuseStart s d k
    | none =>
      let s := setDesc s d { d with started := true }
      let s := modJob s j fun b => { bindJob s d bs b with num := recNumeric bs b.num, restoring := false }
      let s := setHigh (setPower s j bs) j
      let x := primeAll s j bs
      modJob x.1 j fun b => { b with startOk := x.2 }

/-- A start whose checks failed: the slot returns to Idle and its descriptor completes with status 5 (R364). -/
def failStart (s : State) (j : Nat) : State :=
  let s := match starterOf s j with | some d => complete s d 5 | none => s
  modJob (releasePorts s j) j fun b => { b with state := 0, start := none, restoring := false, fault := none, stop := false, stopAll := false }

/-- What a restored job had under way goes on, its sc counted from this bell as they were from that of the image (R272, R485): positions are
those of the numbers now. The words that its streams fetched since the image was loaded keep their times (R486). -/
def startFlow (s : State) (j : Nat) : State :=
  let f := (jobOf s j).flow
  let gone := (jobSet s j).zipIdx.map fun x => (posOf s x.1, (spAt s (posOf s x.1)).clock.lc - f.counts.getD x.2 0)
  let by_ (p : Nat) : Nat := (getKey p gone).getD 0
  let line (x : HbmAcc) : HbmAcc := let p := posOf s x.acc.src; { x with pos := p, job := j, at_ := x.at_ + by_ p }
  let own (a : Access) : Access := if targetPos s a == some (posOf s a.src) then { a with at_ := a.at_ + by_ (posOf s a.src) } else a
  let refetched (sp old : Spindle) : Spindle :=
    { sp with fetchFree := old.fetchFree,
              streams := sp.streams.zip old.streams |>.map fun x => { x.1 with queue := x.2.queue, ctrl := x.2.ctrl, flights := x.2.flights } }
  { s with
      spindles := s.spindles.zipIdx.map fun x => if by_ x.2 = 0 then x.1 else refetched (shiftTimes (by_ x.2) x.1) x.1,
      fabric := { s.fabric with
        net := s.fabric.net ++ f.net.map own,
        replies := s.fabric.replies ++ f.replies.map fun r =>
          let p := posOf s r.acc.src
          { r with dst := p, at_ := if r.near then r.at_ + by_ p else r.at_ } },
      hbm := { s.hbm with waiting := s.hbm.waiting ++ f.waiting.map line, granted := s.hbm.granted ++ f.granted.map line } }

/-- The slot is Running, the ports of its record belong to the job, and its first frame opens at this bell (R364, R485). -/
def beginJob (s : State) (j : Nat) : State :=
  let s := if (jobOf s j).restoring then startFlow s j else s
  modJob s j fun b => { b with state := 2, ports := recPorts b.record, firstBell := s.bell.count, restoring := false, flow := Flow.none }

/-- A held job re-enters after its last refill (R479). -/
def reenter (s : State) (j : Nat) : State :=
  let b := jobOf s j
  let s := modJob s j fun b => { b with state := 1, page := 0, fault := none, stop := false, stopAll := false, closeBell := false, num := { b.num with nf := false } }
  let x := primeAll s j b.record
  modJob x.1 j fun b => { b with startOk := x.2 }

end Sys2Proof.Machine
end

