-- ==== Sys2Proof/Machine/Ckpt.lean ====
section
/-!
DEFINITION. Checkpoints, restores, refills (R476, R480 to R485) and receipts (R411 to R413).
-/

/-- The schedule state that a checkpoint image written by another device of this kind reloads, by the image's DIGEST: its layout is that
device's (R481, Table 20.3b). A free value, assumption 43. -/
opaque Sys2Proof.Config.foreignImage :
  BitVec 512 → List Sys2Proof.Machine.Spindle × List (Nat × Nat × Option Sys2Proof.Machine.ChanSide × Option Sys2Proof.Machine.ChanSide) ×
    Option Sys2Proof.Machine.Flow

namespace Sys2Proof.Machine

/-! CHECKPOINT (R480, R481) -/

/-- Bytes of a spindle section. -/
def sectionSize : Nat := 31457280

/-- The spindles of a job's set, in ascending logical order. -/
def setSpindles (s : State) (j : Nat) : List Spindle := (jobSet s j).map fun n => spAt s (posOf s n)

/-- The least LEN of a checkpoint of job j. -/
def ckptLeast (s : State) (j : Nat) : Nat :=
  4096 + (jobSet s j).length * sectionSize + ((setSpindles s j).map fun sp => sp.hank.record.csize).foldl (· + ·) 0

/-- No schedule state. -/
def noSaved : SavedJob := { spindles := [], chans := [], flow := Flow.none }

/-- CHECKPOINT: it waits for the job's close bell, or is refused. -/
def execCheckpoint (r : Nat) (s : State) : Out :=
  onStart s r 5 fun s d =>
    let j := d.job
    let area := d.f 191 128
    let len := d.f 255 192
    if (jobOf s j).state != 2 || ckptOutstanding s d || !hostOrHbm area len || decide (len < ckptLeast s j) then refuse s d
    else
      modJob (setDesc s d { d with started := true }) j fun b =>
        { b with ckpt := some { ring := d.ring, idx := d.idx, area := area, len := len, taken := false, written := false,
                                bell := (d.accepted.getD (s.bell.count, 0)).1, header := [], saved := noSaved } }

/-- CHECKPOINT_TAKE: from this close bell on the job dispatches nothing. -/
def execCheckpointTake (j : Nat) (s : State) : Out :=
  onUnit "job" 8 j <|
    if takeDue s (jobOf s j) then
      modJob s j fun b => { b with ckpt := b.ckpt.map fun c => { c with taken := true, bell := s.bell.count } }
    else s

/-- The cellar lines that an image holds for a spindle. -/
def cellarOf (sp : Spindle) : Nat := sp.hank.cellarLines

/-- Bytes of the image of job j. -/
def imageLen (s : State) (j : Nat) : Nat :=
  4096 + (jobSet s j).length * sectionSize + 64 * ((setSpindles s j).map cellarOf).foldl (· + ·) 0

/-- The job record with STEP, APPLIED and LSE replaced (Table 20.3a). -/
def recNow (b : Job) : List Byte :=
  let w := leNat b.record
  let keep (hi lo v : Nat) (w : Nat) : Nat := w - put (fldN w hi lo) lo + put v lo
  leBytes 128 (keep 15 8 b.num.lse (keep 71 32 b.num.step (keep 119 80 b.num.a w)))

/-- The checkpoint header at bell c + 1, with COUNTER, RDIGEST and DIGEST zero (Table 20.3a). -/
def ckptHeader (s : State) (j : Nat) : List Byte :=
  let b := jobOf s j
  let q := cqAt s j
  let num := (List.range 5).flatMap fun i => leBytes 8 (slotAt s (0x1000 + 0x40 * j + 8 * i))
  let heads := (List.range 64).flatMap fun r => leBytes 2 (if sqJob s r = j ∧ sqCtrl s r 0 0 = 1 then (sqAt s r).head else 0)
  let bs := leBytes 4 0x5A56434B ++ leBytes 2 1 ++ leBytes 2 (jobSet s j).length ++ leBytes 8 (imageLen s j) ++ leBytes 8 s.bell.count
    ++ leBytes 8 s.bell.lastBell ++ leBytes 8 0 ++ leBytes 64 0 ++ beBytes 64 s.keep.devid.toNat
    ++ (List.range 9).flatMap (fun w => leBytes 8 (st s (0x32040 + 0x100 * j + 8 * w))) ++ recNow b ++ num ++ heads
    ++ leBytes 4 (q.tail + put (b2n q.phase) 16) ++ leBytes 1 b.page
  bs ++ leBytes (4096 - bs.length) 0

/-- Full/empty bits of a distaff, one per word (Table 20.3b). -/
def fullBytes (d : Distaff) : List Byte :=
  (List.range 458752).map fun i => BitVec.ofNat 8 ((List.range 8).foldl (fun m k => m + put (b2n (d.full.contains (8 * i + k))) k) 0)

/-- What the spindles of job j have under way. -/
def flowOf (s : State) (j : Nat) : Flow :=
  let mine (a : Access) : Bool := a.via.isNone && inSet s j a.src
  { net := s.fabric.net.filter mine, replies := s.fabric.replies.filter fun r => mine r.acc,
    waiting := s.hbm.waiting.filter fun x => mine x.acc, granted := s.hbm.granted.filter fun x => mine x.acc,
    counts := (setSpindles s j).map (·.clock.lc) }

/-- A stream as an image holds it: the frame that opens next begins with the next word that issues, and with the loop counters there. -/
def saveStream (q : Stream) : Stream := { q with frameFirst := firstWord q, frameLoops := firstLoops q }

/-- The schedule state of job j. -/
def saveJob (s : State) (j : Nat) : SavedJob :=
  let mine (q : Nat) (x : Option ChanSide) : Option ChanSide := if (jobOf s j).ports.testBit q then x else none
  { flow := flowOf s j,
    spindles := (setSpindles s j).map fun sp => { sp with streams := sp.streams.map saveStream },
    chans := (List.range 48).map fun i => (i / 8, i % 8, mine (i / 8) (sendSide s (i / 8) (i % 8)), mine (i / 8) (recvSide s (i / 8) (i % 8))) }

/-- The section of the k-th spindle of the set is written. -/
def writeSection (s : State) (key area k n : Nat) : State :=
  let a := area + 4096 + k * sectionSize
  let s := moveLines key (n * 0x0200_0000) a (distSize / 64) s
  let d := drawBytes s 1146880
  writeAll d.2 key (a + distSize) (fullBytes (spAt s (posOf s n)).distaff ++ d.1 ++ leBytes 491520 0)

/-- The cellars behind the sections. -/
def writeCellars (key : Nat) : List Nat → Nat → State → State
  | [], _, s => s
  | n :: ns, a, s =>
    let sp := spAt s (posOf s n)
    writeCellars key ns (a + 64 * cellarOf sp) (moveLines key sp.hank.record.cellar a (cellarOf sp) s)

/-- Bell c + 1: the image but its header is written and the interim receipt becomes due (R481). -/
def writeImage (s : State) (j : Nat) (c : Ckpt) : State :=
  let key := descKey c.ring c.idx
  let ns := jobSet s j
  let h := ckptHeader s j
  let saved := saveJob s j
  let s := ns.zipIdx.foldl (fun s x => writeSection s key c.area x.2 x.1) s
  let s := writeCellars key ns (c.area + 4096 + ns.length * sectionSize) s
  let s := modJob s j fun b => { b with ckpt := some { c with written := true, header := h, saved := saved } }
  jobReceipt s j 1 false

/-- The jobs whose checkpoint was taken at the bell before. -/
def writeImages (s : State) : State :=
  (List.range 8).foldl (fun s j =>
    match (jobOf s j).ckpt with
    | some c => if c.taken && !c.written && (!inHost c.area || s.hif.link) then writeImage s j c else s
    | none => s) s

/-- Bytes at a device address of the host window or HBM, without the access that brings them. -/
def peek (s : State) (a n : Nat) : List Byte :=
  match whereIs a with | .host h => hostRead s h n | .hbm off => hbmRead s off n | _ => []

/-- An image's digest: SHA-512 with the DIGEST field taken as zero (Table 20.3a). -/
def imageDigest (s : State) (area len : Nat) : BitVec 512 :=
  digest (peek s area 0xFC0 ++ leBytes 64 0 ++ peek s (area + 4096) (len - 4096))

/-- The header is written, the last of the image, after the receipt with this counter and digest was signed. -/
def writeHeader (s : State) (j counter : Nat) (rdigest : BitVec 512) : State :=
  match (jobOf s j).ckpt with
  | none => s
  | some c =>
    if c.written then
      let key := descKey c.ring c.idx
      let h := c.header.take 0x20 ++ leBytes 8 counter ++ beBytes 64 rdigest.toNat ++ c.header.drop 0x68
      let s := writeAll s key c.area h
      let dg := imageDigest s c.area (leNat ((h.drop 8).take 8))
      let s := writeAll s key (c.area + 0xFC0) (beBytes 64 dg.toNat)
      let s := { s with images := (dg, c.saved) :: s.images.filter fun x => x.1 != dg }
      match s.hif.descs.find? fun d => d.ring == c.ring && d.idx == c.idx && d.op == 5 && d.started && !d.done with
      | some d => finishAt s d 0
      | none => s
    else s

/-- A checkpoint descriptor completes: HIF_JOB_CKPT records the image when it is whole (R481). -/
def ckptDone (s : State) (d : Desc) (status : Nat) : State :=
  if d.op = 5 ∧ status = 0 then
    modJob s d.job fun b =>
      match b.ckpt with
      | some c => { b with ckpt := none, ckptArea := c.area, ckptBell := leNat ((c.header.drop 0x10).take 8) }
      | none => b
  else s

/-- A descriptor whose last effect is in place; a CHECKPOINT whose job has taken a fault is left to the hold that ends it (R483). -/
def finished (s : State) (d : Desc) : Bool := !d.done && d.result.isSome && !(d.op == 5 && (jobOf s d.job).fault.isSome)

/-- Every descriptor whose last effect is in place completes (R356). -/
def finishDescs (s : State) : State :=
  (s.hif.descs.filter (finished s)).foldl (fun s d =>
    let v := d.result.getD 0
    ckptDone (complete s d v) d v) s

/-! Receipts (R411, R412, Table 16.4) -/

/-- First offset of the counter ring, and of its next reservation (Table 18.2). -/
def ringBase : Nat := 0x17C0000
def ringOff (k : Keep) : Nat := ringBase + 16 * k.resv

/-- A reservation is written at the next place of the ring; the first of a sector finds it erased (R438). -/
def ringPut (k : Keep) (x : Nat × Nat) : Keep :=
  let i := k.resv / 4096
  { k with ring := modAt k.ring i fun l => if k.resv % 4096 = 0 then [x] else l ++ [x], resv := (k.resv + 1) % 65536 }

/-- The bound after a new reservation that verifies. -/
def reserve (k : Keep) : Keep :=
  let b := k.bound + 65536
  { ringPut k (b, 2 ^ 64 - 1 - b) with bound := b }

/-- A reservation is a bound with its complement. -/
def resvValid (x : Nat × Nat) : Bool := x.1 + x.2 == 2 ^ 64 - 1

/-- The next counter value; a value equal to the bound is handed out after a new reservation (R438). `ok`: its write verifies; where it does not,
E-0x807 is raised and the reservation is written again in the place after (DESIGN CHOICE, assumption 97). -/
def takeCounter (s : State) (ok : Bool) : Nat × State :=
  let k := s.keep
  if k.next = k.bound then
    if ok then (k.next, { s with keep := { reserve k with next := k.next + 1 } })
    else
      let s := raiseDev s (ev 0x807 ringBase (ringOff k))
      (k.next, { s with keep := { reserve (ringPut k (k.bound + 65536, 0)) with next := k.next + 1 } })
  else (k.next, { s with keep := { k with next := k.next + 1 } })

/-- The measurement log as the bytes the keep holds (R436). -/
def logBytes (s : State) : List Byte :=
  s.keep.log.flatMap fun e => leBytes 8 e.1 ++ leBytes 8 e.2.1 ++ beBytes 64 e.2.2.toNat

/-- A receipt's bytes 0x000 to 0x2FF. -/
def receiptBody (s : State) (q : RcptReq) (counter prev : Nat) (prevd : BitVec 512) : List Byte :=
  let uj := q.energy.map (· / 65536)
  let bs := leBytes 2 1 ++ leBytes 1 q.kind ++ leBytes 1 q.flags ++ leBytes 4 q.job ++ leBytes 8 q.reqtag ++ leBytes 8 counter
    ++ leBytes 8 prev ++ leBytes 8 q.firstBell ++ leBytes 8 q.lastBell ++ leBytes 8 q.firstRt ++ leBytes 8 q.endRt
    ++ (List.range 5).flatMap (fun i => leBytes 8 (uj.getD i 0)) ++ leBytes 8 (uj.foldl (· + ·) 0) ++ leBytes 8 s.keep.test.unc
    ++ leBytes 16 s.keep.test.calid ++ beBytes 64 s.keep.devid.toNat ++ beBytes 64 prevd.toNat ++ beBytes 64 (digest (logBytes s)).toNat
    ++ leBytes 5 q.step
  bs ++ leBytes (0x300 - bs.length) 0

/-- One receipt is signed, and its slot and entry become due for the frame after (R411). -/
def signReceipt (s : State) (q : RcptReq) (ok : Bool) : State :=
  let c := takeCounter s ok
  let b := jobOf s q.job
  let prev := q.chain.getD (b.rcptPrev, b.rcptPrevD)
  let body := receiptBody c.2 q c.1 prev.1 prev.2
  let signed := body ++ sigBytes (ecdsaSign s.keep.ak body)
  let dg := digest signed
  let slot := c.1 % q.slots
  let s := if q.kind = 2 then c.2 else modJob c.2 q.job fun b => { b with rcptPrev := c.1, rcptPrevD := dg }
  let s := addDue s { job := some q.job, type := 4, code := 0, frame := s.bell.count,
                      slot := some (hostAddr q.base + 1024 * slot, signed ++ leBytes (1024 - signed.length) 0),
                      body := c.1 % 2 ^ 64 + put q.reqtag 64 + put slot 96 + put (s.bell.count % 2 ^ 32) 112 }
  if q.kind = 1 then writeHeader s q.job c.1 dg else s

/-- RECEIPT_SIGN: the oldest receipt due, at most 32 in a bell, while the host link is up (R411, R470); `flashOk`: a reservation of the counter that
it needs verifies. -/
def execReceiptSign (s : State) (flashOk : Bool := true) : Out :=
  .next <|
    match s.hif.receipts with
    | q :: qs =>
      if belfryRuns s && s.hif.link && decide (s.hif.signed < 32) then
        signReceipt { s with hif := { s.hif with receipts := qs, signed := s.hif.signed + 1 } } q flashOk
      else s
    | [] => s

/-! RESTORE (R484, R485) -/

/-- The schedule state of an image: what this device saved, or what another's layout holds. -/
def savedOf (s : State) (dg : BitVec 512) : SavedJob :=
  match s.images.find? (·.1 == dg) with
  | some x => x.2
  | none => let x := Config.foreignImage dg; { spindles := x.1, chans := x.2.1, flow := x.2.2.getD Flow.none }

/-- A stream as a restore reloads it: words are fetched again from the first of its frame, with the loop counters there (R66). -/
def reloadStream (q : Stream) : Stream :=
  { q with queue := [], flights := [], ctrl := [], next := q.frameFirst, loops := q.frameLoops, fresh := true, fetchStop := q.halted }

/-- A position takes the schedule state saved for it and the full/empty bits of its section; what belongs to the position itself stays, its
counters among it, whose largest occupancies cover what is reloaded (R273, R290). -/
def reloadSpindle (x : Spindle) (full : List Nat) (cur : Spindle) : Spindle :=
  { x with
      streams := x.streams.map reloadStream,
      distaff := { cur.distaff with full := full }, outliers := 0,
      ctr := { cur.ctr with fePeak := max cur.ctr.fePeak x.reeler.waits.length, reelPeak := max cur.ctr.reelPeak x.reeler.queue.length }, syncErr := cur.syncErr,
      clock := { cur.clock with lc := x.clock.lc, bellLc := x.clock.lc, ref56 := x.clock.ref56, lost := 0, lost224 := 0 },
      service := cur.service }

/-- The words whose full/empty bits are set in the state part of a section (Table 20.3b). -/
def fullWords (bs : List Byte) : List Nat :=
  bs.zipIdx.flatMap fun x => ((List.range 8).filter fun k => x.1.toNat.testBit k).map fun k => 8 * x.2 + k

/-- The section of the k-th spindle of the set is read back. -/
def readSection (s : State) (key area k n : Nat) (x : Spindle) : State :=
  let a := area + 4096 + k * sectionSize
  let s := moveLines key a (n * 0x0200_0000) (distSize / 64) s
  let r := readLines key (a + distSize) ((sectionSize - distSize) / 64) s
  modSp r.2 (posOf r.2 n) (reloadSpindle x (fullWords (r.1.1.take 458752)))

/-- The cellars are read back. -/
def readCellars (key : Nat) : List Nat → Nat → State → State
  | [], _, s => s
  | n :: ns, a, s =>
    let sp := spAt s (posOf s n)
    readCellars key ns (a + 64 * cellarOf sp) (moveLines key a sp.hank.record.cellar (cellarOf sp) s)

/-- Field of a header. -/
def headF (h : List Byte) (off n : Nat) : Nat := leNat ((h.drop off).take n)

/-- The job record in a header. -/
def headRec (h : List Byte) : List Byte := (h.drop 0xF0).take 128

/-- Numeric state from NUMERIC (Tables 8.12 to 8.14). -/
def headNumeric (h : List Byte) : Numeric :=
  let a := headF h 0x170 8
  let l := headF h 0x178 8
  { key := BitVec.ofNat 64 (headF h 0x188 8), step := fldN a 39 0, nf := a.testBit 40, a := headF h 0x180 8 % 2 ^ 40, lse := fldN l 7 0,
    apply_ := fldN l 15 8, clean := fldN l 63 48, verdict := a.testBit 41, skips := headF h 0x190 8 % 2 ^ 32 }

/-- LENGTH of a header fits the sections of its NSPIN spindles and whole cellar lines behind them. DEDUCED (assumption 43): how many lines
there are stands in a state part whose layout is the writing device's. -/
def lengthOk (h : List Byte) : Bool :=
  let n := headF h 8 8
  decide (4096 + headF h 6 2 * sectionSize ≤ n) && n % 64 == 0

/-- The reason for refusing a RESTORE before its image is read. -/
def restoreReason (s : State) (d : Desc) (h : List Byte) : Option Nat :=
  let j := d.job
  let l := headF h 0x178 8
  if (jobOf s j).state != 0 || ckptOutstanding s d || restoreOutstanding s d then some 1
  else if (jobSet s j).isEmpty || s.power.noJob then some 2
  else if portTaken s j (recPorts (headRec h)) then some 3
  else if !recordFits (fldN l 23 16) (fldN l 31 24) (headRec h) || cqCtrl s j 0 0 == 0 then some 4
  else if headF h 0 4 != 0x5A56434B || headF h 4 2 != 1 || !lengthOk h || d.f 255 192 < headF h 8 8 then some 5
  else if setUnplaced s j || (List.range 9).any fun w => headF h (0xA8 + 8 * w) 8 != st s (0x32040 + 0x100 * j + 8 * w) then some 6
  else none

/-- The image of a RESTORE is loaded into slot j. -/
def loadImage (s : State) (j : Nat) (d : Desc) (h : List Byte) (dg : BitVec 512) : State :=
  let key := descKey d.ring d.idx
  let area := d.f 191 128
  let ns := jobSet s j
  let sv := savedOf s dg
  let s := ns.zipIdx.foldl (fun s x => readSection s key area x.2 x.1 (sv.spindles.getD x.2 Spindle.reset)) s
  let s := readCellars key ns (area + 4096 + ns.length * sectionSize) s
  let s := sv.chans.foldl (fun s x =>
    if (recPorts (headRec h)).testBit x.1 then
      modRecv (modSend s x.1 x.2.1 fun o => x.2.2.1 <|> o) x.1 x.2.1 fun o => x.2.2.2 <|> o
    else s) s
  modJob s j fun b =>
    { b with flow := sv.flow, mirrors := ns.map fun n => (n, (openPos s (posOf s n)).rd (recMirror b.record) 64) }

/-- The header of the image that RESTORE d names, read as a COPY reads, its lines charged to d (R408, R484). -/
def restoreHeader (s : State) (d : Desc) : List Byte × State :=
  let r := readLines (descKey d.ring d.idx) (d.f 191 128) 64 s
  (r.1.1, r.2)

/-- RESTORE. -/
def execRestore (r : Nat) (s : State) : Out :=
  onStart s r 6 fun s d =>
    let j := d.job
    let area := d.f 191 128
    if (jobOf s j).state != 0 || ckptOutstanding s d || restoreOutstanding s d then refuseStart s d 1
    else if inHost area && !s.hif.link then finishAt s d 3
    else
      let (h, s) := restoreHeader s d
      match restoreReason s d h with
      | some k => refuseStart s d k
      | none =>
        let dg := imageDigest s area (headF h 8 8)
        let good := beNat ((h.drop 0xFC0).take 64) == dg.toNat
        let bs := headRec h
        let l := headF h 0x178 8
        let s := setDesc s d { d with started := true }
        let s := modJob s j fun b =>
          { bindJob s d bs b with num := headNumeric h, restoring := true, startOk := good, page := headF h 0x21C 1, phase := headF h 0x21C 1,
                                  rcptRestored := true, rcptChain := some (headF h 0x20 8, BitVec.ofNat 512 (beNat ((h.drop 0x28).take 64))) }
        let s := setSt s (0x1008 + 0x40 * j) (put (fldN l 31 16) 16 + put (fldN l 47 32) 32)
        let s := setHigh (setPower s j bs) j
        let s := if good then s
          else raiseJob (modJob s j fun b => { b with reason := 5 }) j (ev 0x507 5 0)
        loadImage s j d h dg

/-! REFILL (R476, R478) -/

/-- Step 3: the ranges of mirror record m are copied from HBM into the distaff of number n. -/
def refillMirrors (m : List Byte) (n : Nat) (s : State) : State :=
  (List.range 4).foldl (fun s i => let x := mirrorRange m i; moveLines 8 x.1 (n * 0x0200_0000 + x.2.1) (x.2.2 / 64) s) s

/-- An offset of a distaff lies in a range of mirror record m. -/
def mirrored (m : List Byte) (off : Nat) : Bool :=
  (List.range 4).any fun i => let x := mirrorRange m i; decide (x.2.1 ≤ off) && decide (off < x.2.1 + x.2.2)

/-- Step 4: every other line is copied from the section of the image at `base`, while none of the image is poisoned. -/
def refillImage (m : List Byte) (base n : Nat) : Nat → Nat → State → State × Bool
  | 0, _, s => (s, true)
  | f + 1, i, s =>
    if mirrored m (64 * i) then refillImage m base n f (i + 1) s
    else
      let r := lineIn s 8 (base + 64 * i)
      if !r.1.bad.isEmpty then (r.2, false)
      else refillImage m base n f (i + 1) (lineOut r.2 8 (n * 0x0200_0000 + 64 * i) r.1)

/-- A refill of number n of job j is complete. -/
def refilled (s : State) (j n : Nat) : State :=
  let rest := s.repair.queue.tail
  { s with repair := { s.repair with queue := rest, active := !rest.isEmpty, finished := s.repair.finished ++ [(j, n)] } }

/-- REFILL: the running refill, once the spare is on. -/
def execRefill (s : State) : Out :=
  .next <|
    match s.repair.queue with
    | (j, n) :: _ =>
      let p := posOf s n
      let b := jobOf s j
      let m := (getKey n b.mirrors).getD []
      if !refillRuns s then s
      else
        let s := refillMirrors m n (modSp s p fun sp => { sp with distaff := { Distaff.reset with scrub := sp.distaff.scrub } })
        if b.ckptArea = 0 || (inHost b.ckptArea && !s.hif.link) then abandonRepair s j n
        else
          let k := ((jobSet s j).filter (· < n)).length
          let r := refillImage m (b.ckptArea + 4096 + k * sectionSize) n (distSize / 64) 0 s
          if r.2 then refilled r.1 j n else abandonRepair r.1 j n
    | [] => s

end Sys2Proof.Machine
end

