-- ==== Sys2Proof/Machine/Cxl.lean ====
section
/-!
DEFINITION. Host access to HBM over CXL.mem (R352, R464): one line at a time, in background slots, charged as overhead (R408).
-/
namespace Sys2Proof.Machine

/-- Bytes of HBM that the HDM decoder covers (Table 14.1). -/
def hdmSize : Nat := 767993839616

/-- An access that the decoder covers and that lies in one line. -/
def cxlCovers (off n : Nat) : Bool := n != 0 && decide (off + n ≤ hdmSize) && decide (off % 64 + n ≤ 64)

/-- The link and the function serve CXL.mem. -/
def cxlOpen (s : State) : Bool := s.hif.link && spaceOpen s && !s.keep.stopped

/-- An access is served: a read sends its bytes after a poison flag, a write changes the bytes it names. -/
def cxlServe (s : State) (off n : Nat) (data : Option (List Byte)) : State :=
  let s := payBytes s 8 n
  match data with
  | some bs => hbmWrite (payLines (bgLines (shotWrite s none (hbmBase + off) bs) (stackOf off) 1) 8 1) off bs false
  | none =>
    let r := lineIn s 8 (hbmBase + off / 64 * 64)
    sendMsg r.2 5 (BitVec.ofNat 8 (b2n (!r.1.bad.isEmpty)) :: (r.1.data.drop (off % 64)).take n)

/-- An access that finds the light sleep state ends it and waits for the bell (R464). -/
def cxlTake (s : State) (off n : Nat) (data : Option (List Byte)) : State :=
  if !(cxlOpen s && cxlCovers off n) then s
  else if s.power.sleep = 1 then
    wakeLight { s with hif := { s.hif with cxlWait := s.hif.cxlWait ++ [(off, n, data)] } }
  else cxlServe s off n data

/-- The accesses that waited are served in the order they came. -/
def serveCxl (s : State) : State :=
  s.hif.cxlWait.foldl (fun s x => cxlServe s x.1 x.2.1 x.2.2) { s with hif := { s.hif with cxlWait := [] } }

/-- HOST_CXL_MEM_READ. -/
def execHostCxlMemRead (off n : Nat) (s : State) : Out := .next (cxlTake s off n none)

/-- HOST_CXL_MEM_WRITE. -/
def execHostCxlMemWrite (off : Nat) (data : List Byte) (s : State) : Out := .next (cxlTake s off data.length (some data))

end Sys2Proof.Machine
end

