-- ==== Sys2Proof/Machine/Energy.lean ====
section
/-!
DEFINITION. Energy of a bell and its attribution (R406 to R409), the learned table (R399), pace (R322), rebalancing (R325) and the choice of
each job's ratio (R400).
-/
namespace Sys2Proof.Machine

/-! Attribution (Table 16.3) -/

/-- a / b rounded to nearest, ties to even; 0 when b is 0. -/
def rdiv (a b : Nat) : Nat :=
  if b = 0 then 0
  else
    let q := a / b
    let r := a % b
    if 2 * r > b ∨ (2 * r = b ∧ q % 2 = 1) then q + 1 else q

/-- Samples of 1 µW in units of 2^-16 µJ: one lasts 975.2 ns (R406). -/
def unitsOf (x : Nat) : Nat := rdiv (x * 65536 * 9752) 10000000000

/-- Refresh commands of a bell of d rc (R342): they count as lines. Slot 63 of a cycle begins 63 of 64 parts into its 42 rc, and one that the bell
cuts short before that has no refresh (R338). -/
def refreshLines (s : State) (d : Nat) : Nat :=
  if s.hbm.selfRefresh then 0
  else
    let n := (64 * d + 41) / 2688
    (List.range 8).foldl (fun m h => m + 32 * (if s.hbm.hot.getD h false then n else cdiv n 2)) 0

/-- SerDes of a spire (R407, Table 13.1). -/
def serdes (i : Nat) : Nat := if i = 2 then 1 else 2

/-- Jobs that share overhead: running and held ones (R408, R469). -/
def sharers (s : State) : List Nat := (List.range 8).filter fun j => (jobOf s j).state == 2 || (jobOf s j).state == 3

/-- The job a payer's energy goes to, when its slot is not Idle. -/
def payerJob (s : State) (k : Nat) : Option Nat :=
  let j := if k < 9 then k else
    let r := (k - 9) / 65536
    match s.hif.descs.find? fun d => d.ring == r && d.idx == (k - 9) % 65536 with
    | some d => d.job
    | none => sqJob s r
  if j < 8 ∧ (jobOf s j).state != 0 then some j else none

/-- An amount in proportion for each payer, and what is left over for overhead's own count. -/
def shares (e : Nat) (pay : List (Nat × Nat)) (ovh : Nat) : List (Nat × Nat) × Nat :=
  let t := total (pay.map (·.2)) + ovh
  if t = 0 then ([], e) else (pay.map fun x => (x.1, rdiv (e * x.2) t), rdiv (e * ovh) t)

/-- What a bell of d rc charges: to each job by class, to each payer by class, and the overhead by class before it is divided. -/
structure Charge where
  jobs : List (List Nat)
  pays : List (Nat × Nat × Nat)
  ovh : List Nat
deriving DecidableEq, Repr

/-- An energy of one class. -/
def oneE (c v : Nat) : List Nat := (List.range 5).map fun i => if i = c then v else 0

/-- Charge class c to a job, or to overhead. -/
def Charge.add (x : Charge) (j : Option Nat) (c v : Nat) : Charge :=
  match j with
  | some j => { x with jobs := modAt x.jobs j fun e => addE e (oneE c v) }
  | none => { x with ovh := addE x.ovh (oneE c v) }

/-- Charge class c to a payer and its job. -/
def Charge.pay (s : State) (c : Nat) (x : Charge) (p : Nat × Nat) : Charge :=
  { x.add (payerJob s p.1) c p.2 with pays := x.pays ++ [(p.1, c, p.2)] }

/-- The last sample was taken in the rc in which the bell fires: it is the first of the bell that opens (R406). -/
def sampleHere (s : State) : Bool := s.lantern.sampleAt == s.bell.lastBell

/-- The energy of the bell that ends: that of its samples. -/
def meterOf (s : State) : Meter :=
  let l := s.lantern
  if sampleHere s then
    { e0 := l.e0.map fun x => (x.1, x.2 - (getKey x.1 l.fresh.e0).getD 0),
      eSpire := List.zipWith (List.zipWith (· - ·)) l.eSpire l.fresh.eSpire, eAon := l.eAon - l.fresh.eAon }
  else { e0 := l.e0, eSpire := l.eSpire, eAon := l.eAon }

/-- The charges of the bell that ends, of d rc, before overhead is divided. -/
def rawCharge (s : State) (d : Nat) : Charge :=
  let l := s.lantern
  let e := meterOf s
  let spire (i k : Nat) : Nat := unitsOf ((e.eSpire.getD i []).getD k 0)
  let x : Charge := { jobs := List.replicate 8 zeroE, pays := [], ovh := zeroE }
  let x := e.e0.foldl (fun x e => x.add (jobAt s e.1) 0 (unitsOf e.2)) x
  let x := x.add none 1 (total ((List.range 4).map (spire · 0)))
  let a := shares (total ((List.range 4).map (spire · 1))) l.lines (l.ovhLines + refreshLines s d)
  let x := (a.1.foldl (Charge.pay s 2) x).add none 2 a.2
  let x := (List.range 6).foldl (fun x q => let i := spireOf (portPos q); x.add (portOwner s q) 3 (rdiv (spire i 2) (serdes i))) x
  let b := shares (rdiv (spire 1 2) (serdes 1)) l.bytes l.ovhBytes
  ((b.1.foldl (Charge.pay s 3) x).add none 3 b.2).add none 4 (unitsOf e.eAon)

/-- Overhead is divided among the running jobs by the size of their sets, in the class in which it arose. -/
def spread (s : State) (x : Charge) : Charge :=
  let js := (sharers s).map fun j => (j, (jobSet s j).length)
  let t := total (js.map (·.2))
  js.foldl (fun x k => { x with jobs := modAt x.jobs k.1 fun e => addE e (x.ovh.map fun v => rdiv (v * k.2) t) }) x

/-- The bell's samples and counts start anew. -/
def clearMeters (s : State) : State :=
  let m := if sampleHere s then s.lantern.fresh else Meter.zero
  { s with lantern := { s.lantern with e0 := m.e0, eSpire := m.eSpire, eAon := m.eAon, lines := [], ovhLines := 0, bytes := [], ovhBytes := 0 } }

/-- Energy of one bell added to a job, with the mark of a bell it was held. -/
def chargeJob (e : List Nat) (b : Job) : Job :=
  if b.state = 0 then b
  else { b with energy := addE b.energy e, rcptEnergy := addE b.rcptEnergy e, rcptHeld := b.rcptHeld || b.state == 3 }

/-- Energy of one bell added to a descriptor: what it moved, and for a JOB_START all that its job receives (R409). -/
def chargeDesc (s : State) (x : Charge) (d : Desc) : Desc :=
  if d.done then d
  else
    let own := (x.pays.filter fun p => p.1 == descKey d.ring d.idx).foldl (fun e p => addE e (oneE p.2.1 p.2.2)) zeroE
    let all := if d.started && d.op == 1 && starterOf s d.job == some d then x.jobs.getD d.job zeroE else own
    { d with energy := addE d.energy all, held := d.held || (d.accepted.isSome && (jobOf s d.job).state == 3) }

/-- The energy of the bell that ends is attributed; without a running job it is idle energy (R408). The result gives each job's share. -/
def chargeBell (s : State) (d : Nat) : State × List (List Nat) :=
  let raw := rawCharge s d
  if (sharers s).isEmpty then
    let all := total (raw.jobs.map total) + total raw.ovh
    (clearMeters (modLan s fun l => { l with idleUj := l.idleUj + all }), List.replicate 8 zeroE)
  else
    let x := spread s raw
    let s' := { s with jobs := s.jobs.zipIdx.map fun b => chargeJob (x.jobs.getD b.2 zeroE) b.1,
                       hif := { s.hif with descs := s.hif.descs.map (chargeDesc s x) } }
    (clearMeters s', x.jobs)

/-! The learned table (R399) -/

/-- A signed whole number as binary32. -/
def fOfInt (v : Int) : F32 := rnd32 (decide (v < 0)) v.natAbs 1 0

/-- v(n): the mean of the setpoints of a job's set at ratio n, in mV. -/
def meanMv (s : State) (j n : Nat) : F32 :=
  let ps := (jobSet s j).map (posOf s)
  fdiv (fOfNat (total (ps.map fun p => setpoint s p n))) (fOfNat ps.length)

/-- Energy in units of 2^-16 µJ as J. -/
def joules (u : Nat) : F32 := rnd32 false u (65536 * 1000000) 0

/-- A square. -/
def fsq (x : F32) : F32 := fmul x x

/-- The table learns from a frame of d rc that job j ran, with energy e by class. -/
def learn (s : State) (d : Nat) (es : List (List Nat)) (j : Nat) : State :=
  let b := jobOf s j
  if b.state != 2 then s
  else
    let n0 := b.pwr.nrun
    let e := es.getD j zeroE
    let sec := rnd32 false (d * 9524) 10000000000000 0
    let je := joules (total e)
    let js := joules (e.getD 0 0)
    let x := fmul (fmul (fdiv js sec) (fdiv (fOfNat 56) (fOfNat n0))) (fsq (fdiv (meanMv s j 56) (meanMv s j n0)))
    let p := match getKey b.phase b.pwr.learned with
      | none => x
      | some p => fadd p (fdiv (fsub x p) (fOfNat 8))
    modJob s j fun b => { b with pwr := { b.pwr with learned := insKey b.phase p b.pwr.learned, q := fdiv (fsub je js) sec } }

/-! Pace and rebalancing (R322 to R325) -/

/-- Field of LNT_PACE_CTRL_j. -/
def paceCtrl (s : State) (j hi lo : Nat) : Nat := stf s (0x11008 + 0x80 * j) hi lo
/-- Field of LNT_JOB_PWR_j. -/
def jobPwr (s : State) (j hi lo : Nat) : Nat := stf s (0x11000 + 0x80 * j) hi lo

/-- Ports of job j, in order. -/
def ownPorts (s : State) (j : Nat) : List Nat := (List.range 6).filter fun q => (jobOf s j).ports.testBit q

/-- npace of R322; NREQ when PACE is 0. -/
def npaceOf (s : State) (j : Nat) : Nat :=
  let n := jobPwr s j 7 0
  if paceCtrl s j 0 0 = 1 then
    (ownPorts s j).foldl (fun n q => let x := portAt s q; if x.state = 2 ∧ x.paceN > 0 then min n x.paceN else n) n
  else n

/-- A record of a bell, before those of the 15 bells before it. -/
def pushPace (v : Bool) (l : List Bool) : List Bool := (v :: l).take 16

/-- The jobs whose pace this bell records, while they run or are held, their start's bell apart (R325). -/
def paced (s : State) : List Nat :=
  (List.range 8).filter fun j => let b := jobOf s j; b.state == 2 || b.state == 3 || (b.state == 1 && !b.pwr.own.isEmpty)

/-- A job's records of what its ports have latched at a bell (R325); every 16th bell from its start is a rebalance bell. -/
def recordPace (s : State) (j : Nat) : State :=
  let b := jobOf s j
  let at_ (f : Port → Bool) (q : Nat) (l : List Bool) : List Bool := if b.ports.testBit q then pushPace (f (portAt s q)) l else []
  modJob s j fun b => { b with pwr := { b.pwr with
    plag := b.pwr.plag.zipIdx.map fun x => at_ (·.paceThr) x.2 x.1,
    pup := b.pwr.pup.zipIdx.map fun x => at_ (fun y => y.state == 2 && y.paceN != 0) x.2 x.1,
    rebCount := b.pwr.rebCount + 1,
    rebDue := paceCtrl s j 1 1 == 1 && (b.pwr.rebCount + 1) % 16 == 0 } }

/-- This bell is a rebalance bell of job j and its procedure has not run. -/
def rebDue (s : State) (j : Nat) : Bool := (jobOf s j).pwr.rebDue

/-- Trues among 16. -/
def trues (l : List Bool) : Nat := ((l.take 16).filter id).length

/-- OFFSET after one port (R325). -/
def offsetStep (s : State) (j own : Nat) (off : Int) (q : Nat) : Int :=
  let p := (jobOf s j).pwr
  if trues (p.pup.getD q []) = 16 then
    let c := trues (p.plag.getD q [])
    let hyst := paceCtrl s j 12 8
    let delta : Int := paceCtrl s j 31 16
    let span : Int := paceCtrl s j 47 32
    let off := if c ≥ own + hyst then off - delta else if own ≥ c + hyst then off + delta else off
    min (max off (-span)) span
  else off

/-- The rebalance procedure of R325. -/
def rebalance (s : State) (j : Nat) : State :=
  let p := (jobOf s j).pwr
  let own := trues p.own
  let off := (ownPorts s j).foldl (offsetStep s j own) p.offset
  let s := modJob s j fun b => { b with pwr := { b.pwr with rebDue := false, offset := off } }
  if off = p.offset then s
  else raiseJob s j (ev 0x620 own (unsignedN 16 p.offset + put (unsignedN 16 off) 16))

/-! The choice of ratios (R400, R397) -/

/-- Watts of a job's budget: BASE + OFFSET. -/
def budgetOf (s : State) (j : Nat) : Int := (jobPwr s j 27 16 : Int) + (jobOf s j).pwr.offset

/-- The lower of two binary32 values. -/
def fleast (a b : F32) : F32 := if flt b a then b else a

/-- Running jobs. -/
def running (s : State) : List Nat := (List.range 8).filter fun j => (jobOf s j).state == 2

/-- The ratio of job j in the frame that opens. -/
def ratioOf (s : State) (j : Nat) : Nat :=
  let b := jobOf s j
  let sum := (running s).foldl (fun a k => a + budgetOf s k) 0
  let share := fdiv (fmul (fOfNat (stf s 0x10000 11 0)) (fOfInt (budgetOf s j))) (fOfInt sum)
  let cap := fleast (fOfInt (budgetOf s j)) share
  let nmin := jobPwr s j 15 8
  let nmax := min (npaceOf s j) b.pwr.nhigh
  let fits (p : F32) (n : Nat) : Bool :=
    let v := fadd (fmul (fmul p (fdiv (fOfNat n) (fOfNat 56))) (fsq (fdiv (meanMv s j n) (meanMv s j 56)))) b.pwr.q
    !isNF v && !flt cap v
  let n := match getKey b.phase b.pwr.learned with
    | none => nmax
    | some p => (((List.range (nmax + 1)).filter fun n => decide (nmin ≤ n) && fits p n).getLast?).getD nmin
  let n := if b.pwr.rose then max (min n (b.pwr.nrun - 1)) nmin else n
  min n b.pwr.nhigh

/-- A job's record of its own throttle as this bell updates it (R305, R325). DESIGN CHOICE (assumption 114): at a rebalance bell it is that of
the choice under the budget before the rebalance, whose count it enters. -/
def recordOwn (s : State) (j : Nat) : State :=
  let t := if (jobOf s j).state = 2 then decide (ratioOf s j < npaceOf s j) else (jobOf s j).pwr.thr
  if (jobOf s j).state = 0 then s else modJob s j fun b => { b with pwr := { b.pwr with own := pushPace t b.pwr.own } }

/-- The pace that a port's frames carry from this bell on (R305, R323): its owner's ratio and throttle. -/
def paceOut (s : State) (q : Nat) : State :=
  let b := (portOwner s q).map (jobOf s)
  modPort (framesNow s q) q fun x => { x with sentN := match b with | some b => b.pwr.nrun | none => 0, sentThr := match b with | some b => b.pwr.thr | none => false }

/-- A position that no job owns is held at the setpoint of ratio 56 (R374); one whose job does not run keeps its ratio, at its setpoint as margins
now give it (R405). -/
def idleRatios (s : State) : State :=
  (List.range 624).foldl (fun s p =>
    match jobAt s p with
    | none => stepTo 56 s p
    | some j => if (jobOf s j).state = 2 then s else stepTo (pwAt s p).goal s p) s

/-- The frame of the rises that L had is over (R400). -/
def clearRises (s : State) : State := { s with jobs := s.jobs.map fun b => { b with pwr := { b.pwr with rose := false } } }

/-- Every running job takes its ratio, and the ports the pace they send. -/
def chooseRatios (s : State) : State :=
  let ns := (running s).map fun j => (j, ratioOf s j)
  let s := ns.foldl (fun s x =>
    let t := npaceOf s x.1
    let s := modJob s x.1 fun b =>
      { b with pwr := { b.pwr with npace := t, nrun := x.2, thr := decide (x.2 < t) } }
    ((jobSet s x.1).map (posOf s)).foldl (stepTo x.2) s) s
  (List.range 6).foldl paceOut (idleRatios (clearRises s))

/-- The choice waits for the rebalances that are due at the same bell. -/
def settleRatios (s : State) : State := if (List.range 8).any (rebDue s) then s else chooseRatios s

/-- REBALANCE. -/
def execRebalance (j : Nat) (s : State) : Out := onUnit "job" 8 j (if rebDue s j then settleRatios (rebalance s j) else s)

end Sys2Proof.Machine
end

