-- ==== Sys2Proof/Machine/Bell.lean ====
section
/-!
DEFINITION. The bell (R19 to R41, R357): when it fires, the stretch record, the close-bell actions, job ends and holds, remaps, the frame
it opens.
-/
namespace Sys2Proof.Machine

/-! When the bell fires (R28 to R34, R49) -/

/-- The scheduled time of the next bell. -/
def schedAt (s : State) : Nat := s.bell.lastBell + period s

/-- Some engine has not finished its frame. -/
def anyUnfinished (s : State) : Bool := (List.range 624).any fun p => (List.range 6).any (unfinished s p)

/-- A late host transfer holds the bell that opens the second frame after its own in elastic mode, and no other (R49). -/
def anyLate (s : State) : Bool := elastic s && s.hif.xfers.any fun x => x.late && x.frame + 1 == s.bell.count

/-- Time of the next bell once every engine has finished (R32, R34, R49). -/
def bellTime (s : State) : Nat :=
  let t := schedAt s
  if elastic s then min (max t (max (s.bell.lastRet + backWin s) s.bell.waitTill)) (t + slipLimit s) else t

/-- The logical spindle that set the bell's time, 1,000 when none did (R33). -/
def bellBy (s : State) : Nat :=
  if max (schedAt s) (s.bell.lastRet + backWin s) < s.bell.waitTill then s.bell.waitBy else s.bell.lastBy

/-! The stretch record (R40, R41) -/

/-- Cycles that a position lost since the last bell: whole ones. DESIGN CHOICE (assumption 75): the 56ths of a cycle that are left over are
dropped at each bell. -/
def lostOf (c : Clock) : Nat := c.lost + c.lost224 / 224

/-- A position's clock at a bell at rc t, dt rc after the last, at ratio n. -/
def recordClock (t dt n : Nat) (c : Clock) : Clock :=
  let m := lostOf c
  let r := c.ref56 + dt * n
  { c with ref56 := r, lc := r / 56, bellLc := r / 56, lost := 0, lost224 := 0, countedTo := t, since := t, events := 0, lastBell := m,
           lastEvents := c.events, total := c.total + m }

/-- Reference sc of position p in the frame of dt rc that ends. -/
def frameRef (s : State) (dt p : Nat) : Nat :=
  let c := (spAt s p).clock
  (recordClock 0 dt (pwAt s p).goal c).lc - c.bellLc

/-- What is under way is counted from the new bell: in reference sc of its target, in the local sc of its own position (R38, R42). Writes that
have landed by the bell and flits that have arrived are of the frame that ends. -/
def carryFabric (s : State) (t dt : Nat) : Fabric :=
  let lost (p : Nat) : Nat := lostOf (spAt s p).clock
  { net := s.fabric.net.map fun a =>
      let p := (targetPos s a).getD 1000
      if isOwnAcc s p a then { a with at_ := a.at_ + lost p } else { a with at_ := a.at_ - 56 * frameRef s dt p },
    replies := s.fabric.replies.map fun r =>
      if r.near then { r with at_ := r.at_ + lost r.dst } else { r with at_ := r.at_ - 56 * frameRef s dt r.dst },
    flits := s.fabric.flits.filter fun f => f.links.any fun x => decide (1000 * t ≤ x.at_),
    lands := s.fabric.lands.filter fun x => decide (1000 * t < x.at_),
    lates := s.fabric.lates.map fun x => { x with k := x.k - frameRef s dt x.dst } }

/-- Every position records its stretch count; a magnitude above the allowance in its sc raises E-0xB05. -/
def recordStretch (s : State) (t dt : Nat) : State :=
  let lost (p : Nat) : Nat := lostOf (spAt s p).clock
  let wide := (List.range 624).filter fun p => decide (stretchWin s * (pwAt s p).goal / 56 < lost p)
  let u := { s with
    spindles := s.spindles.zipIdx.map fun x =>
      let y := shiftTimes (lostOf x.1.clock) x.1
      { y with clock := recordClock t dt (pwAt s x.2).goal y.clock },
    fabric := carryFabric s t dt,
    hbm := { s.hbm with waiting := s.hbm.waiting.map fun x => { x with at_ := x.at_ + lost x.pos },
                        granted := s.hbm.granted.map fun x => { x with at_ := x.at_ + lost x.pos } } }
  wide.foldl (fun u p => raiseAt u p (ev 0xB05 0 (lost p))) u

/-- The cycles lost up to the bell at rc t are known: what the stretches still under way have cost since they began, or since the last bell
(R37, R40). -/
def settleLoss (b : BellIn) (t : Nat) (s : State) : State :=
  b.stretch.foldl (fun s x => if decide (x.1 < 624) && (spAt s x.1).clock.stretching then addLost s x.1 t x.2 else s) (countAllLoss s t)

/-- What waits at position p counts its sc up to the end of the frame of dt rc, and what becomes visible by then is visible. -/
def endWaits (dt : Nat) (s : State) (p : Nat) : State :=
  if (jobAt s p).isSome then
    runPos s p fun l => l.at_ (l.sp.clock.bellLc + frameRef s dt p - lostOf l.sp.clock)
  else s

/-! The close bell (R226, R227) -/

/-- Logical number n counts as marked for the open step. -/
def markedAt (s : State) (n : Nat) : Bool :=
  let sp := spAt s (posOf s n)
  let f := strmOf sp 3
  sp.marked || !f.en || f.halted

/-- A checkpoint held job j's streams in the frame that this bell ends: one that the bell before it, a close bell, found accepted (R481). -/
def heldFrame (s : State) (b : Job) : Bool :=
  match b.ckpt with | some c => c.taken || (b.closeBell && decide (c.bell + 1 < s.bell.count)) | none => false

/-- This bell is the close bell of job j's open step: every spindle counts as marked (R226). -/
def closes (s : State) (j : Nat) : Bool :=
  (jobOf s j).state == 2 && !heldFrame s (jobOf s j) && (jobSet s j).all (markedAt s)

/-- The numeric state after a close, with FLOOR, CEIL and RUN. -/
def closeNumeric (lo hi run : Nat) (x : Numeric) : Numeric :=
  let y := { x with verdict := x.nf, apply_ := x.lse, step := (x.step + 1) % 2 ^ 40, nf := false }
  if x.nf then { y with lse := max (x.lse - 1) lo, clean := 0, skips := sat32 x.skips 1 }
  else
    let y := { y with a := (x.a + 1) % 2 ^ 40 }
    if x.clean + 1 = run then { y with lse := min (x.lse + 1) hi, clean := 0 } else { y with clean := x.clean + 1 }

/-- The close-bell actions of job j. -/
def closeStep (s : State) (j : Nat) : State :=
  let v := st s (0x1008 + 0x40 * j)
  let x := (jobOf s j).num
  let y := closeNumeric (fldN v 23 16) (fldN v 31 24) (fldN v 47 32) x
  let s := modJob s j fun b => { b with num := y, closeBell := true }
  let s := (jobSet s j).foldl (fun s n => modSp s (posOf s n) fun sp => { sp with marked := false }) s
  if x.nf then
    let s := if x.lse = fldN v 23 16 then raiseJob s j (ev 0x141 y.lse x.step) else s
    raiseJob s j (ev 0x140 y.lse x.step)
  else s

/-- Step 1 of R357. -/
def closeAll (s : State) : State :=
  (List.range 8).foldl (fun s j => if closes s j then closeStep s j else modJob s j fun b => { b with closeBell := false }) s

/-- What a close bell does once a commit at the same bell has been applied: LSE and CLEAN stay in their ranges (R227). -/
def clampAll (s : State) : State :=
  (List.range 8).foldl (fun s j => if (jobOf s j).closeBell then clampScale s j else s) s

/-! Job ends and holds (R365, R467 to R470) -/

/-- Every enabled stream of job j has retired HALT (R72). -/
def allHalted (s : State) (j : Nat) : Bool :=
  (jobSet s j).all fun n => (spAt s (posOf s n)).streams.all fun q => !q.en || q.halted

/-- Jobs whose streams have all retired HALT end; one that has a fault is held instead. -/
def endHalted (s : State) : State :=
  (List.range 8).foldl (fun s j =>
    if (jobOf s j).state == 2 && (jobOf s j).fault.isNone && allHalted s j then endJob s j false else s) s

/-- A fault during a checkpoint ends it: status 3 on a host error, else 4 (R483). -/
def dropCkpt (s : State) (j code : Nat) : State :=
  match (jobOf s j).ckpt with
  | some c =>
    if c.taken then
      let s := match s.hif.descs.find? fun d => d.ring == c.ring && d.idx == c.idx && d.op == 5 && d.started && !d.done with
        | some d => complete s d (if code = 0x504 ∨ code = 0x505 then 3 else 4)
        | none => s
      modJob s j fun b => { b with ckpt := none }
    else s
  | none => s

/-- A faulted job is held (R468, R469). -/
def holdJob (s : State) (j : Nat) : State :=
  match (jobOf s j).fault with
  | none => s
  | some (code, b) =>
    let s := modJob s j fun x => { x with state := 3, fault := none }
    dropCkpt (dropWaits (raiseJob s j (ev 0x020 code b)) j) j code

/-- Every running job with a fault is held. -/
def holdAll (s : State) : State :=
  (List.range 8).foldl (fun s j => if (jobOf s j).state = 2 then holdJob s j else s) s

/-- A job that was Starting when this bell fired: it runs, or is held at once for a fault taken meanwhile (R364, R468, R479, R485). -/
def settleStart (s : State) (j : Nat) : State :=
  if (jobOf s j).startOk then holdJob (beginJob s j) j else failStart s j

/-- The slots that were Starting when this bell fired. -/
def settleStarts (s : State) : State :=
  (List.range 8).foldl (fun s j => if (jobOf s j).state = 1 then settleStart s j else s) s

/-! Spare remaps and repairs (R475 to R479) -/

/-- The position is healthy. -/
def healthy (s : State) (p : Nat) : Bool := !(spAt s p).service.oos && !(pwAt s p).dark

/-- The lowest healthy spare of a spire. -/
def spareOf (s : State) (i : Nat) : Option Nat :=
  ((List.range 156).map fun k => 156 * i + k).find? fun p => !s.map.contains p && healthy s p

/-- Number n moves to position c; 1,000 is unplaced. -/
def moveNumber (s : State) (n c : Nat) : State :=
  { s with map := modAt s.map n fun _ => c, repair := { s.repair with failed := delNat n s.repair.failed } }

/-- The remap of a failed number, and its refill where a job owns it. -/
def remap (s : State) (n : Nat) : State :=
  let old := posOf s n
  let owner := ownerOf s n
  match spareOf s (n / 144) with
  | some p =>
    let s := moveNumber s n p
    let s := measureMap { s with repair := { s.repair with remapped := insNat n s.repair.remapped } }
    let s := setSt (setSt s (0x100040 + 0x400 * p) (qcheck s old)) (0x100048 + 0x400 * p) (qsens s old)
    let s := requestWake (raiseAt s p (ev 0xA03 n (old % 65536 + put p 16))) p
    match owner with
    | some j =>
      if (jobOf s j).abandoned then s
      else { s with repair := { s.repair with queue := s.repair.queue.filter (· != (j, n)) ++ [(j, n)], active := true } }
    | none => s
  | none =>
    let s := moveNumber s n 1000
    match owner with
    | some j => abandonRepair (postEv s (ev 0xA30 n 0) (some j) (some n) none) j n
    | none => postEv s (ev 0xA30 n 0) none (some n) none

/-- Failed numbers are remapped: a job's own once it is held, the others now. -/
def remapAll (s : State) : State :=
  s.repair.failed.foldl (fun s n =>
    match ownerOf s n with
    | some j => if (jobOf s j).state = 3 then remap s n else s
    | none => remap s n) s

/-- Refills whose last write has landed are reported; the job whose last refill this is re-enters, while jobs may start (R384, R476, R479). -/
def reportRefills (s : State) : State × List Nat :=
  let done := s.repair.finished
  let s := { s with repair := { s.repair with finished := [] } }
  let s := done.foldl (fun s x => postEv s (ev 0xA04 x.2 0) (some x.1) (some x.2) (some (posOf s x.2))) s
  let left (j : Nat) : Bool := s.repair.queue.any (·.1 == j) || s.repair.failed.any fun n => ownerOf s n == some j
  (s, (List.range 8).filter fun j => done.any (·.1 == j) && !left j && (jobOf s j).state == 3 && !(jobOf s j).abandoned && !s.power.noJob)

/-! The frame that opens -/

/-- The first word of the frame that opens is noted, with the loop counters there (R66). -/
def noteFirst (q : Stream) : Stream := { q with frameFirst := firstWord q, frameLoops := firstLoops q }

/-- A stream in the frame that opens; `skip`: its position skips it (R62, R403). -/
def openStream (skip : Bool) (q : Stream) : Stream :=
  { noteFirst q with finished := skip || q.halted || !q.en, overRaised := false, frameSc := 0 }

/-- Frames left to skip, this one included, and one more (R403). -/
def nextSkip (sp : Spindle) : Nat :=
  match sp.fendPhase with
  | some ph => if ph ≥ 0xF0 then 8 * (ph - 0xF0 + 1) + 1 else sp.skipping - 1
  | none => sp.skipping - 1

/-- A pending check does not outlive the bell (R188); one that a VCHECK has cleared counts no skip. -/
def dropChecks (sp : Spindle) : Spindle :=
  let n := (sp.whorl.halves.filter (·.checkHeld sp.clock.lc)).length
  { sp with ctr := { sp.ctr with qskip := sat32 sp.ctr.qskip n },
            whorl := { sp.whorl with busy := [], halves := sp.whorl.halves.map fun x => { x with check := none } } }

/-- A spindle of a running job in the frame that opens. -/
def openSpindle (sp : Spindle) : Spindle :=
  let k := nextSkip sp
  { sp with streams := sp.streams.map (openStream (decide (1 < k))), skipping := k, fendPhase := none,
            hank := { sp.hank with spent := 0, warned := false } }

/-- Gating of a position that skips: at its first skipped frame, until the sixth-last requests its wake (R403). -/
def skipGate (starts : Bool) (s : State) (p : Nat) : State :=
  let k := (spAt s p).skipping
  if stf s 0x10000 20 20 = 1 then
    if starts ∧ (pwAt s p).wake = 0 ∧ !(pwAt s p).dark then modPw s p gate
    else if k = 7 then requestWake s p
    else s
  else s

/-- The page and the phase tag that W0 of the job's lowest spindle chose (R339, R400). -/
def choosePage (s : State) (j : Nat) : State :=
  match (jobSet s j).head? with
  | none => s
  | some n =>
    match (spAt s (posOf s n)).fendPhase with
    | some ph => if ph < 0xF0 then modJob s j fun b => { b with page := ph % 4, phase := ph } else s
    | none => s

/-- The frame of a running job opens; `fresh`: it is its first. -/
def openJob (fresh : Nat → Bool) (s : State) (j : Nat) : State :=
  let s := if fresh j then s else choosePage s j
  if ckptHold s (jobOf s j) then
    (jobSet s j).foldl (fun s n => modSp s (posOf s n) fun sp => { sp with streams := sp.streams.map noteFirst }) s
  else
    (jobSet s j).foldl (fun s n =>
      let p := posOf s n
      let starts := (spAt s p).fendPhase.any (0xF0 ≤ ·)
      let s := modSp s p openSpindle
      if starts || (spAt s p).skipping == 7 then skipGate starts s p else s) s

/-- The outlier count of a position (R178). -/
def checkOutliers (s : State) (p : Nat) : State :=
  let n := (spAt s p).outliers
  if n = 0 then s
  else
    let s := modSp s p fun sp => { sp with outliers := 0 }
    let lim := fldN (qcheck s p) 47 32
    if lim != 0 && decide (lim < n) then raiseAt s p (ev 0x130 n 0) else s

/-- The wait entries held for the partner of a port leave their tables at the bell after an uncorrectable frame in either direction, with which
the job of the partner is held (R287, R309). DEDUCED (assumption 84): no frame tells of a hold for another cause, after which the partner's entries
stay. -/
def dropPartner (s : State) (q : Nat) : State :=
  if (portAt s q).errSeen || (portAt s q).badSeen then
    { s with spindles := s.spindles.map fun sp =>
        { sp with reeler := { sp.reeler with waits := sp.reeler.waits.filter fun w => w.acc.via != some q } } }
  else s

/-- A port at a bell (R287, R305, R306, R307, R309): lanes that failed by count, a narrowing that waited, and the slip its frames carry. -/
def bellPort (slip : Nat) (s : State) (q : Nat) : State :=
  let lth := plyCtrl s q 31 16
  let bad := (portAt s q).corrected.filter fun c => lth != 0 && decide (lth * 256 < c.2)
  let s := bad.foldl (fun s c => if (portAt s q).state = 2 then failLane s q c.1 else s) (framesNow s q)
  let s := if (portAt s q).state = 2 then askNarrow s q else s
  modPort (dropPartner s q) q fun x => { x with corrected := [], badSeen := false, errSeen := false, errOut := false, sentLag := min (slip / 64) 255 }

/-- The comparison of a site's sensors (R418). -/
def compareSite (s : State) (n : Nat) : State :=
  let x := siteAt s n
  if !x.excl.isEmpty then s
  else
    let far := decide (32 < (tempOf x.a - tempOf x.b).natAbs)
    let run := if far then x.run + 1 else 0
    let s := modSite s n fun x => { x with run := run }
    if run = 16 ∧ !x.suspect then
      raiseSite (modSite s n fun x => { x with suspect := true }) n (ev 0x702 n (x.a % 4096 + put (x.b % 4096) 16))
    else s

/-- The codes that a site shows at bell c join its trace; what lies before the last 4,096 bells leaves it, but for the codes with which they
begin (R419). -/
def traceOn (c a b : Nat) (t : List (Nat × Nat × Nat)) : List (Nat × Nat × Nat) :=
  let t := match t with | x :: _ => if x.2 = (a, b) then t else (c, a, b) :: t | [] => [(c, a, b)]
  let new := t.takeWhile fun x => decide (c < x.1 + 4095)
  new ++ (t.drop new.length).take 1

/-- A sensor is stuck: 4,096 bells have shown one code of its own while its partner's value moved by 3.0 °C. -/
def stuckIn (c : Nat) (t : List (Nat × Nat × Nat)) (own other : Nat × Nat → Nat) : Bool :=
  let vs := t.map fun x => tempOf (other x.2)
  (t.getLast?.any fun x => decide (x.1 + 4095 ≤ c)) && (t.all fun x => t.head?.any fun y => own x.2 == own y.2)
    && vs.any fun v => vs.any fun w => decide (v + 24 ≤ w)

/-- A site's sensors are judged at a bell for being stuck. -/
def judgeStuck (s : State) (n : Nat) : State :=
  let x := siteAt s n
  let c := s.bell.count
  let t := traceOn c (x.a % 4096) (x.b % 4096) x.trace
  let s := modSite s n fun x => { x with trace := t }
  let s := if stuckIn c t (·.1) (·.2) && !x.excl.contains 0 then excludeSensor s n 0 else s
  if stuckIn c t (·.2) (·.1) && !x.excl.contains 1 then excludeSensor s n 1 else s

/-- A bell finds the readings of the lid thermistors (R416). -/
def readCoolant (s : State) (inlet outlet : Nat) : State :=
  let s := { s with thermal := { s.thermal with inlet := inlet % 4096, outlet := outlet % 4096 } }
  let t := tempOf inlet
  let free := match s.thermal.coolantAt with | some c => decide (c + 16384 ≤ s.bell.count) | none => true
  if (decide (t < 136) || decide (360 < t)) && free then
    raiseDev { s with thermal := { s.thermal with coolantAt := some s.bell.count } } (ev 0x706 (inlet % 4096) 0)
  else s

/-- Bells without an owner (R402). -/
def countIdle (s : State) : State :=
  { s with lantern := { s.lantern with
      pos := s.lantern.pos.zipIdx.map fun w => { w.1 with idle := if (jobAt s w.2).isSome then 0 else w.1.idle + 1 },
      spire := s.lantern.spire.map fun w => { w with vinSeen := false }, raised := [] } }

/-- The light sleep state ends at the bell after its wake cause, and the CXL.mem accesses that waited are served (R464). -/
def endSleep (s : State) : State :=
  if s.power.wakeDue then
    serveCxl <| setSt { s with power := { s.power with sleep := 0, wakeDue := false }, hbm := { s.hbm with selfRefresh := false } } 0x50 0
  else s

/-- The statistics of a job that lives, at a bell with this slip (R33, R365). -/
def countStats (slip : Nat) (b : Job) : Job :=
  if b.state == 2 || b.state == 3 then
    let n := b.statBells + 1
    { b with statBells := n, statSlips := b.statSlips + (if slip = 0 then 0 else 1), statSlip := b.statSlip + slip,
             statDue := b.statDue || (b.statlog != 0 && n == 2 ^ (b.statlog + 3)) }
  else b

/-! The bell (R357) -/

/-- What the last bell left due is done before the next one counts: rebalances and statistics entries. -/
def flushDue (s : State) : State :=
  let s := (List.range 8).foldl (fun s j => if rebDue s j then settleRatios (rebalance s j) else s) s
  (List.range 8).foldl (fun s j => if (jobOf s j).statDue then statEntry s j else s) s

/-- The bell generator fires at time t with a slip. -/
def countBell (t slip : Nat) (s : State) : State :=
  { s with bell := { s.bell with count := s.bell.count + 1, refTime := max s.bell.refTime t, lastBell := t, lastSlip := slip, lastRet := t, lastBy := 1000,
                                 waitTill := 0, waitBy := 0, slipCount := if slip = 0 then s.bell.slipCount else sat32 s.bell.slipCount 1,
                                 slipTotal := s.bell.slipTotal + slip },
           jobs := s.jobs.map fun b => countStats slip { b with stepAt := b.num.step } }

/-- E-0xB02 names the job and the logical spindle that set the time (R33). -/
def noteSlip (slip n : Nat) (s : State) : State :=
  if slip = 0 then s
  else if n < 576 then postEv s (ev 0xB02 0 slip) (ownerOf s n) (some n) (some (posOf s n))
  else raiseDev s (ev 0xB02 0 slip)

/-- Steps 1 to 4 of R357. -/
def bellOrder (s : State) : State :=
  let s := clampAll (bellCommit (closeAll s))
  let s := holdAll (endHalted (finishDescs s))
  let s := settleStarts s
  let r := reportRefills (remapAll s)
  let s := r.2.foldl reenter r.1
  acceptAll s

/-- The bell fires at time t. -/
def fireBell (b : BellIn) (t : Nat) (s : State) : State :=
  let s := flushDue s
  let dt := t - s.bell.lastBell
  let slip := t - schedAt s
  let by_ := bellBy s
  let was := running s
  let s := (List.range 624).foldl (endWaits dt) (settleLoss b t s)
  let s := noteSlip slip by_ (recordStretch (countBell t slip s) t dt)
  let e := chargeBell s dt
  let s := (List.range 8).foldl (fun s j => learn s dt e.2 j) e.1
  let js := paced s
  let s := js.foldl recordPace s
  let s := (List.range 624).foldl checkOutliers s
  let s := endSleep { s with spindles := s.spindles.map dropChecks }
  let s := bellOrder s
  let s := (running s).foldl (openJob fun j => !was.contains j) s
  let s := (List.range 6).foldl (bellPort slip) (settleRatios (js.foldl recordOwn s))
  let s := readCoolant ((List.range 640).foldl (fun s n => judgeStuck (compareSite s n) n) s) b.inlet b.outlet
  let s := countIdle s
  let s := { s with hif := { s.hif with fetched := 0, signed := 0, sq := s.hif.sq.map fun (x : SqRing) => { x with seen := x.tail } } }
  let s := startCycle 0 { s with hbm := { s.hbm with corrSeen := [] } }
  takeShots (writeImages s)

/-- BELL: it fires once every engine has finished its frame and, in elastic mode, no late host transfer is under way. -/
def execBell (b : BellIn) (s : State) : Out :=
  .next (if bellRuns s && !anyUnfinished s && !anyLate s then fireBell b (bellTime s) s else s)

/-- SLIP_LIMIT_EXCEEDED (R34). -/
def execSlipLimitExceeded (b : BellIn) (s : State) : Out :=
  .next <|
    if bellRuns s && elastic s && (anyUnfinished s || anyLate s) then
      let t := schedAt s + slipLimit s
      let late := (List.range 8).filter fun j => (jobSet s j).any fun n => (List.range 6).any (unfinished s (posOf s n))
      let s := late.foldl (fun s j => raiseJob s j (ev 0xB03 0 (slipLimit s))) { s with bell := { s.bell with refTime := max s.bell.refTime t } }
      fireBell b t s
    else s

end Sys2Proof.Machine
end

