-- ==== Sys2Proof/Machine/Flyer.lean ====
section
/-!
DEFINITION. The flyer: elementwise work, normalisation, streamed attention, quantisation, dropout, the optimizer, the loss and
the judging of a sampled-tile check (R100 to R102, R185 to R187, R217 to R241). Each instruction takes its sources when it issues
(assumption 69), a VQUANT as R102 says; what it writes is visible when its chapter says.
-/
namespace Sys2Proof.Machine

/-- A written range partly overlaps another: they share a byte and are not the same range. -/
def partOv (a n b m : Nat) : Bool := overlaps a n b m && !(a == b && n == m)

/-- The sc in which a flyer instruction that issues now completes: `late` sc after the last of the `occ` sc it occupies. -/
def flyDone (l : Loc) (occ late : Nat) : Nat := issueAt l 3 + occ - 1 + late

/-- A flyer instruction issues and occupies `occ` sc. -/
def Loc.fly (l : Loc) (occ late : Nat) : Loc := l.pop 3 (issueAt l 3) occ (flyDone l occ late)

/-- What an instruction does that consumes no poison: it takes its sources, and what it writes is visible when it completes. -/
def Loc.flyDo (l : Loc) (occ late : Nat) (rs : List (Nat × Nat)) (f : Loc → Loc) : Loc :=
  ((l.fly occ late).reading rs).seenAt (flyDone l occ late) f

/-- A flyer instruction that has passed its checks: it consumes poison, or computes. -/
def Loc.flyRun (l : Loc) (s : State) (p : Nat) (q : QEntry) (occ late : Nat) (rs : List (Nat × Nat)) (f : Loc → Loc) : Loc :=
  match ((l.fly occ late).reading rs).anyPoison rs with
  | some off => ((l.fly occ late).reading rs).consume s p 3 q off
  | none => l.flyDo occ late rs f

/-- No word that the ranges read is poisoned, once the instruction has issued. -/
def Loc.clean (l : Loc) (occ late : Nat) (rs : List (Nat × Nat)) : Bool := (((l.fly occ late).reading rs).anyPoison rs).isNone

/-! VOP (R236) -/

/-- The fields of a VOP break a limit: N, alignment, range or overlap; `nb` is the bytes of operand b, 0 where unused, and `zb` its
alignment. -/
def vopBad (w : KWord) (z n nb zb : Nat) : Bool :=
  let a := fld w 95 64
  let b := fld w 63 32
  let d := fld w 31 0
  !reservedClear w [(127, 117), (115, 0)] || n == 0 || a % z != 0 || d % z != 0 || !inDist a (n * z) || !inDist d (n * z)
    || partOv d (n * z) a (n * z)
    || (nb != 0 && (b % zb != 0 || !inDist b nb || partOv d (n * z) b nb))

/-- N, and the offsets of a, b and d. -/
def vopN (w : KWord) : Nat := fld w 115 96
def vopA (w : KWord) : Nat := fld w 95 64
def vopB (w : KWord) : Nat := fld w 63 32
def vopD (w : KWord) : Nat := fld w 31 0
/-- Bytes of operand b: `useB` 0 none, 1 an array, 2 the FP32 scalar. -/
def vopNb (useB : Nat) (w : KWord) : Nat := if useB = 1 then vopN w * esz (bitOf w 117) else if useB = 2 then 4 else 0
/-- What a VOP reads: a, b where it has one, d for FMA. -/
def vopIns (op useB : Nat) (w : KWord) : List (Nat × Nat) :=
  let n := vopN w * esz (bitOf w 117)
  [(vopA w, n)] ++ (if vopNb useB w = 0 then [] else [(vopB w, vopNb useB w)]) ++ (if op = 2 then [(vopD w, n)] else [])
/-- A VOP's fields break a limit. -/
def vopIllegal (useB : Nat) (w : KWord) : Bool :=
  vopBad w (esz (bitOf w 117)) (vopN w) (vopNb useB w) (if useB = 2 then 4 else esz (bitOf w 117))
/-- The values a VOP writes. -/
def vopVals (op useB : Nat) (f : F32 → F32 → F32 → F32) (w : KWord) (l : Loc) : List F32 :=
  let bf := bitOf w 117
  let n := vopN w
  let va := readVals l bf (vopA w) n
  let vb := if useB = 1 then readVals l bf (vopB w) n else if useB = 2 then List.replicate n (canon32 (l.rd32 (vopB w))) else List.replicate n 0#32
  let vd := if op = 2 then readVals l bf (vopD w) n else List.replicate n 0#32
  List.zipWith (fun x y => f x y.1 y.2) va (List.zip vb vd)
/-- What a VOP writes, and the flag. -/
def vopOut (op useB : Nat) (f : F32 → F32 → F32 → F32) (w : KWord) (l : Loc) : Loc :=
  let bf := bitOf w 117
  let r := vopVals op useB f w l
  (wrVals bf (vopD w) r l).flagIf (r.any (nfOut bf))

/-- An elementwise operation; `f a b d`. -/
def vop (p : Nat) (s : State) (op useB rate : Nat) (f : F32 → F32 → F32 → F32) : Out :=
  issue s p 3 (isOp 0x18 121 118 op) fun q l =>
    let w := q.word
    if vopIllegal useB w then l.reject 3 0xA20 0 0 q
    else l.flyRun s p q (cdiv (vopN w) rate) 16 (vopIns op useB w) (vopOut op useB f w)

/-- rne32(a / rne32(1 + exp(−a))). -/
def silu (a : F32) : F32 := fdiv a (fadd one32 (fexp (fneg a)))

def execVopAdd (p : Nat) (s : State) : Out := vop p s 0 1 64 fun a b _ => fadd a b
def execVopMul (p : Nat) (s : State) : Out := vop p s 1 1 64 fun a b _ => fmul a b
def execVopFma (p : Nat) (s : State) : Out := vop p s 2 1 64 fun a b d => ffma a b d
def execVopScale (p : Nat) (s : State) : Out := vop p s 3 2 64 fun a b _ => fmul a b
def execVopCopy (p : Nat) (s : State) : Out := vop p s 4 0 64 fun a _ _ => a
def execVopExp (p : Nat) (s : State) : Out := vop p s 5 0 32 fun a _ _ => fexp a
def execVopSilu (p : Nat) (s : State) : Out := vop p s 6 0 32 fun a _ _ => silu a

/-- SMARK (R226): once stream F's earlier instructions have completed, unless the spindle has marked the open step. -/
def execSmark (p : Nat) (s : State) : Out :=
  issueW s p 3 (isOp 0x18 121 118 7) fun q l =>
    if !reservedClear q.word [(127, 118)] then some (l.reject 3 0xA20 0 0 q)
    else if l.sp.marked then none
    else let t := fenceAt l 3; some ((l.pop 3 t 1 t).mod fun sp => { sp with marked := true })

/-! VNORM (R237) -/

/-- One row of VNORM: the output, μ and ρ. -/
def normRow (layer : Bool) (eps : F32) (x gamma beta : List F32) : List F32 × F32 × F32 :=
  let nc := fOfNat x.length
  let z := zero32 false
  let mu := if layer then fdiv (x.foldl fadd z) nc else z
  let ss := x.foldl (fun a v => let d := fsub v mu; ffma d d a) z
  let rho := frsqrt (fadd (fdiv ss nc) eps)
  (List.zipWith (fun v g => let y := fmul (fsub v mu) rho
      if layer then ffma y g.1 g.2 else fmul y g.1) x (List.zip gamma beta), mu, rho)

/-- The fields of the VNORM record (Table 8.6), with the element size of its word. -/
structure NormRec where
  raw : Nat
  src : Nat
  dst : Nat
  ga : Nat
  be : Nat
  sa : Nat
  nr : Nat
  nc : Nat
  eps : F32
deriving DecidableEq, Repr

def normRec (r : Nat) : NormRec :=
  { raw := r, src := fldN r 31 0, dst := fldN r 63 32, ga := fldN r 95 64, be := fldN r 127 96, sa := fldN r 159 128,
    nr := fldN r 175 160, nc := fldN r 191 176, eps := BitVec.ofNat 32 (fldN r 223 192) }

/-- Offset of the record of a flyer word that names one. -/
def flyPar (w : KWord) : Nat := fld w 31 0

/-- The fields of a VNORM word break a limit (Table 8.5). -/
def vnormBad (w : KWord) : Bool := !reservedClear w [(127, 119), (31, 0)] || flyPar w % 32 != 0 || !inDist (flyPar w) 32

/-- What a VNORM reads beside its record. -/
def normIns (layer : Bool) (w : KWord) (r : NormRec) : List (Nat × Nat) :=
  [(r.src, r.nr * r.nc * esz (bitOf w 120)), (r.ga, r.nc * 4)] ++ (if layer then [(r.be, r.nc * 4)] else [])

/-- The record of a VNORM breaks a limit (R237). -/
def normRecBad (layer : Bool) (w : KWord) (r : NormRec) : Bool :=
  let n := r.nr * r.nc * esz (bitOf w 120)
  let stat := bitOf w 119
  let ins := normIns layer w r
  let outs := [(r.dst, n)] ++ (if stat then [(r.sa, r.nr * 8)] else [])
  r.nr == 0 || r.nc == 0 || !reservedClearN 256 r.raw [(223, 0)] || isNF r.eps || (flt r.eps (zero32 false))
    || !(ins ++ outs).all (fun x => inDist x.1 x.2)
    || outs.any (fun o => ins.any (fun i => partOv o.1 o.2 i.1 i.2)) || (stat && partOv r.dst n r.sa (r.nr * 8))

/-- What a VNORM writes, and the flag. -/
def normOut (layer : Bool) (w : KWord) (r : NormRec) (l : Loc) : Loc :=
  let bf := bitOf w 120
  let stat := bitOf w 119
  let gamma := readVals l false r.ga r.nc
  let beta := if layer then readVals l false r.be r.nc else List.replicate r.nc (zero32 false)
  let rows := (pieces r.nc r.nr (readVals l bf r.src (r.nr * r.nc))).map (normRow layer r.eps · gamma beta)
  let ys := rows.flatMap (·.1)
  let st := rows.flatMap (fun x => [x.2.1, x.2.2])
  let l := wrVals bf r.dst ys l
  let l := if stat then wrVals false r.sa st l else l
  l.flagIf (ys.any (nfOut bf) || (stat && st.any isNF))

/-- VNORM with operation `op` (Tables 8.5, 8.6). -/
def vnorm (p : Nat) (s : State) (op : Nat) : Out :=
  issue s p 3 (isOp 0x19 121 121 op) fun q l =>
    let w := q.word
    let layer := op == 1
    if vnormBad w then l.reject 3 0xA20 0 0 q else
    let l := l.scrub (flyPar w) 32
    match l.poisonIn (flyPar w) 32 with
    | some off => (l.fly 1 24).consume s p 3 q off
    | none =>
    let r := normRec (l.rdN (flyPar w) 32)
    if normRecBad layer w r then l.reject 3 0xA20 0 0 q
    else l.flyRun s p q (cdiv (r.nr * r.nc) 32) 24 (normIns layer w r) (normOut layer w r)

def execVnormRms (p : Nat) (s : State) : Out := vnorm p s 0
def execVnormLayer (p : Nat) (s : State) : Out := vnorm p s 1

/-! VSMAX (R240, R241) -/

/-- The greater of two values; NaN when either is (assumption 12). -/
def fmaxN (a b : F32) : F32 := if read32 a = .nan || read32 b = .nan then nan32 else if flt a b then b else a

/-- One row of SCORE: the probabilities and the new m, l, c. -/
def scoreRow (x : List F32) (m l : F32) : List F32 × F32 × F32 × F32 :=
  let mb := match x with | [] => inf32 true | v :: vs => vs.foldl fmaxN v
  let mn := fmaxN m mb
  if mn = inf32 true then (x.map fun _ => zero32 false, m, l, one32)
  else
    let c := fexp (fsub m mn)
    let ps := x.map fun v => fexp (fsub v mn)
    (ps, mn, ps.foldl fadd (fmul l c), c)

/-- The fields of the VSMAX record (Table 8.10). -/
structure SmaxRec where
  raw : Nat
  sa : Nat
  phdr : Nat
  state : Nat
  oa : Nat
  onew : Nat
  dst : Nat
  nr : Nat
  nc : Nat
  dv : Nat
  causal : Bool
  qpos : Nat
  kpos : Nat
  scale : F32
deriving DecidableEq, Repr

def smaxRec (r : Nat) : SmaxRec :=
  { raw := r, sa := fldN r 31 0, phdr := fldN r 63 32, state := fldN r 95 64, oa := fldN r 127 96, onew := fldN r 159 128,
    dst := fldN r 191 160, nr := fldN r 207 192, nc := fldN r 223 208, dv := fldN r 239 224, causal := r.testBit 240,
    qpos := fldN r 279 256, kpos := fldN r 311 288, scale := BitVec.ofNat 32 (fldN r 351 320) }

/-- The record's fields lie in their limits (R240). -/
def SmaxRec.ok (r : SmaxRec) : Bool :=
  reservedClearN 512 r.raw [(240, 0), (279, 256), (311, 288), (351, 320)] && decide (1 ≤ r.nr) && decide (r.nr ≤ 1024)
    && decide (1 ≤ r.nc) && decide (r.nc ≤ 4096) && decide (1 ≤ r.dv) && decide (r.dv ≤ 1024) && !isNF r.scale
    && decide (r.qpos + r.nr - 1 ≤ 16777215) && decide (r.kpos + r.nc - 1 ≤ 16777215)

/-- The fields of a VSMAX word break a limit (Table 8.9). -/
def vsmaxBad (w : KWord) : Bool := !reservedClear w [(127, 118), (31, 0)] || flyPar w % 64 != 0 || !inDist (flyPar w) 64

/-- VSMAX up to the reading of its record. -/
def vsmax (p : Nat) (s : State) (op : Nat) (f : QEntry → SmaxRec → Loc → Loc) : Out :=
  issue s p 3 (isOp 0x1A 121 120 op) fun q l =>
    let w := q.word
    if vsmaxBad w then l.reject 3 0xA20 0 0 q else
    let l := l.scrub (flyPar w) 64
    match l.poisonIn (flyPar w) 64 with
    | some off => (l.fly 1 24).consume s p 3 q off
    | none => let r := smaxRec (l.rdN (flyPar w) 64); if r.ok then f q r l else l.reject 3 0xA20 0 0 q

/-- One row i of SCORE: its state, and the tensor P's blocks. -/
def scoreStep (s : State) (p : Nat) (q : QEntry) (r : SmaxRec) (h : Header) (sr : Bool) (l : Loc) (i : Nat) : Loc :=
  let sv := readVals l false (r.sa + i * r.nc * 4) r.nc
  let x := sv.zipIdx.map fun v => if r.causal && decide (r.kpos + v.2 > r.qpos + i) then inf32 true else fmul v.1 r.scale
  let a := r.state + 16 * i
  let (ps, m, lsum, c) := scoreRow x (canon32 (l.rd32 a)) (canon32 (l.rd32 (a + 4)))
  let l := writeBlocks s p 3 q.woff h sr (i * r.nc / h.b) (pieces h.b (r.nc / h.b) ps) l
  let l := ((l.wr32 a m).wr32 (a + 4) lsum).wr32 (a + 8) c
  l.flagIf (m != inf32 true && (isNF m || isNF lsum || isNF c))

/-- What SCORE reads beside the header of P. -/
def scoreIns (r : SmaxRec) : List (Nat × Nat) := [(r.sa, r.nr * r.nc * 4), (r.state, r.nr * 16)]

/-- A range of SCORE does not lie in the distaff (R240). -/
def scoreBad (r : SmaxRec) : Bool := !(scoreIns r).all (fun x => inDist x.1 x.2) || r.phdr % 64 != 0 || !inDist r.phdr 64

/-- The header of P does not take the probabilities (R101). -/
def scoreFault (me : Nat) (h : Header) (r : SmaxRec) : Bool :=
  !h.ok || !h.basesIn me || (h.firstBad me 0 (r.nr * r.nc / h.b)).isSome

/-- The width or the rounding of P breaks a limit. -/
def scoreFormBad (w : KWord) (h : Header) (r : SmaxRec) : Bool := r.nc % h.b != 0 || (h.fmt == 7 && !bitOf w 119)

/-- What SCORE writes. -/
def scoreOut (s : State) (p : Nat) (q : QEntry) (r : SmaxRec) (h : Header) (l : Loc) : Loc :=
  (List.range r.nr).foldl (scoreStep s p q r h (bitOf q.word 119)) l

/-- VSMAX SCORE. DESIGN CHOICE (assumption 99): the bytes of the header of P pass their checks before their poison is looked at. -/
def execVsmaxScore (p : Nat) (s : State) : Out :=
  vsmax p s 0 fun q r l =>
    let l := l.scrub r.phdr 64
    let h := readHeader l r.phdr
    if scoreBad r then l.reject 3 0xA20 0 0 q
    else if scoreFault (lnum s p) h r then l.reject 3 0x111 h.tid (h.badBlock (lnum s p) 0 (r.nr * r.nc / h.b)) q
    else if scoreFormBad q.word h r then l.reject 3 0xA20 0 0 q
    else l.flyRun s p q (cdiv (r.nr * r.nc) 32) 24 (scoreIns r ++ [(r.phdr, 64)]) (scoreOut s p q r h)

/-- What MERGE reads. -/
def mergeIns (r : SmaxRec) : List (Nat × Nat) := [(r.state, r.nr * 16), (r.oa, r.nr * r.dv * 4), (r.onew, r.nr * r.dv * 4)]

/-- What MERGE writes, and the flag. -/
def mergeOut (r : SmaxRec) (l : Loc) : Loc :=
  let o := readVals l false r.oa (r.nr * r.dv)
  let nw := readVals l false r.onew (r.nr * r.dv)
  let out := (List.zip o nw).zipIdx.map fun x => ffma x.1.1 (canon32 (l.rd32 (r.state + 16 * (x.2 / r.dv) + 8))) x.1.2
  (wrVals false r.oa out l).flagIf (out.any isNF)

def execVsmaxMerge (p : Nat) (s : State) : Out :=
  vsmax p s 1 fun q r l =>
    if !(mergeIns r).all (fun x => inDist x.1 x.2) then l.reject 3 0xA20 0 0 q
    else l.flyRun s p q (cdiv (r.nr * r.dv) 64) 16 (mergeIns r) (mergeOut r)

/-- What FINAL reads. -/
def finalIns (r : SmaxRec) : List (Nat × Nat) := [(r.state, r.nr * 16), (r.oa, r.nr * r.dv * 4)]

/-- What FINAL writes, and the flag. -/
def finalOut (w : KWord) (r : SmaxRec) (l : Loc) : Loc :=
  let bf := bitOf w 118
  let o := readVals l false r.oa (r.nr * r.dv)
  let out := o.zipIdx.map fun x =>
    let d := canon32 (l.rd32 (r.state + 16 * (x.2 / r.dv) + 4))
    if (read32 d).isZero then zero32 false else fdiv x.1 d
  (wrVals bf r.dst out l).flagIf (out.any (nfOut bf))

def execVsmaxFinal (p : Nat) (s : State) : Out :=
  vsmax p s 2 fun q r l =>
    if !(finalIns r ++ [(r.dst, r.nr * r.dv * esz (bitOf q.word 118))]).all (fun x => inDist x.1 x.2) then l.reject 3 0xA20 0 0 q
    else l.flyRun s p q (cdiv (r.nr * r.dv) 64) 24 (finalIns r) (finalOut q.word r)

/-! VQUANT (R100 to R102) -/

/-- Source, header offset, first block and count of a VQUANT; whether the source is BF16. -/
def vqSrc (w : KWord) : Nat := fld w 95 64
def vqHdr (w : KWord) : Nat := fld w 63 32
def vqB0 (w : KWord) : Nat := fld w 117 96
def vqN (w : KWord) : Nat := fld w 31 16
def vqBf (w : KWord) : Bool := fld w 121 120 == 1

/-- The fields of a VQUANT word break a limit (R100). -/
def vquantBad (w : KWord) : Bool :=
  !reservedClear w [(127, 119), (117, 16)] || decide (fld w 121 120 ≥ 2) || vqSrc w % 4 != 0 || vqHdr w % 64 != 0 || vqN w == 0
    || !inDist (vqHdr w) 64

/-- Bytes that a VQUANT reads. -/
def vqBytes (h : Header) (w : KWord) : Nat := vqN w * h.b * esz (vqBf w)

/-- Block b of a VQUANT does not exist, leaves the own window or overlaps the source (R101). -/
def vqBlockBad (s : State) (p : Nat) (h : Header) (w : KWord) (b : Nat) : Bool :=
  let src (a n : Nat) : Bool := overlaps (vqSrc w) (vqBytes h w) (toLocal s p a) n
  let er := h.elemRange (b * h.b) h.b
  decide (h.nblk ≤ b) || !h.blocksIn (lnum s p) b 1 || src er.1 er.2 || src (h.scale + b) 1
    || (h.oslot != 0 && src (h.side + b * h.oslot * 4) (h.oslot * 4))

/-- The first block of a VQUANT that offends. -/
def vqBadAt (s : State) (p : Nat) (h : Header) (w : KWord) : Option Nat :=
  ((List.range (vqN w)).map (vqB0 w + ·)).find? (vqBlockBad s p h w)

/-- The header's addresses or the blocks that a VQUANT writes break a rule (R101, R177). -/
def vquantFault (s : State) (p : Nat) (h : Header) (w : KWord) : Bool :=
  !h.basesIn (lnum s p) || (h.oslot != 0 && h.side % 64 != 0) || (vqBadAt s p h w).isSome

/-- Elements that a VQUANT takes in an sc (R102). -/
def vqRate (h : Header) : Nat := if h.oslot = 0 then 128 else 64

/-- The i-th block of a VQUANT that issued in sc t, formed from its elements: it is visible 18 sc after its last element is taken (R102). -/
def vqBlock (s : State) (p : Nat) (q : QEntry) (h : Header) (t : Nat) (l : Loc) (x : List F32 × Nat) : Loc :=
  l.seenAt (t + ((x.2 + 1) * h.b - 1) / vqRate h + 18)
    (writeBlocks s p 3 q.woff h (bitOf q.word 119) (vqB0 q.word + x.2) [x.1])

/-- The offset and the number of the elements that a VQUANT takes in its sc i (R102). -/
def vqTake (h : Header) (w : KWord) (i : Nat) : Nat × Nat :=
  (vqSrc w + i * vqRate h * esz (vqBf w), min (vqRate h) (vqN w * h.b - i * vqRate h))

/-- The sc that a VQUANT occupies. -/
def vqOcc (h : Header) (w : KWord) : Nat := cdiv (vqN w * h.b) (vqRate h)

/-- The source elements of a VQUANT that issued in sc t, each as its own sc sees it (R102). -/
def vqVals (h : Header) (w : KWord) (t : Nat) (l : Loc) : List F32 :=
  (List.range (vqOcc h w)).flatMap fun i => readVals (l.land (t + i)) (vqBf w) (vqTake h w i).1 (vqTake h w i).2

/-- The first of its sc in which a VQUANT reads a poisoned word, and the word. -/
def vqPoison (h : Header) (w : KWord) (t : Nat) (l : Loc) : Option (Nat × Nat) :=
  (List.range (vqOcc h w)).findSome? fun i =>
    ((l.land (t + i)).poisonIn (vqTake h w i).1 ((vqTake h w i).2 * esz (vqBf w))).map fun off => (t + i, off)

/-- The first n blocks of a VQUANT that issued in sc t, written one by one (R102). -/
def vquantBlocks (s : State) (p : Nat) (q : QEntry) (h : Header) (t n : Nat) (l : Loc) : Loc :=
  (pieces h.b n (vqVals h q.word t l)).zipIdx.foldl (vqBlock s p q h t) l

/-- What a VQUANT that issued in sc t writes. -/
def vquantOut (s : State) (p : Nat) (q : QEntry) (h : Header) (t : Nat) (l : Loc) : Loc := vquantBlocks s p q h t (vqN q.word) l

/-- The blocks of a VQUANT that issued in sc t whose last element it takes before sc u. -/
def vqBefore (h : Header) (w : KWord) (t u : Nat) : Nat :=
  ((List.range (vqN w)).filter fun i => decide (t + ((i + 1) * h.b - 1) / vqRate h < u)).length

/-- A VQUANT that has passed its checks: a poisoned header or element stops it in the sc that reads it (R473). DESIGN CHOICE (assumption
110): the blocks whose last element it took in earlier sc are written, and no others. -/
def vquantDo (s : State) (p : Nat) (q : QEntry) (h : Header) (l : Loc) : Loc :=
  let w := q.word
  let t := issueAt l 3
  let m := (l.fly (vqOcc h w) 18).reading [(vqHdr w, 64), (vqSrc w, vqBytes h w)]
  match m.poisonIn (vqHdr w) 64, vqPoison h w t m with
  | some off, _ => m.consume s p 3 q off
  | none, some (u, off) => (vquantBlocks s p q h t (vqBefore h w t u) (m.kill 3)).raise { evW 0x302 3 q.woff 3 (ownAddr s p off) with at_ := some u }
  | none, none => vquantOut s p q h t m

/-- VQUANT. DESIGN CHOICE (assumption 99): the header's bytes pass their checks before their poison is looked at. -/
def execVquant (p : Nat) (s : State) : Out :=
  issue s p 3 (isCls 0x1B) fun q l =>
    let w := q.word
    if vquantBad w then l.reject 3 0xA20 0 0 q else
    let l := l.scrub (vqHdr w) 64
    let h := readHeader l (vqHdr w)
    if h.fmt == 7 && !bitOf w 119 then l.reject 3 0xA20 0 0 q
    else if !h.ok then l.reject 3 0x111 h.tid 0 q
    else if !inDist (vqSrc w) (vqBytes h w) then l.reject 3 0xA20 0 0 q
    else if vquantFault s p h w then l.reject 3 0x111 h.tid ((vqBadAt s p h w).getD 0) q
    else vquantDo s p q h l

/-! VRAND (R217 to R221) -/

/-- The fields of the VRAND record (Table 7.12). -/
structure RandRec where
  raw : Nat
  tid : Nat
  strm : Nat
  keep : Nat
  scale : F32
  nr : Nat
  nc : Nat
  sp : Nat
  dp : Nat
  d0 : Nat
  dr : Int
  dc : Int
deriving DecidableEq, Repr

def randRec (r : Nat) : RandRec :=
  { raw := r, tid := fldN r 15 0, strm := fldN r 39 16, keep := fldN r 55 40, scale := BitVec.ofNat 32 (fldN r 95 64),
    nr := fldN r 111 96, nc := fldN r 127 112, sp := fldN r 159 128, dp := fldN r 191 160, d0 := fldN r 242 192,
    dr := signedN 32 (fldN r 287 256), dc := signedN 32 (fldN r 319 288) }

/-- Draw index of element (i, j) (R219). -/
def RandRec.d (r : RandRec) (form i j : Nat) : Int :=
  if form = 0 then (r.d0 + i * r.nc + j : Nat) else (r.d0 : Int) + i * r.dr + j * r.dc

/-- Every draw index lies in 0 to 2^51 − 1: the index is affine, so the corners decide. -/
def RandRec.dIn (r : RandRec) (form : Nat) : Bool :=
  [(0, 0), (r.nr - 1, 0), (0, r.nc - 1), (r.nr - 1, r.nc - 1)].all fun c =>
    decide (0 ≤ r.d form c.1 c.2) && decide (r.d form c.1 c.2 < 2 ^ 51)

/-- The elements (i, j) in row order. -/
def cells (nr nc : Nat) : List (Nat × Nat) := (List.range (nr * nc)).map fun x => (x / nc, x % nc)

/-- A byte that DROP writes for one element is a byte that it reads for another (R221). -/
def dropClash (r : RandRec) (z src dst : Nat) : Bool :=
  (cells r.nr r.nc).any fun c =>
    let a := dst + (c.1 * r.dp + c.2) * z
    [a, a + z - 1].any fun x =>
      decide (src ≤ x) && (let e := (x - src) / z; decide (e / r.sp < r.nr) && decide (e % r.sp < r.nc)
        && !(e / r.sp == c.1 && e % r.sp == c.2))

/-- Source and destination of a VRAND. -/
def vrSrc (w : KWord) : Nat := fld w 95 64
def vrDst (w : KWord) : Nat := fld w 63 32
/-- Bytes of an element written. -/
def vrZd (op : Nat) (w : KWord) : Nat := if op = 1 then 2 else esz (bitOf w 119)

/-- The fields of a VRAND word break a limit (R218). -/
def vrandBad (w : KWord) : Bool := !reservedClear w [(127, 119), (95, 0)] || flyPar w % 64 != 0 || !inDist (flyPar w) 64

/-- The byte ranges of the rows of an array. -/
def RandRec.rows (r : RandRec) (a pitch z : Nat) : List (Nat × Nat) := (List.range r.nr).map fun i => (a + i * pitch * z, r.nc * z)

/-- What a VRAND reads beside its record. -/
def randIns (op : Nat) (w : KWord) (r : RandRec) : List (Nat × Nat) := if op = 0 then r.rows (vrSrc w) r.sp (esz (bitOf w 119)) else []

/-- The record of a VRAND breaks a limit (R218, R219, R221). -/
def randRecBad (op : Nat) (w : KWord) (r : RandRec) : Bool :=
  let zs := esz (bitOf w 119)
  !reservedClearN 512 r.raw [(55, 0), (242, 64), (319, 256)] || decide (r.strm ≥ 0xFFFF00) || r.nr == 0 || r.nc == 0
    || decide (r.dp < r.nc) || vrDst w % vrZd op w != 0 || !(randIns op w r ++ r.rows (vrDst w) r.dp (vrZd op w)).all (fun x => inDist x.1 x.2)
    || !r.dIn (fld w 120 120) || decide (r.sp < r.nc) || isNF r.scale
    || (op == 0 && (vrSrc w % zs != 0 || dropClash r zs (vrSrc w) (vrDst w)))

/-- VRAND with operation `op`. -/
def vrand (p : Nat) (s : State) (op : Nat) (out : Numeric → RandRec → KWord → Loc → Loc) : Out :=
  issue s p 3 (isOp 0x1C 121 121 op) fun q l =>
    let w := q.word
    if vrandBad w then l.reject 3 0xA20 0 0 q else
    let l := l.scrub (flyPar w) 64
    match l.poisonIn (flyPar w) 64 with
    | some off => (l.fly 1 24).consume s p 3 q off
    | none =>
    let r := randRec (l.rdN (flyPar w) 64)
    if randRecBad op w r then l.reject 3 0xA20 0 0 q
    else l.flyRun s p q (cdiv (r.nr * r.nc) (if fld w 120 120 = 0 then 128 else 16)) 24 (randIns op w r) (out (numAt s p) r w)

/-- Draw of element (i, j). -/
def RandRec.draw (r : RandRec) (n : Numeric) (form i j : Nat) : Nat := drawAt n.key r.tid n.step r.strm (r.d form i j).toNat

/-- A kept element is x × SCALE rounded once to the source format; a dropped one x × (+0.0) (R220). -/
def dropped (bf keep : Bool) (x scale : F32) : Fv :=
  let y := mulFv (read32 x) (if keep then read32 scale else read32 (zero32 false))
  if bf then read16 (toB16 y) else read32 (toF32 y)

/-- What DROP writes, and the flag. -/
def dropOut (n : Numeric) (r : RandRec) (w : KWord) (l : Loc) : Loc :=
  let bf := bitOf w 119
  let z := esz bf
  let vs := (cells r.nr r.nc).map fun c =>
    let a := vrSrc w + (c.1 * r.sp + c.2) * z
    let x := if bf then widen16 (l.rd16 a) else canon32 (l.rd32 a)
    (c, dropped bf (decide (r.draw n (fld w 120 120) c.1 c.2 < r.keep)) x r.scale)
  (vs.foldl (fun l v =>
    let a := vrDst w + (v.1.1 * r.dp + v.1.2) * z
    if bf then l.wr16 a (toB16 v.2) else l.wr32 a (toF32 v.2)) l).flagIf (vs.any fun v => v.2.isNonFinite)

/-- What BITS writes. -/
def bitsOut (n : Numeric) (r : RandRec) (w : KWord) (l : Loc) : Loc :=
  (cells r.nr r.nc).foldl (fun l c => l.wr (vrDst w + (c.1 * r.dp + c.2) * 2) (leBytes 2 (r.draw n (fld w 120 120) c.1 c.2))) l

def execVrandDrop (p : Nat) (s : State) : Out := vrand p s 0 dropOut
def execVrandBits (p : Nat) (s : State) : Out := vrand p s 1 bitsOut

/-! VOPT (R231 to R235) -/

/-- The fields of the VOPT record (Table 8.2). -/
structure OptRec where
  raw : Nat
  g : Nat
  w : Nat
  m : Nat
  v : Nat
  r : Nat
  f : Nat
  lr : F32
  b1 : F32
  b2 : F32
  eps : F32
  wd : F32
  gs : F32
deriving DecidableEq, Repr

def optRec (x : Nat) : OptRec :=
  let f (hi lo : Nat) : F32 := BitVec.ofNat 32 (fldN x hi lo)
  { raw := x, g := fldN x 31 0, w := fldN x 63 32, m := fldN x 95 64, v := fldN x 127 96, r := fldN x 159 128,
    f := fldN x 191 160, lr := f 223 192, b1 := f 255 224, b2 := f 287 256, eps := f 319 288, wd := f 351 320, gs := f 383 352 }

/-- What VOPT computes once per instruction (R232). -/
structure OptOnce where
  c1 : F32
  c2 : F32
  lwd : F32
  bc1 : F32
  bc2 : F32
deriving DecidableEq, Repr

def optOnce (r : OptRec) (a : Nat) : OptOnce :=
  let bc (b : F32) := frecip (fsub one32 (fexp2 (fmul (fOfNat a) (flog2 b))))
  { c1 := fsub one32 r.b1, c2 := fsub one32 r.b2, lwd := fmul (fneg r.lr) r.wd, bc1 := bc r.b1, bc2 := bc r.b2 }

/-- The new master, moments and remainder of an element, or none when a value is Inf or NaN (R232). -/
def optElem (adam : Bool) (rc : OptRec) (o : OptOnce) (apply_ : Nat) (gin w m v : F32) (r : B16) : Option (F32 × F32 × F32 × B16) :=
  let g := fmul (toF32 (scaleFv (127 - (apply_ : Int)) (read32 gin))) rc.gs
  let (m1, v1, u) :=
    if adam then
      let m1 := ffma rc.b1 m (fmul o.c1 g)
      let v1 := ffma rc.b2 v (fmul o.c2 (fmul g g))
      let q := fdiv (fmul m1 o.bc1) (fadd (fsqrt (fmul v1 o.bc2)) rc.eps)
      (m1, v1, ffma o.lwd w (fmul (fneg rc.lr) q))
    else
      let m1 := ffma rc.b1 m (ffma rc.wd w g)
      (m1, v, fmul (fneg rc.lr) m1)
  let t := fadd u (widen16 r)
  let w1 := fadd w t
  if isNF m1 || (adam && isNF v1) || isNF u || isNF t || isNF w1 then none
  else some (w1, m1, v1, toB16 (addFv (addFv (read32 w) (read32 t)) (negFv (read32 w1))))

/-- One element of VOPT: its master after the step is appended to the working values; unchanged elements are counted. -/
def optStep (adam frz : Bool) (rc : OptRec) (o : OptOnce) (apply_ : Nat) (x : Loc × List F32 × List Nat) (e : Nat) :
    Loc × List F32 × List Nat :=
  let l := x.1
  let w := canon32 (l.rd32 (rc.w + 4 * e))
  if frz && (l.rdN (rc.f + e / 8) 1).testBit (e % 8) then (l, x.2.1 ++ [w], x.2.2)
  else
    match optElem adam rc o apply_ (canon32 (l.rd32 (rc.g + 4 * e))) w (canon32 (l.rd32 (rc.m + 4 * e)))
        (if adam then canon32 (l.rd32 (rc.v + 4 * e)) else 0#32) (l.rd16 (rc.r + 2 * e)) with
    | none => (l, x.2.1 ++ [w], x.2.2 ++ [e])
    | some (w1, m1, v1, r1) =>
      let l := (l.wr32 (rc.w + 4 * e) w1).wr32 (rc.m + 4 * e) m1
      let l := if adam then l.wr32 (rc.v + 4 * e) v1 else l
      (l.wr16 (rc.r + 2 * e) r1, x.2.1 ++ [w1], x.2.2)

/-- Fields of a VOPT word: the header or array of the working values, the first block, the count, and the flags. -/
def voBf (w : KWord) : Bool := bitOf w 118
def voHdr (w : KWord) : Nat := fld w 95 64
def voPar (w : KWord) : Nat := fld w 63 32
def voB0 (w : KWord) : Nat := fld w 117 96
def voNb (w : KWord) : Nat := fld w 31 16

/-- The fields of a VOPT word break a limit (Table 8.1). -/
def voptBad (w : KWord) : Bool :=
  !reservedClear w [(127, 16)] || voPar w % 64 != 0 || !inDist (voPar w) 64 || voNb w == 0
    || (if voBf w then voHdr w % 2 != 0 else voHdr w % 64 != 0) || !(voBf w || inDist (voHdr w) 64)

/-- Elements of a VOPT. -/
def voN (h : Header) (w : KWord) : Nat := voNb w * (if voBf w then 32 else h.b)

/-- The tensor of the working values breaks a rule of R101. -/
def voptFault (me : Nat) (h : Header) (w : KWord) : Bool :=
  !voBf w && (!h.ok || !h.basesIn me || (h.firstBad me (voB0 w) (voNb w)).isSome)

/-- The ranges of the working values. -/
def voWork (s : State) (p : Nat) (h : Header) (w : KWord) : List (Nat × Nat) :=
  let er := h.elemRange (voB0 w * h.b) (voN h w)
  if voBf w then [(voHdr w, 2 * voN h w)] else
    [(toLocal s p er.1, er.2), (toLocal s p (h.scale + voB0 w), voNb w)]
      ++ (if h.oslot = 0 then [] else [(toLocal s p (h.side + voB0 w * h.oslot * 4), voNb w * h.oslot * 4)])

/-- The arrays of a VOPT. -/
def voArrs (adam : Bool) (rc : OptRec) (n : Nat) (w : KWord) : List (Nat × Nat) :=
  [(rc.g, 4 * n), (rc.w, 4 * n), (rc.m, 4 * n), (rc.r, 2 * n)] ++ (if adam then [(rc.v, 4 * n)] else [])
    ++ (if bitOf w 119 then [(rc.f, cdiv n 8)] else [])

/-- The record or the ranges of a VOPT break a limit (R231). -/
def optRecBad (s : State) (p : Nat) (adam : Bool) (rc : OptRec) (h : Header) (w : KWord) : Bool :=
  let arrs := voArrs adam rc (voN h w) w
  let work := voWork s p h w
  !reservedClearN 512 rc.raw [(383, 0)] || !(arrs ++ work).all (fun x => inDist x.1 x.2)
    || arrs.zipIdx.any (fun a => (arrs.drop (a.2 + 1) ++ work).any fun c => overlaps a.1.1 a.1.2 c.1 c.2)
    || [rc.lr, rc.b1, rc.b2, rc.eps, rc.wd, rc.gs].any isNF

/-- What a VOPT reads beside its record. -/
def voIns (adam : Bool) (rc : OptRec) (h : Header) (w : KWord) : List (Nat × Nat) :=
  voArrs adam rc (voN h w) w ++ (if voBf w then [] else [(voHdr w, 64)])

/-- What a VOPT writes, and its event. -/
def optOut (s : State) (p : Nat) (adam : Bool) (rc : OptRec) (h : Header) (q : QEntry) (l : Loc) : Loc :=
  let w := q.word
  let (l, ws, bad) := (List.range (voN h w)).foldl (optStep adam (bitOf w 119) rc (optOnce rc (numAt s p).a) (numAt s p).apply_) (l, [], [])
  let l := if voBf w then wrVals true (voHdr w) ws l
           else writeBlocks s p 3 q.woff h (bitOf w 120) (voB0 w) (pieces h.b (voNb w) ws) l
  match bad with
  | [] => l
  | e :: _ => (l.count fun c => { c with optNf := sat32 c.optNf bad.length }).raise (evW 0x142 3 q.woff (voHdr w) e)

/-- VOPT with optimizer `opt`. DESIGN CHOICE (assumption 99): the bytes of the header of the working values pass their checks before their
poison is looked at. -/
def vopt (p : Nat) (s : State) (opt : Nat) : Out :=
  issue s p 3 (isOp 0x1D 121 121 opt) fun q l =>
    let w := q.word
    let adam := opt == 0
    if voptBad w then l.reject 3 0xA20 0 0 q else
    let l := l.scrub (voPar w) 64
    match l.poisonIn (voPar w) 64 with
    | some off => (l.fly 1 40).consume s p 3 q off
    | none =>
    let rc := optRec (l.rdN (voPar w) 64)
    let h := readHeader l (voHdr w)
    if !voBf w && h.fmt == 7 && !bitOf w 120 then l.reject 3 0xA20 0 0 q
    else if voptFault (lnum s p) h w then l.reject 3 0x111 h.tid (h.badBlock (lnum s p) (voB0 w) (voNb w)) q
    else if optRecBad s p adam rc h w then l.reject 3 0xA20 0 0 q
    else if (numAt s p).verdict then l.pop 3 (issueAt l 3) 1 (issueAt l 3 + 2)
    else l.flyRun s p q (cdiv (voN h w) (if adam then 16 else 32)) 40 (voIns adam rc h w) (optOut s p adam rc h q)

def execVoptAdam (p : Nat) (s : State) : Out := vopt p s 0
def execVoptSgd (p : Nat) (s : State) : Out := vopt p s 1

/-! VLOSS (R238, R239) -/

/-- The online maximum and sum of R238. -/
def online (x : List F32) : F32 × F32 :=
  x.foldl (fun a v =>
    let b := if flt a.1 v then (v, fmul a.2 (fexp (fsub a.1 v))) else a
    (b.1, fadd b.2 (fexp (fsub v b.1)))) (inf32 true, zero32 false)

/-- What VLOSS computes once per instruction. -/
structure LossOnce where
  it : F32
  at_ : F32
  at2 : F32
  bt : F32
  g0 : F32
deriving DecidableEq, Repr

/-- One row of VLOSS: gradients and loss; `y` is the label when it is one. -/
def lossRow (o : LossOnce) (zs zt : List F32) (y : Option Nat) : List F32 × F32 :=
  let xt := zt.map (fmul · o.it)
  let xs := zs.map (fmul · o.it)
  let (mt, st) := online xt
  let (ms, ss) := online xs
  let (mq, sq) := online zs
  let lt := fln st
  let ls := fln ss
  let cols := (List.zip zs (List.zip xt xs)).zipIdx
  let pt (x : F32) := fdiv (fexp (fsub x mt)) st
  let kl := cols.foldl (fun a c =>
    let dk := fsub (fsub (fsub c.1.2.1 mt) lt) (fsub (fsub c.1.2.2 ms) ls)
    ffma (pt c.1.2.1) dk a) (zero32 false)
  let g := cols.map fun c =>
    let ps := fdiv (fexp (fsub c.1.2.2 ms)) ss
    let q := fdiv (fexp (fsub c.1.1 mq)) sq
    let h := if y = some c.2 then one32 else zero32 false
    fmul o.g0 (ffma o.at_ (fsub ps (pt c.1.2.1)) (fmul o.bt (fsub q h)))
  let ce := match y with
    | some y => fsub (fadd (fln sq) mq) (zs.getD y 0#32)
    | none => zero32 false
  (g, ffma o.at2 kl (fmul o.bt ce))

/-- The fields of the VLOSS record (Table 8.8). -/
structure LossRec where
  raw : Nat
  zs : Nat
  zt : Nat
  la : Nat
  go : Nat
  lo : Nat
  nr : Nat
  v : Nat
  temp : F32
  alpha : F32
  norm : F32
deriving DecidableEq, Repr

def lossRec (r : Nat) : LossRec :=
  let f (hi lo : Nat) : F32 := BitVec.ofNat 32 (fldN r hi lo)
  { raw := r, zs := fldN r 31 0, zt := fldN r 63 32, la := fldN r 95 64, go := fldN r 127 96, lo := fldN r 159 128,
    nr := fldN r 175 160, v := fldN r 223 192, temp := f 255 224, alpha := f 287 256, norm := f 319 288 }

/-- The fields of a VLOSS word break a limit (Table 8.7). -/
def vlossBad (w : KWord) : Bool := !reservedClear w [(127, 121), (31, 0)] || flyPar w % 64 != 0 || !inDist (flyPar w) 64

/-- What a VLOSS reads beside its record. -/
def lossIns (r : LossRec) : List (Nat × Nat) := [(r.zs, 4 * (r.nr * r.v)), (r.zt, 4 * (r.nr * r.v)), (r.la, 4 * r.nr)]

/-- The record of a VLOSS breaks a limit (R238). -/
def lossRecBad (w : KWord) (r : LossRec) : Bool :=
  let all := lossIns r ++ [(r.go, r.nr * r.v * esz (bitOf w 121)), (r.lo, 4 * r.nr)]
  let clash := all.zipIdx.any (fun a => all.zipIdx.any fun c =>
    decide (a.2 < c.2) && overlaps a.1.1 a.1.2 c.1.1 c.1.2 && !(a.2 == 0 && c.2 == 3 && r.zs == r.go))
  !reservedClearN 512 r.raw [(175, 0), (319, 192)] || r.nr == 0 || r.v == 0 || decide (r.v > 262144) || isNF r.temp || isNF r.alpha
    || isNF r.norm || !flt (zero32 false) r.temp || flt r.alpha (zero32 false) || flt one32 r.alpha
    || !all.all (fun x => inDist x.1 x.2) || clash

/-- What VLOSS computes once, under the loss scale's exponent. -/
def lossOnce (lse : Nat) (r : LossRec) : LossOnce :=
  let at_ := fmul r.alpha r.temp
  { it := frecip r.temp, at_ := at_, at2 := fmul at_ r.temp, bt := fsub one32 r.alpha,
    g0 := toF32 (scaleFv ((lse : Int) - 127) (read32 r.norm)) }

/-- What a VLOSS writes row by row, the flag and its events. -/
def lossOut (s : State) (p : Nat) (r : LossRec) (q : QEntry) (l : Loc) : Loc :=
  let bf := bitOf q.word 121
  let lse := match jobAt s p with | some j => (jobOf s j).num.lse | none => 127
  (List.range r.nr).foldl (fun l i =>
    let lab := l.rdN (r.la + 4 * i) 4
    let y := if lab < r.v then some lab else none
    let (g, loss) := lossRow (lossOnce lse r) (readVals l false (r.zs + 4 * i * r.v) r.v) (readVals l false (r.zt + 4 * i * r.v) r.v) y
    let l := (wrVals bf (r.go + i * r.v * esz bf) g l).wr32 (r.lo + 4 * i) loss
    let l := l.flagIf (g.any (nfOut bf) || isNF loss)
    if lab = 0xFFFF_FFFF ∨ lab < r.v then l else l.raise (evW 0x143 3 q.woff i lab)) l

def execVloss (p : Nat) (s : State) : Out :=
  issue s p 3 (isCls 0x1E) fun q l =>
    let w := q.word
    if vlossBad w then l.reject 3 0xA20 0 0 q else
    let l := l.scrub (flyPar w) 64
    match l.poisonIn (flyPar w) 64 with
    | some off => (l.fly 1 32).consume s p 3 q off
    | none =>
    let r := lossRec (l.rdN (flyPar w) 64)
    if lossRecBad w r then l.reject 3 0xA20 0 0 q
    else l.flyRun s p q (cdiv (r.nr * r.v) 16) 32 (lossIns r) (lossOut s p r q)

/-! VCHECK (R185 to R187, R201) -/

/-- num, den and the judgement of a pending check (R186): judged and drift. -/
def judge (c : Check) (tolm : Nat) : F32 × F32 × Bool × Bool :=
  let z := zero32 false
  let cellsQ := c.q.zipIdx.flatMap fun r => r.1.zipIdx.map fun v => (r.2, v.2, v.1)
  let live := cellsQ.filter fun x => !c.frozen.contains (x.1, x.2.1)
  let ref (i j : Nat) : F32 :=
    (List.zip (c.a.getD i []) (c.b.getD j [])).foldl (fun acc k => ffma (widen16 k.1) (widen16 k.2) acc) z
  let rs := live.map fun x => (x.2.2, ref x.1 x.2.1)
  let num := rs.foldl (fun a x => let d := fsub x.1 x.2; ffma d d a) z
  let den := rs.foldl (fun a x => ffma x.2 x.2 a) z
  let bad := rs.isEmpty || rs.any (fun x => isNF x.1 || isNF x.2) || isNF num || isNF den
  let tau := mulFv (.fin false (tolm * tolm) (-24)) (read32 den)
  (num, den, !bad, !bad && ltFv (read32 (toF32 tau)) (read32 num))

/-- A drift (R187): event, counter and promote bit. -/
def drifted (s : State) (p h : Nat) (q : QEntry) (c : Check) (num den : F32) (pmap : Nat) (l : Loc) : Loc :=
  let l := (l.raise (evW 0x131 3 q.woff (c.ltag + put h 16) (num.toNat + put den.toNat 32))).count
    fun k => { k with qdrift := sat32 k.qdrift 1 }
  if (qcheck s p).testBit 5 then
    let a := pmap + c.ltag / 8
    l.wr a [BitVec.ofNat 8 (memNat l.sp.soon a 1 ||| 2 ^ (c.ltag % 8))]
  else l

/-- Fields of a VCHECK word: the half, WREC, and the offsets of the promote map and of the record. -/
def vcHalf (w : KWord) : Nat := fld w 121 121
def vcMap (w : KWord) : Nat := fld w 63 32
def vcRec (w : KWord) : Nat := fld w 31 0

/-- The fields of a VCHECK word break a limit (R185). -/
def vcheckBad (w : KWord) : Bool :=
  !reservedClear w [(127, 120), (63, 0)] || vcMap w % 64 != 0 || vcRec w % 32 != 0 || !inDist (vcMap w) 8192
    || (bitOf w 120 && !inDist (vcRec w) 32)

/-- What a VCHECK writes: the promote map's bit and the check record. -/
def vcheckOut (s : State) (p : Nat) (q : QEntry) (c : Check) (l : Loc) : Loc :=
  let w := q.word
  let h := vcHalf w
  let (num, den, judged, drift) := judge c (fldN (qcheck s p) 19 8)
  let l := if drift then drifted s p h q c num den (vcMap w) l else l
  if bitOf w 120 then
    l.wr (vcRec w) (leBytes 32 (c.ltag + put h 16 + put (b2n judged) 17 + put (b2n drift) 18 + put num.toNat 32
      + put den.toNat 64 + put c.sel 96))
  else l

/-- A pending check that is ready from sc t on is judged (R185, R186, R187); it stays pending until the VCHECK completes (DESIGN CHOICE,
assumption 70). E-0x131 is raised and SPN_QDRIFT counts in the sc of the VCHECK's issue (DESIGN CHOICE, assumption 92). -/
def vcheckDo (s : State) (p : Nat) (q : QEntry) (c : Check) (t : Nat) (l : Loc) : Loc :=
  let t := max t (issueAt l 3)
  let occ := 2 * (c.a.getD 0 []).length + 8
  let done := t + occ - 1 + 16
  ((l.pop 3 t occ done).half (vcHalf q.word) fun x => { x with check := some { c with clearAt := some done } }).seenAt done
    (vcheckOut s p q c)

/-- The check of half h that a VCHECK finds: one that a VCHECK judges already is none (assumption 70). -/
def pendingOf (sp : Spindle) (h : Nat) : Option Check := (halfOf sp h).check.filter (·.clearAt.isNone)

def execVcheck (p : Nat) (s : State) : Out :=
  issueW s p 3 (isCls 0x1F) fun q l =>
    if vcheckBad q.word then some (l.reject 3 0xA20 0 0 q) else
    match pendingOf l.sp (vcHalf q.word) with
    | none => some (l.fly 1 1)
    | some c => c.ready.map (vcheckDo s p q c · l)

end Sys2Proof.Machine
end

