-- ==== Sys2Proof/Machine/HostIf.lean ====
section
/-!
DEFINITION. The host link and what answers on it and on the sideband (R350 to R352, R370, R371, R437, R446, R451, R470). The manual names the
messages by their standards; their layouts are PRESUMED from those standards (assumption 32).
-/
namespace Sys2Proof.Machine

/-! The link (R350, R446, R470) -/

/-- The host link is lost: E-0x505, a bell fault of every running job, and the CHOST transfers in flight are abandoned. -/
def linkLost (s : State) : State :=
  if s.hif.link then
    let s := raiseDev { s with hif := { s.hif with link := false, width := 0, fast := false } } (ev 0x505 0 0)
    let s := faultRunning s 0x505
    s.hif.xfers.foldl abandonXfer s
  else s

/-- HOST_LINK_DOWN. -/
def execHostLinkDown (s : State) : Out := .next (linkLost s)

/-- HOST_LINK_TRAIN: a link of ×8 (1) or ×16 (2), at 32 GT/s when `fast`, once PERST_N is high and step 3 of the power-up has ended. -/
def execHostLinkTrain (width : Nat) (fast : Bool) (s : State) : Out :=
  .next <|
    if !s.hif.perst && decide (3 ≤ s.power.step) && !s.power.off && !s.hif.link && (width == 1 || width == 2) then
      let s := { s with hif := { s.hif with link := true, width := width, fast := fast } }
      if width = 2 ∧ fast then s else raiseDev s (ev 0x506 (width + put (b2n fast) 2) 0)
    else s

/-- The MSI-X table of a function out of reset: every vector masked. -/
def msixReset : Mem := (List.range 9).map fun v => (16 * v + 12, 1#8)

/-- PERST_N goes to a level: low resets the CXL controller and its link; a rising edge also ends the deep sleep state (R446, R447). -/
def execPerst (level : Bool) (s : State) : Out :=
  .next <|
    if level then
      if s.hif.perst then
        let s := { s with hif := { s.hif with perst := false } }
        if s.power.sleep = 2 then { s with power := { s.power with wakeDue := true } } else s
      else s
    else
      let s := linkLost s
      { s with hif := { s.hif with perst := true, msix := msixReset, msixPend := [], cxl := [] } }

/-- CXL_CONFIG_REQUEST: retry status (1) until step 14 completes or the boot stops, then the dword's bytes, or a write of it (R451). -/
def execCxlConfigRequest (req : ConfigAccess) (s : State) : Out :=
  .next <|
    if s.hif.link then
      if s.power.step = 14 ∨ s.keep.stopped then
        let o := req.off % 4096 / 4 * 4
        match req.data with
        | none => sendMsg s 1 (0#8 :: (List.range 4).map fun i => cfgByte s (o + i))
        | some v => sendMsg (cxlSet o (v % 2 ^ 32) s) 1 [0#8]
      else sendMsg s 1 [1#8]
    else s

/-- CXL_SNOOP: the device holds no host line, and answers so (2) whichever line is asked for. -/
def execCxlSnoop (_line : Nat) (s : State) : Out := .next (if s.hif.link then sendMsg s 1 [2#8] else s)

/-! DOE (R350, R352, R370, Table 14.13) -/

/-- The DOE mailbox answers: it is behind the function's configuration space (R451) and the keep's boot has not stopped (R435). -/
def doeOpen (s : State) : Bool := s.hif.link && spaceOpen s && !s.keep.stopped

/-- An answer of the mailbox. -/
def doeAnswer (s : State) (bs : List Byte) : State := if doeOpen s then sendMsg s 2 bs else s

/-- An SPDM 1.2 response: its code, two parameters, and the rest. -/
def spdm (code p1 p2 : Nat) (rest : List Byte) : List Byte := 0x12#8 :: BitVec.ofNat 8 code :: BitVec.ofNat 8 p1 :: BitVec.ofNat 8 p2 :: rest

/-- ERROR with a code and its data. -/
def spdmError (code data : Nat) : List Byte := spdm 0x7F code data []
/-- ERROR InvalidRequest. -/
def badRequest : List Byte := spdmError 1 0

/-- GET_VERSION: version 1.2 alone. -/
def execGetVersion (s : State) : Out :=
  .next (doeAnswer s [0x10#8, 0x04#8, 0#8, 0#8, 0#8, 1#8, 0x00#8, 0x12#8])

/-- GET_CAPABILITIES: CERT_CAP, CHAL_CAP and MEAS_CAP with signature. -/
def execGetCapabilities (s : State) : Out :=
  let f (i : Nat) : Byte := Config.foreignByte 1 i
  .next (doeAnswer s (spdm 0x61 0 0 ([0#8, f 0, 0#8, 0#8] ++ leBytes 4 0x16 ++ (List.range 8).map fun i => f (1 + i))))

/-- NEGOTIATE_ALGORITHMS: SHA-512 for measurements and for messages, ECDSA on P-521. -/
def execNegotiateAlgorithms (s : State) : Out :=
  .next (doeAnswer s (spdm 0x63 0 0 (leBytes 2 36 ++ [1#8, 0#8] ++ leBytes 4 0x08 ++ leBytes 4 0x100 ++ leBytes 4 0x04 ++ List.replicate 16 0#8)))

/-- Public key that a slot's chain ends in: 0 the device identity key, 1 the attestation key. -/
def slotPriv (s : State) (slot : Nat) : Nat := if slot = 0 then s.keep.dik else s.keep.ak
/-- Certificate chain of a slot: to the identity key, and from there to the attestation key (Table 14.13, Table 18.1). -/
def slotChain (s : State) (slot : Nat) : List Byte :=
  let c := Config.identityChain (publicKey s.keep.dik)
  if slot = 0 then c else c ++ s.keep.akCert

/-- GET_DIGESTS: the digests of the chains of slots 0 and 1. -/
def execGetDigests (s : State) : Out :=
  .next (doeAnswer s (spdm 0x01 0 3 (sha512 (slotChain s 0) ++ sha512 (slotChain s 1))))

/-- GET_CERTIFICATE: a portion of a chain. -/
def execGetCertificate (slot off len : Nat) (s : State) : Out :=
  .next <|
    let c := slotChain s slot
    let part := (c.drop off).take len
    if slot < 2 ∧ off < c.length then
      doeAnswer s (spdm 0x02 slot 0 (leBytes 2 part.length ++ leBytes 2 (c.length - off - part.length) ++ part))
    else doeAnswer s badRequest

/-- A response signed with the key of a slot, over the transcript that the requester's nonce and the response stand for. -/
def signed (s : State) (slot : Nat) (nonce body : List Byte) : List Byte :=
  body ++ sigBytes (ecdsaSign (slotPriv s slot) (Config.transcript nonce body))

/-- CHALLENGE: the digest of the chain, a nonce of the device, and a signature. -/
def execChallenge (slot : Nat) (nonce : List Byte) (s : State) : Out :=
  .next <|
    if slot < 2 then
      if doeOpen s then
        let d := drawBytes s 32
        doeAnswer d.2 (signed s slot nonce (spdm 0x03 slot (2 ^ slot) (sha512 (slotChain s slot) ++ d.1 ++ [0#8, 0#8])))
      else s
    else doeAnswer s badRequest

/-- The digest of an index's latest entry, zeros where the log has none (R437). -/
def latest (s : State) (i : Nat) : List Byte :=
  match s.keep.log.reverse.find? (·.1 == i) with
  | some e => beBytes 64 e.2.2.toNat
  | none => List.replicate 64 0#8

/-- The DMTF measurement block of an index: firmware for indices 1 to 3, configuration for the rest. -/
def measBlock (s : State) (i : Nat) : List Byte :=
  [BitVec.ofNat 8 i, 1#8] ++ leBytes 2 67 ++ [if i ≤ 3 then 1#8 else 3#8] ++ leBytes 2 64 ++ latest s i

/-- GET_MEASUREMENTS: index 0 asks how many there are, 0xFF for all. -/
def execGetMeasurements (index slot : Nat) (nonce : List Byte) (s : State) : Out :=
  .next <|
    if slot < 2 ∧ (index ≤ 6 ∨ index = 0xFF) then
      if doeOpen s then
        let which := if index = 0 then [] else if index = 0xFF then [1, 2, 3, 4, 5, 6] else [index]
        let rcd := which.flatMap (measBlock s)
        let d := drawBytes s 32
        doeAnswer d.2 (signed s slot nonce (spdm 0x60 (if index = 0 then 6 else 0) slot
          (BitVec.ofNat 8 which.length :: leBytes 3 rcd.length ++ rcd ++ d.1 ++ [0#8, 0#8])))
      else s
    else doeAnswer s badRequest

/-- SPDM_UNSUPPORTED: ERROR UnsupportedRequest, naming the request. -/
def execSpdmUnsupported (code : Nat) (s : State) : Out := .next (doeAnswer s (spdmError 7 code))

/-- DOE_DISCOVERY: the vendor and type of data object `index` of Table 14.1, and the next index. -/
def execDoeDiscovery (index : Nat) (s : State) : Out :=
  .next <| doeAnswer s <|
    match index with
    | 0 => leBytes 2 1 ++ [0#8, 1#8]
    | 1 => leBytes 2 1 ++ [1#8, 2#8]
    | 2 => leBytes 2 0x1E98 ++ [2#8, 0#8]
    | _ => leBytes 2 0xFFFF ++ [0#8, 0#8]

/-- The one DSMAS entry: the HDM range (R352). -/
def dsmas : List Byte := [0#8, 0#8] ++ leBytes 2 24 ++ leBytes 4 0 ++ leBytes 8 0 ++ leBytes 8 hdmSize

/-- The CDAT header, whose checksum makes the bytes of the table sum to 0. -/
def cdatHeader : List Byte :=
  let h (c : Nat) : List Byte := leBytes 4 40 ++ [1#8, BitVec.ofNat 8 c] ++ leBytes 6 0 ++ leBytes 4 0
  h (256 - ((h 0 ++ dsmas).foldl (fun a b => a + b.toNat) 0) % 256)

/-- CDAT_ACCESS: the header, then the single DSMAS entry. -/
def execCdatAccess (entry : Nat) (s : State) : Out :=
  .next <| doeAnswer s <|
    match entry with
    | 0 => [0#8, 0#8] ++ leBytes 2 1 ++ cdatHeader
    | 1 => [0#8, 0#8] ++ leBytes 2 0xFFFF ++ dsmas
    | _ => [0#8, 0#8] ++ leBytes 2 0xFFFF

/-! The sideband (R371, Table 14.14) -/

/-- The belfry serves the endpoint. -/
def belfryUp (s : State) : Bool := s.keep.stage == 7 && !s.power.off && !s.power.reset

/-- The device's SMBus address (R511). -/
def smbAddr (s : State) : Nat := 0x34 + s.pins.strap

/-- One bit of the CRC-8 that ends an SMBus packet. -/
def crcBit (c : Nat) : Nat := if c.testBit 7 then (2 * c % 256) ^^^ 7 else 2 * c

/-- The packet error code of some bytes. -/
def pec (bs : List Byte) : Byte :=
  BitVec.ofNat 8 (bs.foldl (fun c b => (List.range 8).foldl (fun c _ => crcBit c) (c ^^^ b.toNat)) 0)

/-- Packet k of the n of an MCTP message on SMBus: the partner's address, the command code, the count, the device's address, the MCTP header
and the part of the message that it carries to endpoint `eid` (DSP0236, DSP0237). The partner's address, the own endpoint identifier and the tag
are the bus's. -/
def smbPacket (s : State) (eid : Byte) (n k : Nat) (part : List Byte) : List Byte :=
  let f (i : Nat) : Byte := Config.foreignByte 8 i
  let seq := put (k % 4) 4 + put (b2n (k == 0)) 7 + put (b2n (k + 1 == n)) 6
  let p := [f 0, 0x0F#8, BitVec.ofNat 8 (part.length + 5), BitVec.ofNat 8 (2 * smbAddr s + 1), 1#8, eid, f 2, (f 3 &&& 0x0F#8) ||| BitVec.ofNat 8 seq]
    ++ part
  p ++ [pec p]

/-- A PLDM message leaves over the sideband for an endpoint, 64 bytes of it to a packet. -/
def sendPldm (s : State) (eid : Byte) (bs : List Byte) : State :=
  let body := 1#8 :: bs
  let n := cdiv body.length 64
  (List.range n).foldl (fun t k => sendMsg t 3 (smbPacket s eid n k ((body.drop (64 * k)).take 64))) s

/-- A PLDM response: the instance of its request, type, command, completion code, the rest. -/
def pldm (s : State) (type cmd cc : Nat) (rest : List Byte) : State :=
  if belfryUp s then
    sendPldm s (Config.foreignByte 8 1) ((Config.foreignByte 8 4 &&& 0x1F#8) :: BitVec.ofNat 8 type :: BitVec.ofNat 8 cmd :: BitVec.ofNat 8 cc :: rest)
  else s

/-- GET_TID. -/
def execGetTid (s : State) : Out := .next (pldm s 0 0x02 0 [Config.foreignByte 2 0])
/-- GET_PLDM_VERSION. -/
def execGetPldmVersion (s : State) : Out := .next (pldm s 0 0x03 0 (Config.foreignData 3 0))
/-- GET_PLDM_TYPES: types 0 and 2. -/
def execGetPldmTypes (s : State) : Out := .next (pldm s 0 0x04 0 (leBytes 8 5))

/-- Commands of a type as a bit map. -/
def pldmCmds (type : Nat) : Option Nat :=
  match type with
  | 0 => some (maskOf [0x02, 0x03, 0x04, 0x05])
  | 2 => some (maskOf [0x04, 0x0A, 0x11, 0x21, 0x50, 0x51])
  | _ => none

/-- GET_PLDM_COMMANDS. -/
def execGetPldmCommands (type : Nat) (s : State) : Out :=
  .next (match pldmCmds type with | some m => pldm s 0 0x05 0 (leBytes 32 m) | none => pldm s 0 0x05 0x83 [])

/-- GET_PDR: a record of the repository. -/
def execGetPdr (handle : Nat) (s : State) : Out := .next (pldm s 2 0x51 0 (Config.foreignData 4 handle))
/-- GET_PDR_REPOSITORY_INFO. -/
def execGetPdrRepositoryInfo (s : State) : Out := .next (pldm s 2 0x50 0 (Config.foreignData 5 0))

/-- The highest reading among n sites from the first on, 0x800 when all are blind. -/
def hottest (s : State) (first n : Nat) : Int :=
  match ((List.range n).filterMap fun k => siteReading (siteAt s (first + k))).max? with
  | some r => r
  | none => -2048

/-- Numeric sensors: 0 package power in W, 1 to 4 VIN current of a spire in A, 5 to 7 the highest temperature of compute dies, SRAM dies and
stacks in units of 0.125 °C. -/
def sensorValue (s : State) (k : Nat) : Option Int :=
  if k = 0 then some ((s.lantern.pkgHist.headD 0) / 1000 : Nat)
  else if k ≤ 4 then some ((spireAt s (k - 1)).ma / 1000 : Nat)
  else match k with
  | 5 => some (hottest s 0 624)
  | 6 => some (hottest s 624 8)
  | 7 => some (hottest s 632 8)
  | _ => none

/-- GET_SENSOR_READING: a 32-bit signed reading of an enabled sensor, or INVALID_SENSOR_ID. -/
def execGetSensorReading (sensor : Nat) (s : State) : Out :=
  .next <|
    match sensorValue s sensor with
    | some v => pldm s 2 0x11 0 ([5#8, 0#8] ++ (List.range 4).map (Config.foreignByte 6) ++ leBytes 4 (unsignedN 32 v))
    | none => pldm s 2 0x11 0x80 []

/-- State sensors: 0 the host link (1 up, 0 down), 1 to 8 the states of the job slots (Table 14.9). -/
def stateValue (s : State) (k : Nat) : Option Nat :=
  if k = 0 then some (b2n s.hif.link) else if k ≤ 8 then some (jobOf s (k - 1)).state else none

/-- GET_STATE_SENSOR_READINGS. -/
def execGetStateSensorReadings (sensor : Nat) (s : State) : Out :=
  .next <|
    match stateValue s sensor with
    | some v => pldm s 2 0x21 0 [1#8, 0#8, BitVec.ofNat 8 v, Config.foreignByte 7 0, Config.foreignByte 7 1]
    | none => pldm s 2 0x21 0x80 []

/-- SET_EVENT_RECEIVER. -/
def execSetEventReceiver (addr : Nat) (s : State) : Out :=
  .next (if belfryUp s then pldm { s with hif := { s.hif with evRecv := some addr } } 2 0x04 0 [] else s)

/-- PLATFORM_EVENT_MESSAGE: the oldest event that waits goes to the receiver; SMB_ALERT_N is released after the last. -/
def execPlatformEventMessage (s : State) : Out :=
  .next <|
    match s.hif.evRecv, s.hif.alerts with
    | some a, m :: rest =>
      if belfryUp s then
        sendPldm { s with hif := { s.hif with alerts := rest }, pins := { s.pins with alert := !rest.isEmpty } }
          (BitVec.ofNat 8 a) ((Config.foreignByte 8 5 ||| 0x80#8) :: 2#8 :: 0x0A#8 :: 1#8 :: Config.foreignByte 2 0 :: Config.foreignByte 8 6 :: m)
      else s
    | _, _ => s

end Sys2Proof.Machine
end

