-- ==== Sys2Proof/Machine/Keep.lean ====
section
/-!
DEFINITION. The keep's operations (R432, R438 to R442): signed records, the nonce, and what UPDATE, ENROL, RELEASE and CONFIG do.
-/
namespace Sys2Proof.Machine

/-! Signed records (Table 18.3) -/

/-- An unsigned field of a byte string: n bytes at an offset. -/
def recN (bs : List Byte) (off n : Nat) : Nat := leNat ((bs.drop off).take n)
/-- A byte range of a byte string. -/
def recBytes (bs : List Byte) (off n : Nat) : List Byte := (bs.drop off).take n

/-- TYPE, FLAGS, SVN, BODYLEN. -/
def recType (bs : List Byte) : Nat := recN bs 4 1
def recFlags (bs : List Byte) : Nat := recN bs 5 1
def recSvn (bs : List Byte) : Nat := recN bs 8 4
def recBodyLen (bs : List Byte) : Nat := recN bs 12 4
/-- The body. -/
def recBody (bs : List Byte) : List Byte := recBytes bs 0x90 (recBodyLen bs)
/-- The bytes the signature covers. -/
def recSigned (bs : List Byte) : List Byte := bs.take (0x90 + recBodyLen bs)

/-- MAGIC and FORMAT are correct, TYPE is as wanted, and the record's parts add up to its length; `vendor`: a certificate follows the body. -/
def recForm (bs : List Byte) (vendor : Bool) (types : List Nat) : Bool :=
  let n := 0x90 + recBodyLen bs
  let cert := if vendor then 4 + recN bs n 4 else 0
  recN bs 0 4 == 0x5A565452 && recN bs 6 2 == 1 && types.contains (recType bs) && bs.length == n + cert + 132

/-- The certificate chain of a vendor record. -/
def recCert (bs : List Byte) : List Byte := let n := 0x90 + recBodyLen bs; recBytes bs (n + 4) (recN bs n 4)

/-- A record's signature under a key, with SIGNER naming it: 0 when both hold, else the CODE of Table 18.7. -/
def recSigCode (bs : List Byte) (key : Option (BitVec 1056)) : Nat :=
  let sig := bs.drop (bs.length - 132)
  match key with
  | none => 2
  | some k =>
    if recBytes bs 0x10 64 != sha512 (keyBytes k) then 2
    else if ecdsaVerify k (recSigned bs) (beNat (sig.take 66)) (beNat (sig.drop 66)) then 0 else 1

/-- DEVBIND: zero for an image, DEVID for the other types that an operation takes. -/
def recBound (s : State) (bs : List Byte) : Bool :=
  let d := recBytes bs 0x50 64
  if recType bs ≤ 3 then d.all (· == 0#8) else d == beBytes 64 s.keep.devid.toNat

/-- The first CODE that is not 0. -/
def firstCode (l : List Nat) : Nat := (l.find? (· != 0)).getD 0
/-- A CODE when a condition fails. -/
def codeUnless (ok : Bool) (c : Nat) : Nat := if ok then 0 else c

/-! Slots (Table 18.2) -/

/-- Size of a slot of image type t (0 keep, 1 belfry, 2 lantern), and the first offset of its region. -/
def slotSize (t : Nat) : Nat := match t with | 0 => 0x100000 | 1 => 0x800000 | _ => 0x200000
def slotBase (t : Nat) : Nat := match t with | 0 => 0x10000 | 1 => 0x210000 | _ => 0x1210000

/-- What a slot holds. -/
def imageAt (s : State) (t slot : Nat) : Stored := (s.keep.images.getD t []).getD slot .erased

/-- SVN, FLOOR and digest of an image. -/
def Stored.svn : Stored → Nat | .erased => 0 | .factory v _ _ => v | .record bs => recSvn bs
def Stored.floor : Stored → Bool | .erased => false | .factory _ f _ => f | .record bs => (recFlags bs).testBit 0
def Stored.digest : Stored → BitVec 512 | .erased => 0#512 | .factory _ _ d => d | .record bs => Machine.digest (recSigned bs)

/-- Image type t: the first check of R432 that a record fails, or its SVN against the floor, as a CODE; 0 where it is valid. -/
def imageCode (s : State) (t : Nat) (bs : List Byte) : Nat :=
  firstCode [codeUnless (recForm bs true [t + 1] && decide (bs.length ≤ slotSize t)) 8, recSigCode bs (Config.vendorKey (recCert bs)),
             codeUnless (recBound s bs) 3, codeUnless (decide (s.keep.floors.getD t 0 ≤ recSvn bs)) 4]

/-- Why an image of type t in a slot is rejected: a CODE, 0 where it is taken. An image that the device was made with is valid (DESIGN CHOICE,
assumption 8). -/
def Stored.why (s : State) (t : Nat) : Stored → Nat
  | .erased => 8
  | .factory v _ _ => codeUnless (decide (s.keep.floors.getD t 0 ≤ v)) 4
  | .record bs => imageCode s t bs

/-- Change the keep. -/
def modKeep (s : State) (f : Keep → Keep) : State := { s with keep := f s.keep }

/-- A fresh nonce (R440); `ok`: a reservation of the counter that it needs verifies. -/
def freshNonce (s : State) (ok : Bool) : State :=
  let c := takeCounter s ok
  modKeep c.2 fun k => { k with nonce := BitVec.ofNat 256 (beNat ((hmac512 (beBytes 64 k.nk.toNat) (leBytes 8 c.1)).take 32)) }

/-! Operations (R441, Table 18.5) -/

/-- An operation ends: done, or failed with a CODE. -/
def endOp (s : State) (code : Nat) : State :=
  modKeep s fun k => { k with opState := if code = 0 then 2 else 3, opCode := code, op := 0 }

/-- An operation is refused: nothing changes, and E-0x805. -/
def refuseOp (s : State) (code : Nat) : State := raiseDev (endOp s code) (ev 0x805 0 0)

/-- A flash write that does not verify: E-0x807 naming the region and the offset. -/
def flashFailed (s : State) (region off : Nat) : State := raiseDev (endOp s 9) (ev 0x807 region off)

/-- The keep is at work on operation `op` (Table 18.7). -/
def opRuns (s : State) (op : Nat) : Bool := s.keep.opState == 1 && s.keep.op == op && spaceOpen s && !s.keep.stopped

/-- The record at KEP_OP_ADDR, read by the rules of a COPY; a read that the host link cannot serve or that returns poison gives no record. -/
def opRecord (s : State) : List Byte × State :=
  let a := st s 0x20010
  if inHost a && !s.hif.link then ([], s)
  else
    let r := readLines 8 a (cdiv s.keep.opLen 64) s
    (if r.1.2 then [] else r.1.1.take s.keep.opLen, r.2)

/-- UPDATE: the CODE of the record. -/
def updateCode (s : State) (bs : List Byte) : Nat :=
  if recType bs = 1 ∨ recType bs = 2 ∨ recType bs = 3 then imageCode s (recType bs - 1) bs else 8

/-- What a flash write that does not verify leaves of n bytes: unspecified ones (assumption 3). -/
def badWrite (s : State) (n : Nat) : Stored × State := let d := drawBytes s n; (.record d.1, d.2)

/-- KEEP_UPDATE: the slot that did not boot is written, verified and marked preferred in the directory; `flashOk`, `dirOk`: the two writes
verify. -/
def execKeepUpdate (flashOk : Bool) (s : State) (dirOk : Bool := true) : Out :=
  .next <|
    if opRuns s 1 then
      let r := opRecord s
      let bs := r.1
      let s := r.2
      let c := updateCode s bs
      if c ≠ 0 then refuseOp s c
      else
        let t := recType bs - 1
        let slot := 1 - s.keep.slots.getD t 0
        let w := if flashOk then (.record bs, s) else badWrite s bs.length
        let s := modKeep w.2 fun k => { k with images := modAt k.images t fun l => modAt l slot fun _ => w.1 }
        if !flashOk then flashFailed s (slotBase t) (slotBase t + slot * slotSize t)
        else if dirOk then endOp (modKeep s fun k => { k with preferred := modAt k.preferred t fun _ => slot }) 0
        else flashFailed s 0 (Config.foreignByte 9 t).toNat
    else s

/-! The state sectors (R430) -/

/-- The valid sector with the higher sequence, and its number. -/
def lastSector (k : Keep) : Option (Nat × StateSector) :=
  match k.sectors.getD 0 none, k.sectors.getD 1 none with
  | some a, some b => if a.seq < b.seq then some (1, b) else some (0, a)
  | some a, none => some (0, a)
  | none, some b => some (1, b)
  | none, none => none

/-- The sector that the next change is written to, and its first offset. -/
def spareNo (k : Keep) : Nat := match lastSector k with | some (i, _) => 1 - i | none => 0
def spareSector (s : State) : Nat := 0x1720000 + 0x10000 * spareNo s.keep

/-- A change of floors, enrolment or configuration floor: the other sector takes it with the next sequence, and once it verifies the older is
erased. A write that does not verify leaves that sector invalid and the values in use as they were. -/
def stateWrite (s : State) (ok : Bool) (f : Keep → Keep) : State :=
  modKeep s fun k =>
    let i := spareNo k
    let n := match lastSector k with | some (_, x) => x.seq + 1 | none => 0
    let y := f k
    if ok then
      { y with sectors := (List.range 2).map fun j =>
          if j = i then some { seq := n % 2 ^ 32, floors := y.floors, operator := y.operator, cfgFloor := y.cfgFloor } else none }
    else { k with sectors := modAt k.sectors i fun _ => none }

/-- An operation ends with a change of state: done, or failed with the sector's write. -/
def endState (s : State) (ok : Bool) (f : Keep → Keep) : State :=
  if ok then endOp (stateWrite s true f) 0 else flashFailed (stateWrite s false f) 0x1720000 (spareSector s)

/-- ENROL: the CODE of the record. -/
def enrolCode (s : State) (bs : List Byte) : Nat :=
  let b := recBody bs
  firstCode [codeUnless (recForm bs false [5] && recBodyLen bs == 164) 8, codeUnless s.keep.operator.isNone 7,
             recSigCode bs (some (BitVec.ofNat 1056 (beNat (b.take 132)))), codeUnless (recBound s bs) 3,
             codeUnless (recBytes b 132 32 == beBytes 32 s.keep.nonce.toNat) 5]

/-- KEEP_ENROL: the operator's key is stored and the configuration floor becomes 0; a fresh nonce is made either way. `flashOk`, `ctrOk`: the
writes of the state sector and of the counter ring verify. -/
def execKeepEnrol (flashOk : Bool) (s : State) (ctrOk : Bool := true) : Out :=
  .next <|
    if opRuns s 2 then
      let r := opRecord s
      let bs := r.1
      let s := r.2
      let c := enrolCode s bs
      freshNonce
        (if c ≠ 0 then refuseOp s c
         else endState s flashOk fun k => { k with operator := some (BitVec.ofNat 1056 (beNat ((recBody bs).take 132))), cfgFloor := 0 }) ctrOk
    else s

/-- RELEASE: the CODE of the record; one that Grelor signs needs no enrolment (Table 18.5). -/
def releaseCode (s : State) (bs : List Byte) : Nat :=
  let own := recType bs == 6
  firstCode [codeUnless (recForm bs (!own) [6, 7] && recBodyLen bs == 32) 8, codeUnless (!own || s.keep.operator.isSome) 7,
             recSigCode bs (if own then s.keep.operator else Config.vendorKey (recCert bs)), codeUnless (recBound s bs) 3,
             codeUnless (recBody bs == beBytes 32 s.keep.nonce.toNat) 5]

/-- KEEP_RELEASE: the enrolment is removed and both configuration slots are erased; a fresh nonce is made either way. -/
def execKeepRelease (flashOk : Bool) (s : State) (ctrOk : Bool := true) : Out :=
  .next <|
    if opRuns s 3 then
      let r := opRecord s
      let s := r.2
      let c := releaseCode s r.1
      freshNonce
        (if c ≠ 0 then refuseOp s c
         else endState s flashOk fun k => { k with operator := none, cfg := if flashOk then [.erased, .erased] else k.cfg }) ctrOk
    else s

/-- Entries of a configuration record (R439). -/
def cfgEntries (b : List Byte) : List (Nat × Nat) := (List.range (recN b 8 4)).map fun i => (recN b (16 + 16 * i) 4, recN b (24 + 16 * i) 8)

/-- The body's parts: SEQ, count, zeros, and as many entries, each with its zeros. -/
def cfgForm (b : List Byte) : Bool :=
  decide (16 ≤ b.length) && b.length == 16 + 16 * recN b 8 4 && recN b 12 4 == 0

/-- Every entry names the slot of ST fields outside the KEP_ block, and sets no other bit of it (R439, R501). -/
def cfgAllowed (b : List Byte) : Bool :=
  (cfgEntries b).all (fun e => !(stFields e.1).isEmpty && !(decide (0x20000 ≤ e.1) && decide (e.1 < 0x30000)) &&
      e.2 &&& stagedMask e.1 8 == e.2) &&
    (List.range (recN b 8 4)).all fun i => recN b (20 + 16 * i) 4 == 0

/-- The checks of a configuration record (R432, R439), as a CODE. -/
def cfgCode (s : State) (bs : List Byte) : Nat :=
  let b := recBody bs
  firstCode [codeUnless (recForm bs false [8] && cfgForm b && decide (bs.length ≤ 0x40000)) 8, codeUnless s.keep.operator.isSome 7,
             recSigCode bs s.keep.operator, codeUnless (recBound s bs) 3, codeUnless (cfgAllowed b) 10]

/-- CONFIG: the CODE of the record. -/
def configCode (s : State) (bs : List Byte) : Nat :=
  firstCode [cfgCode s bs, codeUnless (decide (s.keep.cfgFloor < recN (recBody bs) 0 8)) 6]

/-- The valid configuration record that a slot holds. -/
def cfgOf (s : State) (i : Nat) : Option CfgRec :=
  match s.keep.cfg.getD i .erased with
  | .record bs =>
    if cfgCode s bs = 0 then some { seq := recN (recBody bs) 0 8, entries := cfgEntries (recBody bs), digest := digest (recSigned bs) } else none
  | _ => none

/-- The slot with the lower SEQ; a slot without a valid record counts lowest, slot A of equals. -/
def cfgSlot (s : State) : Nat :=
  let v (i : Nat) : Nat := match cfgOf s i with | some c => c.seq + 1 | none => 0
  if v 1 < v 0 then 1 else 0

/-- KEEP_CONFIG: the record is written and verified, then the floor rises to its SEQ; `flashOk`, `floorOk`: the two writes verify. -/
def execKeepConfig (flashOk : Bool) (s : State) (floorOk : Bool := true) : Out :=
  .next <|
    if opRuns s 4 then
      let r := opRecord s
      let bs := r.1
      let s := r.2
      let c := configCode s bs
      if c ≠ 0 then refuseOp s c
      else
        let i := cfgSlot s
        let w := if flashOk then (.record bs, s) else badWrite s bs.length
        let s := modKeep w.2 fun k => { k with cfg := modAt k.cfg i fun _ => w.1 }
        if flashOk then endState s floorOk fun k => { k with cfgFloor := recN (recBody bs) 0 8 }
        else flashFailed s 0x1740000 (0x1740000 + i * 0x40000)
    else s

end Sys2Proof.Machine
end

