-- ==== Sys2Proof/Machine/PowerUp.lean ====
section
/-!
DEFINITION. Reset, power-up and the sleep states (R424, R428 to R436, R444 to R454, R461 to R465).
-/
namespace Sys2Proof.Machine

/-- Change the power state. -/
def modPower (s : State) (f : Power → Power) : State := { s with power := f s.power }

/-- A command's effect where it is a step of a larger one. -/
def orStay (o : Out) (s : State) : State := match o with | .next t => t | _ => s

/-! What a reset and a deep sleep leave (R444, R445, R462) -/

/-- The keep's own memory is empty; the flash keeps what it holds (R436). -/
def Keep.cold (k : Keep) : Keep :=
  { k with next := 0, dik := 0, ak := 0, akCert := [], nk := 0#512, devid := 0#512, nonce := 0#256, stage := 0, stopped := false, slots := [0, 0, 0], ksvn := 0,
           cfgApplied := false, log := [], opState := 0, opCode := 0, op := 0, opLen := 0 }

/-- The device with everything lost but what the always-on domain, the flash and the outside hold; after a deep sleep also HBM, BEL_COUNT and
BEL_REFTIME. -/
def cold (deep : Bool) (s : State) : State :=
  let z := State.reset
  { z with
      pending := s.pending,
      bell := { z.bell with count := if deep then s.power.savedBell else 0, refTime := if deep then s.bell.refTime else 0 },
      hbm := if deep then { z.hbm with mem := s.hbm.mem, poison := s.hbm.poison, errs := s.hbm.errs } else z.hbm,
      hif := { z.hif with perst := s.hif.perst, host := s.hif.host, hostPoison := s.hif.hostPoison, out := s.hif.out },
      thermal := { z.thermal with trip := s.thermal.trip, tripped := s.thermal.tripped, tripDue := s.thermal.tripDue, vinTrip := s.thermal.vinTrip,
                                  vinOff := s.thermal.vinOff, comparators := s.thermal.comparators },
      keep := s.keep.cold,
      power := { z.power with reset := s.power.reset, vinBad := s.power.vinBad, slept := s.power.slept, vaon := s.power.vaon },
      pins := { s.pins with alert := false },
      images := s.images, free := s.free }

/-- RESET_ASSERT: a low level of 10 µs or more; `fires`: the sites whose comparator or stack output is active during it. Transfers under way leave
unspecified bytes in the host; a trip's pin and a window trip's are released when their cause is over (R424, R512, Table 22.8). -/
def execResetAssert (us : Nat) (s : State) (fires : List Nat := []) : Out :=
  .next <|
    if us < 10 then s
    else
      let s := cold false (s.hif.xfers.foldl abandonXfer s)
      let hot := !fires.isEmpty
      let s := { s with power := { s.power with reset := true, vaon := true },
                        thermal := { s.thermal with tripped := s.thermal.tripped && hot, comparators := fires },
                        pins := { s.pins with thermtrip := s.pins.thermtrip && hot } }
      if s.power.vinBad then s else { s with thermal := { s.thermal with vinOff := false }, pins := { s.pins with vfault := false } }

/-- VAON_REMOVAL: the always-on domain ends; its records, its counter and the straps are lost, and every CMOS output floats. -/
def execVaonRemoval (s : State) : Out :=
  .next <|
    let t := cold false (s.hif.xfers.foldl abandonXfer s)
    { t with thermal := State.reset.thermal, pins := { State.reset.pins with trstHigh := s.pins.trstHigh, ser := s.pins.ser },
             power := { State.reset.power with vaon := false } }

/-- WAKE_N low for `us` µs (R447). -/
def execWakeN (us : Nat) (s : State) : Out :=
  .next (if us < 1 ∨ s.power.sleep = 0 then s else modPower s fun w => { w with wakeDue := true })

/-! Boot (R434, Table 18.4) -/

/-- The boot stops after a stage, in a power-up step, with an event. -/
def stopBoot (s : State) (stage step : Nat) (e : Ev) : State :=
  modPower (modKeep (raiseDev s e) fun k => { k with stage := stage, stopped := true }) fun w => { w with step := step }

/-- An offset in a region of the flash that the manual does not fix (assumption 3). -/
def someOffset (s : State) (base size : Nat) : Nat × State :=
  let d := drawBytes s 4
  (base + leNat d.1 % size, d.2)

/-- The slots of image type t in the order they are tried, without those whose read fails; the slot taken. -/
def tryImage (t : Nat) (bad : List Nat) : List Nat → State → Option Nat × State
  | [], s => (none, s)
  | slot :: rest, s =>
    let why := if bad.contains slot then 1 else (imageAt s t slot).why s t
    if why = 0 then (some slot, if slot = s.keep.preferred.getD t 0 then s else raiseDev s (ev 0x802 (t + 1 + put slot 8) 0))
    else tryImage t bad rest (raiseDev s (ev 0x801 (t + 1 + put slot 8 + put why 12) 0))

/-- Image type t is chosen: the preferred slot first (R434). -/
def bootImage (s : State) (t : Nat) (bad : List Nat) : Option Nat × State :=
  let p := s.keep.preferred.getD t 0
  tryImage t bad [p, 1 - p] s

/-- An image is taken: its slot is recorded and its digest logged. -/
def takeImage (s : State) (t slot : Nat) : State :=
  measure (modKeep s fun k => { k with slots := modAt k.slots t fun _ => slot }) (t + 1) (imageAt s t slot).digest

/-- A valid test record: signed, with vf of ratios 1 to 28 at most 660 mV (R433). -/
def testOk (r : TestRec) : Bool :=
  r.valid && (r.vf.take 28).all (decide <| · ≤ 660) && r.vfPos.all fun x => (x.2.take 28).all (decide <| · ≤ 660)

/-- The reads that fail at a boot stage, by which read of the stage it is. -/
def failsAt (e : PowerUp) (n : Nat) : List Nat := (e.readFail.filter (·.1 == n)).map (·.2)

/-- First offset and size of the regions that stage 3 reads: state sectors, counter ring, margin log (Table 18.2). -/
def stateRegion (k : Nat) : Nat × Nat := match k with | 0 => (0x1720000, 0x20000) | 1 => (ringBase, 0x100000) | _ => (0x18C0000, 0x40000)

/-- The largest valid bound in the counter ring, 1 if it holds none, and the place after its reservation (R438). -/
def ringScan (ring : List (List (Nat × Nat))) : Nat × Nat :=
  ring.zipIdx.foldl (fun m x => x.1.zipIdx.foldl (fun m y =>
    if resvValid y.1 && decide (m.1 < y.1.1) then (y.1.1, (4096 * x.2 + y.2 + 1) % 65536) else m) m) (1, 0)

/-- The reads of stage 3 are in use: the values of the state sector, the bound of the ring. -/
def readState (x : StateSector) (k : Keep) : Keep :=
  let r := ringScan k.ring
  { k with floors := x.floors, operator := x.operator, cfgFloor := x.cfgFloor, bound := r.1, next := r.1, resv := r.2 }

/-- The attestation key's certificate, which the identity key signs (R426, Table 18.4). -/
def issueAk (k : Keep) : Keep :=
  let tbs := Config.akTbs (publicKey k.ak)
  { k with akCert := tbs ++ sigBytes (ecdsaSign k.dik tbs) }

/-- Stage 3: the state sectors, the counter ring and the margin log are read, the attestation key's certificate is issued and a nonce made;
false where the boot stopped (R431). -/
def bootState (e : PowerUp) (s : State) : Bool × State :=
  match (failsAt e 3).head?, lastSector s.keep with
  | none, some x => (true, freshNonce (modKeep s fun k => { issueAk (readState x.2 k) with stage := 3 }) (!e.writeFail.contains 3))
  | f, _ =>
    let r := stateRegion (f.getD 0)
    let d := someOffset s r.1 r.2
    (false, stopBoot d.2 2 3 (ev 0x809 r.1 d.1))

/-- Stages 1 to 4, which are step 4 of the power-up; false where the boot stopped. -/
def bootKeep (e : PowerUp) (s : State) : Bool × State :=
  if !e.pufOk then (false, stopBoot s 0 3 (ev 0x803 0 0))
  else
    let s := modKeep s fun k => { k with dik := dikOf, nk := BitVec.ofNat 512 (beNat nkOf), devid := digest (keyBytes (publicKey dikOf)), stage := 1 }
    let r := bootImage s 0 (failsAt e 2)
    match r.1 with
    | none => (false, stopBoot r.2 1 3 (ev 0x808 0 0))
    | some slot =>
      let v := (imageAt r.2 0 slot).svn
      let b := bootState e (modKeep (takeImage r.2 0 slot) fun k => { k with ksvn := v, ak := akOf v, stage := 2 })
      let s := b.2
      if !b.1 then b
      else if (failsAt e 4) ≠ [] ∨ !testOk s.keep.test then (false, stopBoot s 3 3 (ev 0x804 0 0))
      else (true, measure (modKeep { s with map := s.keep.test.map } fun k => { k with stage := 4 }) 4 s.keep.test.digest)

/-- Stage 5: the lantern image, then the belfry image; reads 0 and 1 are the lantern's slots, 2 and 3 the belfry's. -/
def bootImages (e : PowerUp) (s : State) : Bool × State :=
  let bad := failsAt e 5
  let r := bootImage s 2 bad
  match r.1 with
  | none => (false, stopBoot r.2 4 4 (ev 0x808 0 0))
  | some slot =>
    let q := bootImage (takeImage r.2 2 slot) 1 ((bad.filter (2 ≤ ·)).map (· - 2))
    match q.1 with
    | none => (false, stopBoot q.2 4 4 (ev 0x808 0 0))
    | some slot => (true, modKeep (takeImage q.2 1 slot) fun k => { k with stage := 5 })

/-- The configuration record of stage 6: the valid one with the higher SEQ, not below the floor (R439). -/
def chooseCfg (s : State) (bad : List Nat) : Option CfgRec :=
  let ok (i : Nat) : Option CfgRec := if bad.contains i then none else (cfgOf s i).filter fun c => decide (s.keep.cfgFloor ≤ c.seq)
  match ok 0, ok 1 with
  | some a, some b => if a.seq < b.seq then some b else some a
  | a, b => a <|> b

/-- The floors rise when all three images come from their preferred slots (R434). -/
def raiseFloors (e : PowerUp) (s : State) : State :=
  let up (t : Nat) : Nat :=
    let im := imageAt s t (s.keep.slots.getD t 0)
    if im.floor then im.svn else s.keep.floors.getD t 0
  let fl := (List.range 3).map up
  if s.keep.slots ≠ s.keep.preferred ∨ fl = s.keep.floors then s
  else if e.writeFail.contains 7 then
    raiseDev (stateWrite s false fun k => { k with floors := fl }) (ev 0x807 0x1720000 (spareSector s))
  else stateWrite s true fun k => { k with floors := fl }

/-- Stages 6 and 7, which are step 6 of the power-up: the record chosen. -/
def bootRelease (e : PowerUp) (s : State) : Option CfgRec × State :=
  let c := chooseCfg s (failsAt e 6)
  let s := if c.isNone then raiseDev s (ev 0x806 0 0) else s
  (c, raiseFloors e (modKeep s fun k => { k with stage := 7 }))

/-! Steps 7 to 13 (R450 to R454) -/

/-- Step 7: margins from the log up to its first blank or partly written entry (R431), then the self-tests of phases and converters. -/
def powerPositions (e : PowerUp) (s : State) : State :=
  let s := (s.keep.marginLog.takeWhile (·.isSome)).foldl (fun s m =>
    match m with | some m => modPw s m.pos fun w => { w with margin := m.new } | none => s) s
  let s := e.phaseFail.foldl (fun s x => orStay (execPhaseFail x.1 x.2 s) s) s
  e.sramFail.foldl (fun s p => orStay (execVsramConverterFail p s) s) s

/-- The position a failed crossing leads into or out of: its tile, or its bell. -/
def xingPos (i : Nat) : Option Nat :=
  let j := i % 2048
  if j < 312 then some (156 * (i / 2048) + j / 2)
  else if 956 ≤ j ∧ j < 1112 then some (156 * (i / 2048) + (j - 956))
  else none

/-- The raw delay of a crossing as calibration at step 9 finds it (R43, R44, R452); a port's is measured when the port trains. -/
def xingFail (s : State) (i raw : Nat) : State :=
  match xingKind s i with
  | none => s
  | some (k, l) =>
    if k = 3 then s
    else
      let s := { s with xing := insKey i raw s.xing }
      if raw ≤ l then s else
      match xingPos i with
      | some p =>
        let s := raiseAt s p (ev 0xB06 i 0)
        if (spAt s p).service.oos then s
        else modSp s p fun sp => { sp with service := { oos := true, cause := 4, stream := 7 } }
      | none => modPower (raiseDev s (ev 0xB06 i 0)) fun w => { w with noJob := true }

/-- Step 9: every position that is not dark is woken; crossings and ring oscillators are measured, and the positions return to retention. -/
def calibrate (e : PowerUp) (s : State) : State :=
  let s := e.ageing.foldl (fun s x => if (pwAt s x.1).dark then s else measureAge x.1 x.2.1 x.2.2 (!e.writeFail.contains 9) s) s
  let s := e.xing.foldl (fun s x => xingFail s x.1 x.2) s
  modLan s fun l => { l with pos := l.pos.map fun w => if w.dark then w else gate w }

/-- A number whose position is not healthy moves to the lowest healthy spare of its spire, or is unplaced (R453). -/
def placeNumber (s : State) (n : Nat) : State :=
  if healthy s (posOf s n) then s
  else match spareOf s (n / 144) with
    | some p => moveNumber s n p
    | none => postEv (moveNumber s n 1000) (ev 0xA30 n 0) none (some n) none

/-- Step 10: the spare map is placed and measured. -/
def placeMap (s : State) : State :=
  let s := (List.range 576).foldl placeNumber s
  measureMap { s with repair := State.reset.repair }

/-- Step 11: stacks that cannot be initialised bring the no-job state; the enabled ports train. -/
def trainAll (e : PowerUp) (s : State) : State :=
  let s := e.hbmFail.foldl (fun s h => if h < 8 then modPower (raiseDev s (ev 0x313 h 0)) fun w => { w with noJob := true } else s) s
  (List.range 6).foldl (fun s q => if plyCtrl s q 0 0 = 1 then startTraining true s q else s) s

/-- Step 13: the entries of the configuration record are staged. -/
def stageCfg (c : CfgRec) : List Staged := c.entries.foldl (fun l x => stageWrite x.1 8 x.2 l) []

/-- The record's commit is decided at the first bell (R461), then its measurement is made (R436). -/
def commitCfg (c : Option CfgRec) (s : State) : State :=
  match c with
  | none => measure s 5 0#512
  | some c =>
    let l := stageCfg c
    match refusal s l with
    | none => modKeep (noteCommit (applySnap (measure s 5 c.digest) l) 0x900 1 0 0) fun k => { k with cfgApplied := true }
    | some (r, o) =>
      measure (raiseDev { s with regs := { s.regs with result := r, tag := 0, field := o } } (ev 0x806 0 0)) 5 0#512

/-! The first bell -/

/-- What the always-on domain recorded is posted after the power-up (R391, R423, R463). -/
def postRecords (s : State) : State :=
  let s := s.thermal.vinTrip.foldl (fun s i => raiseDev s (ev 0x608 i 0)) { s with thermal := { s.thermal with vinTrip := [] } }
  let s := match s.thermal.trip, s.thermal.tripDue with
    | some (c, n, r), true => raiseDev { s with thermal := { s.thermal with tripDue := false } } (ev 0x710 (c + put n 2) r)
    | _, _ => s
  match s.power.slept with
  | some m => raiseDev (modPower s fun w => { w with slept := none }) (ev 0x010 m 0)
  | none => s

/-- Step 14: the first bell fires rc after RESET_N or the wake. Over a deep sleep the always-on counter adds 21 rc every second period of the
board's reference clock (R444). Like every bell it finds a reading of the lid thermistors (R416). -/
def firstBell (deep : Bool) (e : PowerUp) (c : Option CfgRec) (s : State) : State :=
  let rc := e.rc
  let t := s.bell.refTime + (if deep then 21 * (e.slept / 2) else 0) + rc
  let s := { s with bell := { s.bell with count := s.bell.count + 1, refTime := t, lastBell := t, lastRet := t, lastBy := 1000, fired := true },
                    power := { s.power with step := 14, timeUs := rc / 1050 } }
  let s := postRecords s
  let s := if deep then raiseDev s (ev 0x011 0 0) else s
  readCoolant (startCycle 0 (commitCfg c (raiseDev s (ev 0x012 (rc / 1050) 0)))) e.inlet e.outlet

/-! The sequence (R449) -/

/-- The steps after step 1. -/
def powerSeq (deep : Bool) (e : PowerUp) (s : State) : State :=
  let s := cold deep s
  let s := modPower s fun w => { w with reset := false, deepWake := deep, vinBad := false }
  let s := e.edgeFail.foldl (fun s i => orStay (execDieEdgePhaseFail i s) s) s
  match e.pllFail with
  | some i =>
    modPower (raiseDev { s with bell := { s.bell with held := true } } (ev 0xB07 i 0)) fun w => { w with step := 2 }
  | none =>
    let k := bootKeep e s
    if !k.1 then k.2
    else
      let b := bootImages e k.2
      if !b.1 then b.2
      else
        let c := bootRelease e b.2
        firstBell deep e c.1 (trainAll e (placeMap (calibrate e (powerPositions e c.2))))

/-- A restricted TAP instruction (Table 22.9). -/
def restricted (tap : Nat) : Bool := decide (3 ≤ tap) && decide (tap ≤ 7)

/-- A rising edge of RESET_N returns the TAP to BYPASS (R514). -/
def tapRelease (s : State) : State := if restricted s.pins.tap then { s with pins := { s.pins with tap := 0xFF } } else s

/-- A rising edge of RESET_N samples the straps; the first since VAON came holds them (R511). -/
def takeStraps (strap : Nat) (s : State) : State := { s with pins := { s.pins with strap := strap % 4, strapped := true } }

/-- POWER_UP: the rising edge of RESET_N, or the wake that ends a deep sleep. A device that a trip keeps off stays off. -/
def execPowerUp (e : PowerUp) (s : State) : Out :=
  .next <|
    let deep := s.power.sleep == 2 && s.power.wakeDue && !s.power.reset
    if s.power.reset || deep then
      let s := if deep then s else modPower (tapRelease (takeStraps e.strap s)) fun w => { w with reset := false, vaon := true }
      if s.thermal.tripped || s.thermal.vinOff then modPower s fun w => { w with off := true, wakeDue := false }
      else if e.vinOk then powerSeq deep e s
      else modPower s fun w => { w with waiting := some e, vinBad := true, deepWake := deep }
    else s

/-- VIN_WITHIN_RANGE: a power-up that waits at step 1 goes on (R450). -/
def execVinWithinRange (s : State) : Out :=
  .next <|
    let s := modPower s fun w => { w with vinBad := false }
    match s.power.waiting with
    | some e => powerSeq s.power.deepWake e s
    | none => s

/-! Sleep (R462 to R464) -/

/-- BEL_SLEEP.MODE in effect. -/
def sleepMode (s : State) : Nat := stf s 0x50 1 0

/-- A commit of MODE has been applied at the last bell of a device that runs. -/
def sleepDue (s : State) (mode : Nat) : Bool :=
  s.bell.fired && !s.power.off && sleepMode s == mode && s.power.modeAt == some s.bell.count

/-- SLEEP_RUN: the commit of MODE 0 is a wake cause of the light state. -/
def execSleepRun (s : State) : Out := .next (if sleepDue s 0 then wakeLight s else s)

/-- SLEEP_LIGHT: HBM enters self-refresh and every position is gated. -/
def execSleepLight (s : State) : Out :=
  .next <|
    if sleepDue s 1 && s.power.sleep == 0 then
      let s := modPower s fun w => { w with sleep := 1 }
      let s := { s with hbm := { s.hbm with selfRefresh := true } }
      raiseDev (modLan s fun l => { l with pos := l.pos.map fun w => if w.dark then w else gate w })
        (ev 0x010 1 0)
    else s

/-- Every port that is up sends DOWN for 64 frames (R463). -/
def downPorts (s : State) : State :=
  { s with ports := s.ports.map fun x =>
      if x.state = 2 then (List.range 64).foldl (fun x _ => sendFrame x) { x with downOut := 64 } else x }

/-- SLEEP_DEEP: ports and host link go down without an event, BEL_COUNT is saved and the regulators switch off; E-0x010 is posted after the
next power-up. -/
def execSleepDeep (s : State) : Out :=
  .next <|
    if sleepDue s 2 then
      let s := powerOff (downPorts s)
      { s with hbm := { s.hbm with selfRefresh := true },
               power := { s.power with sleep := 2, savedBell := s.bell.count, slept := some 2 } }
    else s

end Sys2Proof.Machine
end

