-- ==== Sys2Proof/Machine/Pins.lean ====
section
/-!
DEFINITION. Boundary scan (R513 to R515): the TAP's instruction, the boundary register, and what goes out at TDO.
-/
namespace Sys2Proof.Machine

/-- The TAP runs from VAON whenever TRST_N is high (R514). -/
def tapRuns (s : State) : Bool := s.power.vaon && s.pins.trstHigh

/-- An instruction of Table 22.9 selects itself, a restricted one only while RESET_N is low. -/
def tapSelect (code : Nat) (s : State) : State :=
  if tapRuns s then
    { s with pins := { s.pins with tap := if restricted code && !s.power.reset then 0xFF else code } }
  else s

/-- The EXTEST instructions and CLAMP put the boundary register on the pins. -/
def cellsDrive (s : State) : Bool := s.pins.tap == 3 || s.pins.tap == 4 || s.pins.tap == 5 || s.pins.tap == 7

/-- A boundary cell drives its pin low. The 1149.6 instructions drive a pin that has no 1149.6 cell as EXTEST does (assumption 85). -/
def cellLow (s : State) (i : Nat) : Bool := cellsDrive s && s.pins.cells.getD i false

/-- Cell i is that of a transmit pair of a ply port or of the CXL port (Table 22.10). -/
def txPair (i : Nat) : Bool := decide (i < 102) || (decide (204 ≤ i) && decide (i < 220))

/-- The level that the cell of a transmit pair drives, after a pulse or a train has passed; none while no cell drives or VSER or VSERH is out of
range, which the 1149.6 cells need (R514). -/
def pairDrive (s : State) (i : Nat) : Option Bool :=
  if txPair i && cellsDrive s && s.power.vaon && s.pins.ser then some (s.pins.cells.getD i false) else none

/-- The three trip and alert pins are low: a trip drives its pin whatever its cell holds (R513); SMB_ALERT_N is the cell's in EXTEST and CLAMP,
and floats in HIGHZ. Without VAON every output floats (R508). -/
def thermtripLow (s : State) : Bool := s.power.vaon && (s.pins.thermtrip || cellLow s 241)
def vfaultLow (s : State) : Bool := s.power.vaon && (s.pins.vfault || cellLow s 242)
def alertLow (s : State) : Bool :=
  s.power.vaon && (if restricted s.pins.tap then cellLow s 243 else s.pins.alert)

/-- What the surroundings hold an input at, where this model holds no level for it (assumption 3). -/
def outerLevel (s : State) (i : Nat) : Bool := (Config.freeByte (s.free + i)).toNat % 2 == 1

/-- What cell i of Table 22.10 samples: the levels this model holds (true is high), else the surroundings' (assumption 3). A strap is
held from the first rising edge of RESET_N (R511) and does not change while VAON is applied; an SMBus input is low while its drive-low cell is on
it; a transmit pair has the level that its cell drives. -/
def cellLevel (s : State) (i : Nat) : Bool :=
  match i with
  | 236 => !s.hif.perst
  | 237 => !s.power.reset
  | 239 => if s.pins.strapped then s.pins.strap.testBit 0 else outerLevel s i
  | 240 => if s.pins.strapped then s.pins.strap.testBit 1 else outerLevel s i
  | 241 => !thermtripLow s
  | 242 => !vfaultLow s
  | 243 => !alertLow s
  | 244 => !cellLow s 245 && outerLevel s i
  | 246 => !cellLow s 247 && outerLevel s i
  | _ => (pairDrive s i).getD (outerLevel s i)

/-- Bits as bytes, the first bit the least significant. -/
def packBits (l : List Bool) : List Byte :=
  (List.range (cdiv l.length 8)).map fun k => BitVec.ofNat 8 ((List.range 8).foldl (fun a i => a + put (b2n (l.getD (8 * k + i) false)) i) 0)

/-- A scan of the boundary register under the TAP instruction `code`: the 248 samples go out, and the register takes `cells`. A restricted
instruction outside reset is BYPASS and scans nothing. `ser`: VSER and VSERH are within range. DESIGN CHOICE (assumption 85): the capture, shift
and update of one scan are one command. -/
def boundaryScan (code : Nat) (cells : List Bool) (ser : Bool) (s : State) : State :=
  let t := tapSelect code { s with pins := { s.pins with ser := ser } }
  if tapRuns s && t.pins.tap == code then
    let u := sendMsg t 6 (packBits ((List.range 248).map (cellLevel t)))
    { u with pins := { u.pins with cells := if cells.length = 248 then cells else u.pins.cells }, free := u.free + 248 }
  else t

/-- BYPASS, by 0xFF or by a code that Table 22.9 does not name (R514). -/
def execBypass (s : State) (_code : Nat := 0xFF) : Out := .next (tapSelect 0xFF s)

/-- IDCODE (R515): the 32 bits go out. A TAP reset selects it too and shifts nothing (Table 22.9): by TMS while the TAP runs, or by a low level
of TRST_N, which holds it in reset until TRST_N rises (R514). -/
def execIdcode (s : State) (ev : TapEvent := .scan) : Out :=
  .next <|
    match ev with
    | .scan =>
      if tapRuns s then sendMsg (tapSelect 1 s) 6 (leBytes 4 (1 + put 0x3B7 1 + put 0x4768 12 + put Config.stepping.toNat 28)) else s
    | .tmsReset => tapSelect 1 s
    | .trstLow => { s with pins := { s.pins with trstHigh := false, tap := 1 } }
    | .trstHigh => { s with pins := { s.pins with trstHigh := true } }

/-- SAMPLE/PRELOAD. -/
def execSamplePreload (cells : List Bool) (s : State) (ser : Bool := true) : Out := .next (boundaryScan 2 cells ser s)
/-- EXTEST. -/
def execExtest (s : State) (cells : List Bool := []) (ser : Bool := true) : Out := .next (boundaryScan 3 cells ser s)
/-- EXTEST_PULSE. -/
def execExtestPulse (s : State) (cells : List Bool := []) (ser : Bool := true) : Out := .next (boundaryScan 4 cells ser s)
/-- EXTEST_TRAIN. -/
def execExtestTrain (s : State) (cells : List Bool := []) (ser : Bool := true) : Out := .next (boundaryScan 5 cells ser s)
/-- HIGHZ. -/
def execHighz (s : State) : Out := .next (tapSelect 6 s)
/-- CLAMP. -/
def execClamp (s : State) : Out := .next (tapSelect 7 s)

end Sys2Proof.Machine
end

