-- ==== Sys2Proof/Machine/Stuck.lean ====
section
/-!
DEFINITION. A stuck engine (R474) and a lost reference (R50): failures whose effect depends on what every engine and mover could do.
-/
namespace Sys2Proof.Machine

/-! A stuck engine (R74, R474) -/

/-- The commands that issue a word of stream k at position p, each only the word that it is named after. -/
def issuers (p k : Nat) : List (State → Out) :=
  [execDly p k, execFend p k, execHalt p k, execSwait p k, execSsig p k, execFaultMarkerDispatch p k] ++
    if k < 2 then
      [execMload p k, execMstream p k, execMshape p k, execMsplit p, execMdrainSetup p k, execMdrainSwap p k, execMdrainDrain p k,
        execMdrainSpill p k, execMdrainResume p k]
    else if k = 2 then [execTfeed p, execTtransTranspose p, execTtransFmask p, execTrot p, execTsample p]
    else if k = 3 then
      [execVopAdd p, execVopMul p, execVopFma p, execVopScale p, execVopCopy p, execVopExp p, execVopSilu p, execSmark p, execVnormRms p,
        execVnormLayer p, execVsmaxScore p, execVsmaxMerge p, execVsmaxFinal p, execVquant p, execVrandDrop p, execVrandBits p, execVoptAdam p,
        execVoptSgd p, execVloss p, execVcheck p]
    else if k = 4 then
      [execCmoveGet p, execCmovePut p, execCmoveAdd p, execChbmLoad p, execChbmStore p, execChbmStore2 p, execCplyOpen p, execCplySend p,
        execCplyFree p, execChostGet p, execChostPut p, execChankPush p, execChankPop p, execCfeFill p, execCfeTake p, execCfeReadf p, execCfeSet p]
    else [execRarm p, execRclose p]

/-- The state after the head word of stream k has issued, when R74 lets it. -/
def afterIssue (s : State) (p k : Nat) : Option State :=
  let q := strmOf (spAt s p) k
  (issuers p k).findSome? fun f =>
    match f s with
    | .next t => if (strmOf (spAt t p) k).queue == q.queue && (strmOf (spAt t p) k).waitSince == q.waitSince then none else some t
    | _ => none

/-- STUCK_ENGINE: an engine whose head word could issue has not issued it for 65,536 sc from the sc in which it could. -/
def execStuckEngine (p k : Nat) (s : State) : Out :=
  onEngine p k <|
    match afterIssue s p k with
    | some t => spindleFault (runPos s p fun l => l.at_ ((spAt t p).clock.lc + 65536)) p 2 k (evW 0xA02 k 0 k 0)
    | none => s

/-! A lost reference (R50) -/

/-- The bytes of a range of device addresses hold unspecified values from now on. -/
def scrambleAt (s : State) (a n : Nat) : State :=
  match whereIs a with
  | .distaff k off => scramble s (posOf s k) off (min n (distSize - off))
  | .hbm off => let d := drawBytes s n; hbmWrite d.2 off d.1 false
  | .host h => let d := drawBytes s n; hostWrite d.2 h d.1 []
  | _ => s

/-- What a descriptor that has started and not completed could write: pieces of a COPY, ranges of a SNAPSHOT, the area of a CHECKPOINT (R362,
R242, R481). A RESTORE could write the distaffs and cellars of its set (R485). -/
def descRanges (s : State) (d : Desc) : List (Nat × Nat) :=
  match d.op with
  | 3 => (List.range (d.f 303 288)).map fun i => ((copyPiece d i).2, d.f 287 256)
  | 4 => if d.result.isSome then (List.range (d.f 207 192)).map fun i => let x := snapRange d.record i; (x.2.1, x.2.2.1) else []
  | 5 => match (jobOf s d.job).ckpt with | some c => if c.written then [(c.area, imageLen s d.job)] else [] | none => []
  | 6 => if (jobOf s d.job).state = 1 then
      (jobSet s d.job).flatMap fun n => [(n * 0x0200_0000, distSize), ((spAt s (posOf s n)).hank.record.cellar, 64 * cellarOf (spAt s (posOf s n)))]
    else []
  | _ => []

/-- What the movers of descriptors and refills could write. -/
def moverRanges (s : State) : List (Nat × Nat) :=
  (s.hif.descs.filter fun d => d.started && !d.done).flatMap (descRanges s) ++ s.repair.finished.map fun x => (x.2 * 0x0200_0000, distSize)

/-- REFERENCE_LOST: no further word issues and no further bell fires; what was under way leaves unspecified bytes. -/
def execReferenceLost (src : Nat) (s : State) : Out :=
  if src < 5 then
    let s := raiseDev { s with bell := { s.bell with held := true } } (ev 0xB07 src 0)
    let lost := underWay s ++ s.fabric.replies.map (·.acc)
    let moved := moverRanges s
    let s := (List.range 624).foldl losePos s
    let s := lost.foldl loseAccess
      { s with fabric := { s.fabric with net := [], replies := [] }, hbm := { s.hbm with waiting := [], granted := [] },
               ports := s.ports.map fun x => { x with items := [], wire := [], sent := [], tx := [] } }
    let s := moved.foldl (fun s r => scrambleAt s r.1 r.2) s
    let s := s.hif.xfers.foldl (fun s x =>
      if x.get then scramble s x.pos x.local_ (64 * x.lines)
      else let d := drawBytes s (64 * x.lines); hostWrite d.2 x.host d.1 []) s
    .next { s with hif := { s.hif with xfers := [] } }
  else .fault (.noSuchUnit "reference" src)

end Sys2Proof.Machine
end

