-- ==== Sys2Proof/Machine/Dispatch.lean ====
section
/-!
DEFINITION. One arm per command: each is one direct call of its meaning.
-/
namespace Sys2Proof.Machine

/-- The effect of a command on everything but the queue. -/
def exec (i : Instr) (s : State) : Host.Outcome State Fault Refusal :=
  match i with
  | .dly p k => Sys2Proof.Machine.execDly p k s
  | .jump p k => Sys2Proof.Machine.execJump p k s
  | .loop p k => Sys2Proof.Machine.execLoop p k s
  | .fend p k => Sys2Proof.Machine.execFend p k s
  | .halt p k => Sys2Proof.Machine.execHalt p k s
  | .swait p k => Sys2Proof.Machine.execSwait p k s
  | .swaitTimeout p k => Sys2Proof.Machine.execSwaitTimeout p k s
  | .ssig p k => Sys2Proof.Machine.execSsig p k s
  | .ssigAct p => Sys2Proof.Machine.execSsigAct p s
  | .faultMarkerDispatch p k => Sys2Proof.Machine.execFaultMarkerDispatch p k s
  | .treadleFetch p => Sys2Proof.Machine.execTreadleFetch p s
  | .fetchLineArrival p k => Sys2Proof.Machine.execFetchLineArrival p k s
  | .mload p k => Sys2Proof.Machine.execMload p k s
  | .mstream p k => Sys2Proof.Machine.execMstream p k s
  | .mshape p k => Sys2Proof.Machine.execMshape p k s
  | .msplit p => Sys2Proof.Machine.execMsplit p s
  | .promotion p h => Sys2Proof.Machine.execPromotion p h s
  | .mdrainSetup p k => Sys2Proof.Machine.execMdrainSetup p k s
  | .mdrainSwap p k => Sys2Proof.Machine.execMdrainSwap p k s
  | .mdrainDrain p k => Sys2Proof.Machine.execMdrainDrain p k s
  | .mdrainSpill p k => Sys2Proof.Machine.execMdrainSpill p k s
  | .mdrainResume p k => Sys2Proof.Machine.execMdrainResume p k s
  | .dataOpStart p h => Sys2Proof.Machine.execDataOpStart p h s
  | .tfeed p => Sys2Proof.Machine.execTfeed p s
  | .feedWordEnter p port => Sys2Proof.Machine.execFeedWordEnter p port s
  | .ttransTranspose p => Sys2Proof.Machine.execTtransTranspose p s
  | .ttransFmask p => Sys2Proof.Machine.execTtransFmask p s
  | .trot p => Sys2Proof.Machine.execTrot p s
  | .tsample p => Sys2Proof.Machine.execTsample p s
  | .vopAdd p => Sys2Proof.Machine.execVopAdd p s
  | .vopMul p => Sys2Proof.Machine.execVopMul p s
  | .vopFma p => Sys2Proof.Machine.execVopFma p s
  | .vopScale p => Sys2Proof.Machine.execVopScale p s
  | .vopCopy p => Sys2Proof.Machine.execVopCopy p s
  | .vopExp p => Sys2Proof.Machine.execVopExp p s
  | .vopSilu p => Sys2Proof.Machine.execVopSilu p s
  | .smark p => Sys2Proof.Machine.execSmark p s
  | .vnormRms p => Sys2Proof.Machine.execVnormRms p s
  | .vnormLayer p => Sys2Proof.Machine.execVnormLayer p s
  | .vsmaxScore p => Sys2Proof.Machine.execVsmaxScore p s
  | .vsmaxMerge p => Sys2Proof.Machine.execVsmaxMerge p s
  | .vsmaxFinal p => Sys2Proof.Machine.execVsmaxFinal p s
  | .vquant p => Sys2Proof.Machine.execVquant p s
  | .vrandDrop p => Sys2Proof.Machine.execVrandDrop p s
  | .vrandBits p => Sys2Proof.Machine.execVrandBits p s
  | .voptAdam p => Sys2Proof.Machine.execVoptAdam p s
  | .voptSgd p => Sys2Proof.Machine.execVoptSgd p s
  | .vloss p => Sys2Proof.Machine.execVloss p s
  | .vcheck p => Sys2Proof.Machine.execVcheck p s
  | .cmoveGet p => Sys2Proof.Machine.execCmoveGet p s
  | .cmovePut p => Sys2Proof.Machine.execCmovePut p s
  | .cmoveAdd p => Sys2Proof.Machine.execCmoveAdd p s
  | .meshAdmission p => Sys2Proof.Machine.execMeshAdmission p s
  | .getLineArrival p => Sys2Proof.Machine.execGetLineArrival p s
  | .writeAckArrival p => Sys2Proof.Machine.execWriteAckArrival p s
  | .chbmLoad p => Sys2Proof.Machine.execChbmLoad p s
  | .chbmStore p => Sys2Proof.Machine.execChbmStore p s
  | .chbmStore2 p => Sys2Proof.Machine.execChbmStore2 p s
  | .hbmGrant st ch => Sys2Proof.Machine.execHbmGrant st ch s
  | .hbmDataArrival p => Sys2Proof.Machine.execHbmDataArrival p s
  | .hbmWriteCommit p => Sys2Proof.Machine.execHbmWriteCommit p s
  | .hbmTimetableCycle => Sys2Proof.Machine.execHbmTimetableCycle s
  | .patrolScrub st => Sys2Proof.Machine.execPatrolScrub st s
  | .distaffScrub p => Sys2Proof.Machine.execDistaffScrub p s
  | .cplyOpen p => Sys2Proof.Machine.execCplyOpen p s
  | .cplySend p => Sys2Proof.Machine.execCplySend p s
  | .cplyFree p => Sys2Proof.Machine.execCplyFree p s
  | .channelCreditTimeout p => Sys2Proof.Machine.execChannelCreditTimeout p s
  | .chostGet p => Sys2Proof.Machine.execChostGet p s
  | .chostPut p => Sys2Proof.Machine.execChostPut p s
  | .hostTransferVisible p => Sys2Proof.Machine.execHostTransferVisible p s
  | .hostDataLate p => Sys2Proof.Machine.execHostDataLate p s
  | .hostAccessError p => Sys2Proof.Machine.execHostAccessError p s
  | .chankPush p => Sys2Proof.Machine.execChankPush p s
  | .chankPop p => Sys2Proof.Machine.execChankPop p s
  | .hankPushTimeout p => Sys2Proof.Machine.execHankPushTimeout p s
  | .hankPopTimeout p => Sys2Proof.Machine.execHankPopTimeout p s
  | .hankMoverStart p => Sys2Proof.Machine.execHankMoverStart p s
  | .hankMoverLine p => Sys2Proof.Machine.execHankMoverLine p s
  | .hankSpillComplete p => Sys2Proof.Machine.execHankSpillComplete p s
  | .hankRefillComplete p => Sys2Proof.Machine.execHankRefillComplete p s
  | .cfeFill p => Sys2Proof.Machine.execCfeFill p s
  | .cfeTake p => Sys2Proof.Machine.execCfeTake p s
  | .cfeReadf p => Sys2Proof.Machine.execCfeReadf p s
  | .cfeSet p => Sys2Proof.Machine.execCfeSet p s
  | .cfeReplyArrival p => Sys2Proof.Machine.execCfeReplyArrival p s
  | .rarm p => Sys2Proof.Machine.execRarm p s
  | .rclose p => Sys2Proof.Machine.execRclose p s
  | .rcloseConvert p => Sys2Proof.Machine.execRcloseConvert p s
  | .reelerArrival p => Sys2Proof.Machine.execReelerArrival p s
  | .reelerTake p => Sys2Proof.Machine.execReelerTake p s
  | .feWaitServe p => Sys2Proof.Machine.execFeWaitServe p s
  | .feWaitExpire p => Sys2Proof.Machine.execFeWaitExpire p s
  | .plyAdmissionWindow port => Sys2Proof.Machine.execPlyAdmissionWindow port s
  | .plyFrameReceive port f => Sys2Proof.Machine.execPlyFrameReceive port f s
  | .plyPutReceive port t => Sys2Proof.Machine.execPlyPutReceive port t s
  | .plyGetreqReceive port t => Sys2Proof.Machine.execPlyGetreqReceive port t s
  | .plyGetrepReceive port t => Sys2Proof.Machine.execPlyGetrepReceive port t s
  | .plyAddReceive port t => Sys2Proof.Machine.execPlyAddReceive port t s
  | .plyCfeReceive port t => Sys2Proof.Machine.execPlyCfeReceive port t s
  | .plyCferepReceive port t => Sys2Proof.Machine.execPlyCferepReceive port t s
  | .plyAckReceive port t => Sys2Proof.Machine.execPlyAckReceive port t s
  | .plyOpenReceive port ch t => Sys2Proof.Machine.execPlyOpenReceive port ch t s
  | .plyCreditReceive port t => Sys2Proof.Machine.execPlyCreditReceive port t s
  | .laneLockLoss port lane => Sys2Proof.Machine.execLaneLockLoss port lane s
  | .plyLaneMapChange port => Sys2Proof.Machine.execPlyLaneMapChange port s
  | .plyNoFrameTimeout port => Sys2Proof.Machine.execPlyNoFrameTimeout port s
  | .plyTraining port signal locked ppb rawIn rawOut cls => Sys2Proof.Machine.execPlyTraining port signal locked ppb rawIn rawOut cls s
  | .plyTrainStepTimeout port failed => Sys2Proof.Machine.execPlyTrainStepTimeout port s failed
  | .plyRetrain port => Sys2Proof.Machine.execPlyRetrain port s
  | .bell b => Sys2Proof.Machine.execBell b s
  | .frameOverBudget p k => Sys2Proof.Machine.execFrameOverBudget p k s
  | .frameOverrun p k => Sys2Proof.Machine.execFrameOverrun p k s
  | .slipLimitExceeded b => Sys2Proof.Machine.execSlipLimitExceeded b s
  | .statisticsEntry j => Sys2Proof.Machine.execStatisticsEntry j s
  | .rebalance j => Sys2Proof.Machine.execRebalance j s
  | .entryWrite => Sys2Proof.Machine.execEntryWrite s
  | .doorbellSq r v => Sys2Proof.Machine.execDoorbellSq r v s
  | .doorbellCq j v => Sys2Proof.Machine.execDoorbellCq j v s
  | .doorbellDeq v => Sys2Proof.Machine.execDoorbellDeq v s
  | .descriptorFetch err recErr => Sys2Proof.Machine.execDescriptorFetch err s recErr
  | .nop r => Sys2Proof.Machine.execNop r s
  | .jobStart r => Sys2Proof.Machine.execJobStart r s
  | .jobStop r => Sys2Proof.Machine.execJobStop r s
  | .copy r => Sys2Proof.Machine.execCopy r s
  | .snapshot r => Sys2Proof.Machine.execSnapshot r s
  | .snapshotTake j => Sys2Proof.Machine.execSnapshotTake j s
  | .checkpoint r => Sys2Proof.Machine.execCheckpoint r s
  | .checkpointTake j => Sys2Proof.Machine.execCheckpointTake j s
  | .restore r => Sys2Proof.Machine.execRestore r s
  | .refill => Sys2Proof.Machine.execRefill s
  | .receiptSign flashOk => Sys2Proof.Machine.execReceiptSign s flashOk
  | .hostCxlMemRead off n => Sys2Proof.Machine.execHostCxlMemRead off n s
  | .hostCxlMemWrite off data => Sys2Proof.Machine.execHostCxlMemWrite off data s
  | .cxlConfigRequest req => Sys2Proof.Machine.execCxlConfigRequest req s
  | .cxlSnoop line => Sys2Proof.Machine.execCxlSnoop line s
  | .hostLinkDown => Sys2Proof.Machine.execHostLinkDown s
  | .hostLinkTrain width fast => Sys2Proof.Machine.execHostLinkTrain width fast s
  | .getVersion => Sys2Proof.Machine.execGetVersion s
  | .getCapabilities => Sys2Proof.Machine.execGetCapabilities s
  | .negotiateAlgorithms => Sys2Proof.Machine.execNegotiateAlgorithms s
  | .getDigests => Sys2Proof.Machine.execGetDigests s
  | .getCertificate slot off len => Sys2Proof.Machine.execGetCertificate slot off len s
  | .challenge slot nonce => Sys2Proof.Machine.execChallenge slot nonce s
  | .getMeasurements index slot nonce => Sys2Proof.Machine.execGetMeasurements index slot nonce s
  | .spdmUnsupported code => Sys2Proof.Machine.execSpdmUnsupported code s
  | .doeDiscovery index => Sys2Proof.Machine.execDoeDiscovery index s
  | .cdatAccess entry => Sys2Proof.Machine.execCdatAccess entry s
  | .getTid => Sys2Proof.Machine.execGetTid s
  | .getPldmVersion => Sys2Proof.Machine.execGetPldmVersion s
  | .getPldmTypes => Sys2Proof.Machine.execGetPldmTypes s
  | .getPldmCommands type => Sys2Proof.Machine.execGetPldmCommands type s
  | .getPdr handle => Sys2Proof.Machine.execGetPdr handle s
  | .getPdrRepositoryInfo => Sys2Proof.Machine.execGetPdrRepositoryInfo s
  | .getSensorReading sensor => Sys2Proof.Machine.execGetSensorReading sensor s
  | .getStateSensorReadings sensor => Sys2Proof.Machine.execGetStateSensorReadings sensor s
  | .setEventReceiver addr => Sys2Proof.Machine.execSetEventReceiver addr s
  | .platformEventMessage => Sys2Proof.Machine.execPlatformEventMessage s
  | .registerWrite off n v => Sys2Proof.Machine.execRegisterWrite off n v s
  | .commitGo tag => Sys2Proof.Machine.execCommitGo tag s
  | .rcRegisterRead off n => Sys2Proof.Machine.execRcRegisterRead off n s
  | .syncErrCapture p => Sys2Proof.Machine.execSyncErrCapture p s
  | .blindSiteAck site => Sys2Proof.Machine.execBlindSiteAck site s
  | .keepUpdate flashOk dirOk => Sys2Proof.Machine.execKeepUpdate flashOk s dirOk
  | .keepEnrol flashOk ctrOk => Sys2Proof.Machine.execKeepEnrol flashOk s ctrOk
  | .keepRelease flashOk ctrOk => Sys2Proof.Machine.execKeepRelease flashOk s ctrOk
  | .keepConfig flashOk floorOk => Sys2Proof.Machine.execKeepConfig flashOk s floorOk
  | .sleepRun => Sys2Proof.Machine.execSleepRun s
  | .sleepLight => Sys2Proof.Machine.execSleepLight s
  | .sleepDeep => Sys2Proof.Machine.execSleepDeep s
  | .lanternSample x => Sys2Proof.Machine.execLanternSample x s
  | .droopStretchStart p readings => Sys2Proof.Machine.execDroopStretchStart p readings s
  | .droopStretchEnd p readings lost => Sys2Proof.Machine.execDroopStretchEnd p readings lost s
  | .dvfsSetpointStep p readings => Sys2Proof.Machine.execDvfsSetpointStep p readings s
  | .phaseFail p phase => Sys2Proof.Machine.execPhaseFail p phase s
  | .vsramConverterFail p => Sys2Proof.Machine.execVsramConverterFail p s
  | .dieEdgePhaseFail x => Sys2Proof.Machine.execDieEdgePhaseFail x s
  | .vinWindowTrip x => Sys2Proof.Machine.execVinWindowTrip x s
  | .backgroundWindow b => Sys2Proof.Machine.execBackgroundWindow b s
  | .ageingMeasurement p ro0 ro1 corr flashOk => Sys2Proof.Machine.execAgeingMeasurement p ro0 ro1 corr s flashOk
  | .wakeRampStart p => Sys2Proof.Machine.execWakeRampStart p s
  | .wakeRampStep p recovered readings => Sys2Proof.Machine.execWakeRampStep p recovered s readings
  | .idlePowerGate p => Sys2Proof.Machine.execIdlePowerGate p s
  | .frameSkipEnd p => Sys2Proof.Machine.execFrameSkipEnd p s
  | .sensorExcluded site sens => Sys2Proof.Machine.execSensorExcluded site sens s
  | .blindSiteExpire site => Sys2Proof.Machine.execBlindSiteExpire site s
  | .tripComparatorFire site => Sys2Proof.Machine.execTripComparatorFire site s
  | .hbmCattrip st => Sys2Proof.Machine.execHbmCattrip st s
  | .logicCheck p k => Sys2Proof.Machine.execLogicCheck p k s
  | .stuckEngine p k => Sys2Proof.Machine.execStuckEngine p k s
  | .referenceLost src => Sys2Proof.Machine.execReferenceLost src s
  | .resetAssert us fires => Sys2Proof.Machine.execResetAssert us s fires
  | .powerUp e => Sys2Proof.Machine.execPowerUp e s
  | .wakeN us => Sys2Proof.Machine.execWakeN us s
  | .perst level => Sys2Proof.Machine.execPerst level s
  | .bypass code => Sys2Proof.Machine.execBypass s code
  | .idcode ev => Sys2Proof.Machine.execIdcode s ev
  | .samplePreload cells ser => Sys2Proof.Machine.execSamplePreload cells s ser
  | .extest cells ser => Sys2Proof.Machine.execExtest s cells ser
  | .extestPulse cells ser => Sys2Proof.Machine.execExtestPulse s cells ser
  | .extestTrain cells ser => Sys2Proof.Machine.execExtestTrain s cells ser
  | .highz => Sys2Proof.Machine.execHighz s
  | .clamp => Sys2Proof.Machine.execClamp s
  | .vaonRemoval => Sys2Proof.Machine.execVaonRemoval s
  | .memoryBitError kind p index bit => Sys2Proof.Machine.execMemoryBitError kind p index bit s
  | .vinWithinRange => Sys2Proof.Machine.execVinWithinRange s

end Sys2Proof.Machine
end

