-- ==== Sys2Proof/Machine/Idle.lean ====
section
/-!
DEFINITION. What a step does on an empty queue.
-/
namespace Sys2Proof.Machine

/-- One reference cycle passes with no command (R21): BEL_REFTIME counts while the bell generator runs; what the always-on domain counts over a
deep sleep is added at the power-up that ends it (R444). Everything else that time brings about has a command of its own (assumption 1).
DESIGN CHOICE, assumption 9. -/
def idle (s : State) : State :=
  if s.bell.fired && !s.bell.held && !s.power.off then { s with bell := { s.bell with refTime := s.bell.refTime + 1 } } else s

end Sys2Proof.Machine
end

