-- ==== Sys2Proof/Safety.lean ====
section
/-!
DEFINITION. What counts as a safe step, and the terms the statements use: the invariants, a word that is ready to issue, and the frames.
-/
namespace Sys2Proof

open Sys2Proof.Machine

/-- A step is safe when it neither faults nor refuses. -/
def SafeStep (s : State) : Prop := ∃ t, step s = .next t

/-! Invariants -/

/-- Every byte memory of the block is in its canonical form (the HBM, each distaff, the host's bytes and the MSI-X table), and each stack's next
line to scrub is one of its lines (R345). -/
def MemOk (s : State) : Prop :=
  Memory.wf s.hbm.mem = true ∧ Memory.wf s.hif.host = true ∧ Memory.wf s.hif.msix = true ∧
    (∀ sp ∈ s.spindles, Memory.wf sp.distaff.mem = true) ∧ ∀ k ∈ s.hbm.scrub, k < stackLines

/-- The control state keeps its codes: the keep's counter is not past its bound (R438), and the fields that have a finite list of codes hold one
of them (Tables 18.4, 18.7, 19.1, 19.5, 19.8, the straps); a staged value lies within the bits staged with it (R455). -/
def ControlOk (s : State) : Prop :=
  s.keep.next ≤ s.keep.bound ∧ s.keep.stage ≤ 7 ∧ s.keep.opState ≤ 3 ∧ s.power.step ≤ 14 ∧ s.power.sleep ≤ 2 ∧ s.regs.result ≤ 3 ∧ s.pins.strap < 4 ∧
    ∀ x ∈ s.regs.staged, x.value &&& x.mask = x.value

/-! Words that may issue -/

/-- The head word q of stream k of position p may issue: it is an instruction, and nothing holds the stream. -/
def Ready (s : State) (p k : Nat) (q : QEntry) : Prop :=
  p < 624 ∧ k < 6 ∧ (strmOf (spAt s p) k).queue.head? = some q ∧ mayIssue s p k = true ∧ q.marker = none

/-- A device whose function takes commands: the register space is open and the keep's boot has not stopped (R435, R451). -/
def Serving (s : State) : Prop := spaceOpen s = true ∧ s.keep.stopped = false

/-! Frames -/

/-- What an event or a step of one position leaves of a job: all but its fault, where that stops its streams, and its non-finite flag. -/
def jobCore (b : Job) : Job := { b with fault := none, stop := false, stopAt := 0, stopAll := false, num := { b.num with nf := false } }

/-- From s to t nothing changes outside position p but what an event of p brings: entries due, alerts and their pin, the fault of a job, the
non-finite flag; the count that a waiting SEND of p adds to at its channel's port, and the draws of free values taken. -/
def Confined (p : Nat) (s t : State) : Prop :=
  (∀ x, x ≠ p → spAt t x = spAt s x) ∧ t.pending = s.pending ∧ t.bell = s.bell ∧ t.regs = s.regs ∧ t.map = s.map ∧ t.xing = s.xing ∧
    t.fabric = s.fabric ∧ t.hbm = s.hbm ∧ t.lantern = s.lantern ∧ t.thermal = s.thermal ∧ t.keep = s.keep ∧
    t.repair = s.repair ∧ t.power = s.power ∧ t.syncCap = s.syncCap ∧ t.images = s.images ∧ t.jobs.map jobCore = s.jobs.map jobCore ∧
    { t.pins with alert := false } = { s.pins with alert := false } ∧
    { t.hif with due := [], alerts := [] } = { s.hif with due := [], alerts := [] }

/-- The byte at a local offset of a position's distaff. -/
def distByte (s : State) (p a : Nat) : Byte := memGet (spAt s p).distaff.mem a

/-- The byte at a local offset of a position's distaff, once every write under way has landed. -/
def soonByte (s : State) (p a : Nat) : Byte := memGet (spAt s p).soon a

/-- Position p as it stands once every write under way has landed. -/
def soonLoc (s : State) (p : Nat) : Loc := (openPos s p).dist fun d => { d with mem := (spAt s p).soon }

/-- No write under way to the distaff of p covers this local offset. -/
def Settled (s : State) (p a : Nat) : Prop := ∀ e ∈ (spAt s p).pend, a < e.off ∨ e.off + e.data.length ≤ a

/-- No copy under way within the own window, whose line takes its source's bytes only in the sc of its read, goes to this local offset. -/
def Uncopied (s : State) (p a : Nat) : Prop := ∀ e ∈ (spAt s p).pend, e.src.isSome = true → a < e.off ∨ e.off + e.data.length ≤ a

/-- Every byte of the distaff of p outside these ranges reads, once every write under way has landed, as it would have, where no copy goes to it;
where no write was under way to it, it reads as before. -/
def BytesOutside (rs : List (Nat × Nat)) (p : Nat) (s t : State) : Prop :=
  ∀ a, (∀ r ∈ rs, a < r.1 ∨ r.1 + r.2 ≤ a) →
    (Uncopied s p a → soonByte t p a = soonByte s p a) ∧ (Settled s p a → distByte t p a = distByte s p a)

/-- From s to t the keep refuses an operation with CODE c: it holds what it held, and E-0x805 is due (R441, Table 18.7). -/
def KeepRefused (c : Nat) (s t : State) : Prop :=
  t.keep.opState = 3 ∧ t.keep.opCode = c ∧ t.keep.images = s.keep.images ∧ t.keep.preferred = s.keep.preferred ∧
    t.keep.floors = s.keep.floors ∧ t.keep.operator = s.keep.operator ∧ t.keep.cfg = s.keep.cfg ∧ t.keep.cfgFloor = s.keep.cfgFloor ∧
    ∃ e ∈ t.hif.due, e.code = 0x805

/-- The parts of a position that the flyer does not touch: all but stream F, the clock's present, memory and its marks, the writes under way,
the counters with the count of outlier entries, and POPs that complete. -/
def FlyerKeeps (p : Nat) (s t : State) : Prop :=
  (spAt t p).sems = (spAt s p).sems ∧ (spAt t p).sigs = (spAt s p).sigs ∧ (spAt t p).whorl = (spAt s p).whorl ∧
    (spAt t p).carder = (spAt s p).carder ∧ ((spAt t p).hank = (spAt s p).hank ∨ (spAt t p).hank = (spAt s p).hank.settle (spAt t p).clock.lc) ∧ (spAt t p).reeler = (spAt s p).reeler ∧
    (spAt t p).distaff.full = (spAt s p).distaff.full ∧ (spAt t p).distaff.scrub = (spAt s p).distaff.scrub ∧
    (spAt t p).skipping = (spAt s p).skipping ∧ (spAt t p).service = (spAt s p).service ∧ (spAt t p).fetchFree = (spAt s p).fetchFree ∧
    (spAt t p).syncErr = (spAt s p).syncErr ∧ (spAt t p).marked = (spAt s p).marked ∧ (spAt t p).halfRun = (spAt s p).halfRun ∧
    (spAt t p).fendPhase = (spAt s p).fendPhase ∧ (spAt s p).outliers ≤ (spAt t p).outliers ∧
    { (spAt t p).clock with lc := (spAt s p).clock.lc } = (spAt s p).clock ∧
    ∀ k, k ≠ 3 → strmOf (spAt t p) k = strmOf (spAt s p) k

/-- The position of a command that works inside one position. -/
def localPos : Instr → Option Nat
  | .dly p _ | .jump p _ | .loop p _ | .swait p _ | .swaitTimeout p _ | .ssig p _ | .ssigAct p | .faultMarkerDispatch p _ | .treadleFetch p
  | .fetchLineArrival p _ | .mload p _ | .mstream p _ | .mshape p _ | .msplit p | .promotion p _ | .mdrainSetup p _ | .mdrainSwap p _
  | .mdrainDrain p _ | .mdrainSpill p _ | .mdrainResume p _ | .dataOpStart p _ | .tfeed p | .feedWordEnter p _ | .ttransTranspose p
  | .ttransFmask p | .trot p | .tsample p | .vopAdd p | .vopMul p | .vopFma p | .vopScale p | .vopCopy p | .vopExp p | .vopSilu p | .smark p
  | .vnormRms p | .vnormLayer p | .vsmaxScore p | .vsmaxMerge p | .vsmaxFinal p | .vquant p | .vrandDrop p | .vrandBits p | .voptAdam p
  | .voptSgd p | .vloss p | .vcheck p | .distaffScrub p | .chankPush p | .chankPop p | .hankPushTimeout p | .hankPopTimeout p
  | .hankMoverStart p | .hankSpillComplete p | .hankRefillComplete p | .rarm p | .rclose p | .rcloseConvert p | .frameSkipEnd p => some p
  | _ => none

/-- The position of a command that works inside one position and stores nothing to its distaff. -/
def storelessPos : Instr → Option Nat
  | .dly p _ | .jump p _ | .loop p _ | .swait p _ | .swaitTimeout p _ | .ssig p _ | .ssigAct p | .faultMarkerDispatch p _ | .treadleFetch p
  | .fetchLineArrival p _ | .mload p _ | .mstream p _ | .mshape p _ | .msplit p | .promotion p _ | .mdrainSetup p _ | .mdrainSwap p _
  | .mdrainDrain p _ | .mdrainSpill p _ | .mdrainResume p _ | .tfeed p | .feedWordEnter p _ | .ttransTranspose p
  | .ttransFmask p | .trot p | .tsample p | .smark p | .distaffScrub p | .hankPushTimeout p | .hankPopTimeout p
  | .hankMoverStart p | .rclose p | .frameSkipEnd p => some p
  | _ => none

end Sys2Proof
end

