-- ==== Sys2Proof/WellFormed.lean ====
section
/-!
DEFINITION. Well-formed commands: every operand in the range the manual gives it. A meaning is total on the others too: it stops on a unit
that does not exist, and otherwise takes the operand as it is.
-/
namespace Sys2Proof

/-- A frame's header (Table 11.2). -/
def Frame.wf (f : Frame) : Bool :=
  decide (f.seq < 2 ^ 32) && decide (f.paceN < 256) && decide (f.paceLag < 256) && decide (f.mapseq < 2 ^ 32) && decide (f.mapsp < 32) && decide (f.mapw < 3) &&
    f.types.all (decide <| · < 16) && f.corrected.all fun x => decide (x.1 < 17)

/-- A transaction's header and payload (Table 11.3). -/
def Trans.wf (t : Trans) : Bool :=
  decide (t.addr < 2 ^ 64) && decide (t.fmt < 8) && decide (t.blen < 4) && decide (t.oslot < 4) && decide (t.count < 32) && decide (t.aux < 2 ^ 32) &&
    decide (t.span ≤ 2048) && decide (t.payload.length ≤ 11584)

/-- A sample names only units that exist. -/
def Sample.wf (s : Sample) : Bool :=
  s.pos.length == 624 && s.sram.length == 624 && s.vin.length == 4 && s.edge.length == 4 && s.rails.length == 4 && s.rails.all (·.length == 5) &&
    s.temps.all fun t => decide (t.1 < 632) && decide (t.2.1 < 4096) && decide (t.2.2 < 4096)

/-- A background window's readings name only units that exist. -/
def Background.wf (b : Background) : Bool :=
  b.droop.all (fun d => decide (d.1 < 624) && d.2.length == 8) && b.drop.all (fun d => decide (d.1 < 624)) && b.hbm.all fun t => decide (t.1 < 8)

/-- Thermistor codes, and positions that exist. -/
def BellIn.wf (b : BellIn) : Bool := decide (b.inlet < 4096) && decide (b.outlet < 4096) && b.stretch.all fun x => decide (x.1 < 624)

/-- What a power-up meets names only units that exist, and its first bell comes in time (Table 19.1). -/
def PowerUp.wf (e : PowerUp) : Bool :=
  e.edgeFail.all (decide <| · < 4) && (e.pllFail.all (decide <| · < 4)) && e.phaseFail.all (fun x => decide (x.1 < 624) && decide (x.2 < 4)) &&
    e.sramFail.all (decide <| · < 624) && e.xing.all (fun x => decide (x.1 < 8192)) && e.ageing.all (fun x => decide (x.1 < 624)) &&
    e.hbmFail.all (decide <| · < 8) && decide (e.strap < 4) && decide (e.rc ≤ 359100000)

/-- One line of HBM that the HDM decoder covers (R352). -/
def cxlRange (off n : Nat) : Bool := n != 0 && decide (off + n ≤ 767993839616) && decide (off % 64 + n ≤ 64)

/-- A well-formed command. -/
def Instr.wf (i : Instr) : Bool :=
  match i with
  | .dly p k | .jump p k | .loop p k | .fend p k | .halt p k | .swait p k | .swaitTimeout p k | .ssig p k => decide (p < 624) && decide (k < 6)
  | .ssigAct p => decide (p < 624)
  | .faultMarkerDispatch p k => decide (p < 624) && decide (k < 6)
  | .treadleFetch p => decide (p < 624)
  | .fetchLineArrival p k | .mload p k | .mstream p k | .mshape p k => decide (p < 624) && decide (k < 6)
  | .msplit p => decide (p < 624)
  | .promotion p h => decide (p < 624) && decide (h < 2)
  | .mdrainSetup p k | .mdrainSwap p k | .mdrainDrain p k | .mdrainSpill p k | .mdrainResume p k => decide (p < 624) && decide (k < 6)
  | .dataOpStart p h => decide (p < 624) && decide (h < 2)
  | .tfeed p => decide (p < 624)
  | .feedWordEnter p port => decide (p < 624) && decide (port < 4)
  | .ttransTranspose p | .ttransFmask p | .trot p | .tsample p | .vopAdd p | .vopMul p | .vopFma p | .vopScale p | .vopCopy p
    | .vopExp p | .vopSilu p | .smark p | .vnormRms p | .vnormLayer p | .vsmaxScore p | .vsmaxMerge p | .vsmaxFinal p | .vquant p
    | .vrandDrop p | .vrandBits p | .voptAdam p | .voptSgd p | .vloss p | .vcheck p | .cmoveGet p | .cmovePut p | .cmoveAdd p
    | .meshAdmission p | .getLineArrival p | .writeAckArrival p | .chbmLoad p | .chbmStore p | .chbmStore2 p => decide (p < 624)
  | .hbmGrant st ch => decide (st < 8) && decide (ch < 32)
  | .hbmDataArrival p | .hbmWriteCommit p => decide (p < 624)
  | .hbmTimetableCycle => true
  | .patrolScrub st => decide (st < 8)
  | .distaffScrub p | .cplyOpen p | .cplySend p | .cplyFree p | .channelCreditTimeout p | .chostGet p | .chostPut p
    | .hostTransferVisible p | .hostDataLate p | .hostAccessError p | .chankPush p | .chankPop p | .hankPushTimeout p
    | .hankPopTimeout p | .hankMoverStart p | .hankMoverLine p | .hankSpillComplete p | .hankRefillComplete p | .cfeFill p
    | .cfeTake p | .cfeReadf p | .cfeSet p | .cfeReplyArrival p | .rarm p | .rclose p | .rcloseConvert p | .reelerArrival p
    | .reelerTake p | .feWaitServe p | .feWaitExpire p => decide (p < 624)
  | .plyAdmissionWindow port => decide (port < 6)
  | .plyFrameReceive port f => decide (port < 6) && f.wf
  | .plyPutReceive port t | .plyGetreqReceive port t | .plyGetrepReceive port t | .plyAddReceive port t | .plyCfeReceive port t
    | .plyCferepReceive port t | .plyAckReceive port t => decide (port < 6) && t.wf
  | .plyOpenReceive port ch t => decide (port < 6) && decide (ch < 8) && t.wf
  | .plyCreditReceive port t => decide (port < 6) && t.wf
  | .laneLockLoss port lane => decide (port < 6) && decide (lane < 17)
  | .plyLaneMapChange port | .plyNoFrameTimeout port => decide (port < 6)
  | .plyTraining port signal locked _ _ _ cls =>
    decide (port < 6) && decide (cls < 3) && [signal, locked.lanes, locked.txFails].all fun l => l.all (decide <| · < 17)
  | .plyTrainStepTimeout port failed => decide (port < 6) && failed.all (decide <| · < 17)
  | .plyRetrain port => decide (port < 6)
  | .bell b => b.wf
  | .frameOverBudget p k | .frameOverrun p k => decide (p < 624) && decide (k < 6)
  | .slipLimitExceeded b => b.wf
  | .statisticsEntry j | .rebalance j => decide (j < 8)
  | .entryWrite => true
  | .doorbellSq r v => decide (r < 64) && decide (v < 2 ^ 64)
  | .doorbellCq j v => decide (j < 8) && decide (v < 2 ^ 64)
  | .doorbellDeq v => decide (v < 2 ^ 64)
  | .descriptorFetch _ _ => true
  | .nop r | .jobStart r | .jobStop r | .copy r | .snapshot r => decide (r < 64)
  | .snapshotTake j => decide (j < 8)
  | .checkpoint r => decide (r < 64)
  | .checkpointTake j => decide (j < 8)
  | .restore r => decide (r < 64)
  | .refill | .receiptSign _ => true
  | .hostCxlMemRead off n => cxlRange off n
  | .hostCxlMemWrite off data => cxlRange off data.length
  | .cxlConfigRequest req => decide (req.off < 4096) && req.data.all (decide <| · < 2 ^ 32)
  | .cxlSnoop line => decide (line < 2 ^ 46)
  | .hostLinkDown => true
  | .hostLinkTrain width _ => width == 1 || width == 2
  | .getVersion | .getCapabilities | .negotiateAlgorithms | .getDigests => true
  | .getCertificate slot off len => decide (slot < 256) && decide (off < 2 ^ 16) && decide (len < 2 ^ 16)
  | .challenge slot nonce => decide (slot < 256) && nonce.length == 32
  | .getMeasurements index slot nonce => decide (index < 256) && decide (slot < 256) && nonce.length == 32
  | .spdmUnsupported code => decide (code < 256)
  | .doeDiscovery index => decide (index < 256)
  | .cdatAccess entry => decide (entry < 2 ^ 16)
  | .getTid | .getPldmVersion | .getPldmTypes => true
  | .getPldmCommands type => decide (type < 64)
  | .getPdr handle => decide (handle < 2 ^ 32)
  | .getPdrRepositoryInfo => true
  | .getSensorReading sensor | .getStateSensorReadings sensor => decide (sensor < 2 ^ 16)
  | .setEventReceiver addr => decide (addr < 256)
  | .platformEventMessage => true
  | .registerWrite off n v => (n == 4 || n == 8) && decide (off < 0x420000) && decide (v < 2 ^ 64)
  | .commitGo tag => decide (tag < 2 ^ 16)
  | .rcRegisterRead off n => (n == 4 || n == 8) && decide (off < 0x420000)
  | .syncErrCapture p => decide (p < 624)
  | .blindSiteAck site => decide (site < 1024)
  | .keepUpdate _ _ | .keepEnrol _ _ | .keepRelease _ _ | .keepConfig _ _ | .sleepRun | .sleepLight | .sleepDeep => true
  | .lanternSample s => s.wf
  | .droopStretchStart p _ | .droopStretchEnd p _ _ | .dvfsSetpointStep p _ => decide (p < 624)
  | .phaseFail p phase => decide (p < 624) && decide (phase < 4)
  | .vsramConverterFail p => decide (p < 624)
  | .dieEdgePhaseFail s | .vinWindowTrip s => decide (s < 4)
  | .backgroundWindow b => b.wf
  | .ageingMeasurement p _ _ _ _ | .wakeRampStart p | .wakeRampStep p _ _ | .idlePowerGate p | .frameSkipEnd p => decide (p < 624)
  | .sensorExcluded site sens => decide (site < 640) && decide (sens < 2)
  | .blindSiteExpire site => decide (site < 640)
  | .tripComparatorFire site => decide (site < 632)
  | .hbmCattrip st => decide (st < 8)
  | .logicCheck p k | .stuckEngine p k => decide (p < 624) && (decide (k < 6) || k == 7)
  | .referenceLost src => decide (src < 5)
  | .resetAssert _ fires => fires.all fun n => decide (n < 640)
  | .powerUp e => e.wf
  | .wakeN _ | .perst _ | .idcode _ => true
  | .bypass code => code == 0xFF || code == 0 || (decide (8 ≤ code) && decide (code < 256))
  | .samplePreload cells _ | .extest cells _ | .extestPulse cells _ | .extestTrain cells _ => cells.length == 248
  | .highz | .clamp | .vaonRemoval => true
  | .memoryBitError kind p index bit => kind == 0 && decide (p < 624 ∧ index < 3670016 ∧ bit < 72) || kind == 1 && decide (p < 624 ∧ index < 2 ^ 19 ∧ bit < 128) ||
      kind == 2 && decide (p < 624 ∧ index < 4096 ∧ bit < 512) || kind == 3 && decide (index < 12000000000 ∧ bit < 576)
  | .vinWithinRange => true

end Sys2Proof
end

