-- ==== Sys2Proof/Certificates/Slice0/Obligations.lean ====
section
/-!
DEFINITION. What is claimed of the block: its obligations, each a Prop of its own.
-/

open Sys2Proof Sys2Proof.Machine

/-- For every command c and state s, step of s with c at the front of its queue is exec of c on s with the queue's rest. (00_scope.md,
01_bell.md) -/
def Obligations.StepRunsFront : Prop :=
  ∀ (c : Instr) (rest : List Instr) (s : State), step { s with pending := c :: rest } = exec c { s with pending := rest }

/-- The model's choice (log entry 9): with no command waiting a step answers a next state that differs from the state at most in
BEL_REFTIME, which has grown by n. n is 1 where the first bell has fired, the bell generator is not held and the device is not off, and 0
otherwise. (01_bell.md) -/
def Obligations.EmptyQueueIdles : Prop :=
  ∀ s : State, s.pending = [] →
    ∃ n, step s = .next { s with bell := { s.bell with refTime := s.bell.refTime + n } } ∧
      (s.bell.fired = true ∧ s.bell.held = false ∧ s.power.off = false → n = 1) ∧
      (¬ (s.bell.fired = true ∧ s.bell.held = false ∧ s.power.off = false) → n = 0)

/-- State.reset has an empty queue, BEL_COUNT, BEL_REFTIME, BEL_SLIP_COUNT and BEL_SLIP_TOTAL 0, no first bell, no field staged, no commit
asked for and RESULT 0; every ST field outside the band table at its reset value; every job slot Idle and every port in state 0 (down);
every full/empty bit empty, no distaff word poisoned and byte 0 of each distaff zero; every submission and completion ring as a ring is
when it is enabled; no trip; sleep state 0 (Run); power-up step 0; and the TAP on IDCODE. Of these the manual gives no value for the byte
of the distaff (the model's choice, log entry 61) and for the fields and ports named in log entry 7 (the model's choice). (01_bell.md,
10_synchronisation.md, 14_host_interface.md, 19_bring_up_and_configuration.md, 21_registers.md) -/
def Obligations.ResetLeaves : Prop :=
  State.reset.pending = [] ∧ State.reset.bell.count = 0 ∧ State.reset.bell.refTime = 0 ∧ State.reset.bell.slipCount = 0 ∧
  State.reset.bell.slipTotal = 0 ∧ State.reset.bell.fired = false ∧ State.reset.regs.staged = [] ∧ State.reset.regs.request = none ∧
  State.reset.regs.result = 0 ∧ (∀ o, ¬ inBlock o 0x2000 8 144 → st State.reset o = stReset o) ∧
  (∀ j, (jobOf State.reset j).state = 0) ∧ (∀ q, (portAt State.reset q).state = 0) ∧
  (∀ p, (spAt State.reset p).distaff.full = [] ∧ (spAt State.reset p).distaff.poison = [] ∧ distByte State.reset p 0 = 0#8) ∧
  (∀ r, sqAt State.reset r = SqRing.reset) ∧ (∀ r, cqAt State.reset r = CqRing.reset) ∧
  State.reset.thermal.tripped = false ∧ State.reset.power.sleep = 0 ∧ State.reset.power.step = 0 ∧ State.reset.pins.tap = 1

/-- State.reset meets MemOk (the HBM, every distaff, the host's bytes and the MSI-X table in canonical form, every scrub count below a
stack's lines) and ControlOk (coded fields hold one of their codes, the keep's counter is within its bound, staged values lie within their
staged bits). (18_keep.md, 19_bring_up_and_configuration.md) -/
def Obligations.ResetKeepsInvariants : Prop :=
  MemOk State.reset ∧ ControlOk State.reset

/-- From every state whose memories (the HBM, every distaff, the host's bytes, the MSI-X table) are canonical, that is with addresses
strictly rising and no listed byte equal to what an unlisted address reads as, and whose scrub counts name lines of their stacks, a step
that answers a next state leaves them so. (09_memory_model.md, 13_fabric_and_hbm.md, 14_host_interface.md) -/
def Obligations.StepKeepsMemory : Prop :=
  ∀ s t : State, MemOk s → step s = .next t → MemOk t

/-- From every state in which the keep's next counter value does not exceed the bound recorded in flash, the boot stage is at most 7, the
operation state at most 3, the power-up step at most 14, the sleep state at most 2, the commit result at most 3 and the straps below 4,
and in which every staged value lies within the bits staged with it, a step that answers a next state keeps all of this. (18_keep.md,
19_bring_up_and_configuration.md, 22_package.md) -/
def Obligations.StepKeepsControl : Prop :=
  ∀ s t : State, ControlOk s → step s = .next t → ControlOk t

/-- For every command that works inside one position p (localPos): when exec answers a next state, every other position, the queue, the
bell generator, the registers, the spare map, the crossings, the fabric, the HBM, the lantern, the thermal sites, the keep, repairs,
power, the capture of SYNC errors and images are as before. Every job is as before but for its fault, the stop that a fault brings and its
non-finite flag; every pin but SMB_ALERT_N; and all of the host interface but the entries due and the alerts. The draws of free values are
a counter of the model's own. The ports are as before too where the head word of stream C of p is no SEND that waits for a credit; where
it is, the ports differ at most in the stall counts of their channels. (02_spindle.md, 04_whorl.md, 05_bobbin.md, 07_backward.md,
09_memory_model.md, 11_ply_ports.md) -/
def Obligations.LocalCommandsStayConfined : Prop :=
  ∀ (c : Instr) (p : Nat) (s t : State), localPos c = some p → exec c s = .next t → Confined p s t ∧
    (chanWait (spAt s p) = none → t.ports = s.ports) ∧
    t.ports.map (fun x => { x with chStall := [] }) = s.ports.map fun x => { x with chStall := [] }

/-- For every command of one position that stores nothing to the distaff (storelessPos) and every state whose memories are canonical: when
exec answers a next state, every byte of the position's distaff that no write under way covers reads as before; and what each byte to
which no copy within the own window goes reads as once every write under way has landed is what it was. (02_spindle.md, 04_whorl.md,
05_bobbin.md, 06_quantisation.md, 20_faults_and_recovery.md) -/
def Obligations.StorelessCommandsKeepTheDistaff : Prop :=
  ∀ (c : Instr) (p : Nat) (s t : State) (a : Nat), MemOk s → storelessPos c = some p → exec c s = .next t →
    ((∀ e ∈ (spAt s p).pend, a < e.off ∨ e.off + e.data.length ≤ a) → distByte t p a = distByte s p a) ∧ (Uncopied s p a → soonByte t p a = soonByte s p a)

/-- For every byte memory m in canonical form, every address and byte list: writing the list and reading as many bytes at that address
gives the list; every address outside it reads as before; the result is in canonical form; and two canonical memories that read alike
everywhere are the same list. (03_number_formats.md, 09_memory_model.md) -/
def Obligations.MemoryReadsWhatWasWritten : Prop :=
  (∀ (m : Mem) (a : Nat) (bs : List Byte), Memory.wf m = true →
    memRead (memWrite m a bs) a bs.length = bs ∧ (∀ x, x < a ∨ a + bs.length ≤ x → memGet (memWrite m a bs) x = memGet m x) ∧
      Memory.wf (memWrite m a bs) = true) ∧
  (∀ m m' : Mem, Memory.wf m = true → Memory.wf m' = true → (∀ a, memGet m a = memGet m' a) → m = m')

/-- A word of a whorl stream finds in its sc of issue what the half's earlier instructions have taken by then, and issues where none of
that stopped the stream. A ready DLY with reserved bits zero and COUNT c, c not 0, leaves its queue and holds its engine's issue for c sc.
A ready FEND or HALT with reserved bits zero, on a stream that has not died, whose engine has nothing in flight once its array has taken
the words that are there, retires its frame end in the sc its fence gives, when the time of that sc is known. A fault marker or a word
that no instruction of its stream takes, at the head of a stream that may issue, raises its event. The chosen stream, not past its last
word, presents the fetch of the words left in its line: the fetch is the last of those in flight, is due 5 sc after the sc of its
presentation, and the next word to fetch is the one after it. The oldest fetch in flight, with no poison, of a stream where no JUMP or
LOOP waits, gives its words to the stream in order. (02_spindle.md, 01_bell.md) -/
def Obligations.TreadleCompletes : Prop :=
  (∀ (s : State) (p k t : Nat) (q : QEntry) (l : Loc), Ready s p k q → isCls 0 q.word = true →
    reservedClear q.word [(127, 122), (63, 32)] = true → fld q.word 63 32 ≠ 0 → t = issueAt (issuePos s p k) k →
    l = pumped s p k t (issuePos s p k) → (strmOf l.sp k).dead = false →
    exec (.dly p k) s = .next (closePos s p (l.pop k t (fld q.word 63 32) t))) ∧
  (∀ (s : State) (p k : Nat) (q : QEntry) (l : Loc), Ready s p k q → isCls 3 q.word = true → l = pumpAll s p k (openPos s p) →
    reservedClear q.word [(127, 122), (7, 0)] = true → engineIdle l.sp k = true → (strmOf l.sp k).dead = false →
    clockKnown s p (fenceAt l k) = true →
    exec (.fend p k) s = .next (noteRetire (closePos s p (retire k (fenceAt l k) false (fld q.word 7 0) l)) p (fenceAt l k))) ∧
  (∀ (s : State) (p k : Nat) (q : QEntry) (l : Loc), Ready s p k q → isCls 6 q.word = true → l = pumpAll s p k (openPos s p) →
    reservedClear q.word [(127, 122), (7, 0)] = true → engineIdle l.sp k = true → (strmOf l.sp k).dead = false →
    clockKnown s p (fenceAt l k) = true →
    exec (.halt p k) s = .next (noteRetire (closePos s p (retire k (fenceAt l k) true (fld q.word 7 0) l)) p (fenceAt l k))) ∧
  (∀ (s : State) (p k code : Nat) (q : QEntry), p < 624 → k < 6 → (strmOf (spAt s p) k).queue.head? = some q → mayIssue s p k = true →
    (q.marker <|> illegalHead (spAt s p).whorl.split k q.word) = some code →
    exec (.faultMarkerDispatch p k) s = .next (runPos s p fun l => if code = 0xA20 then illegalAt s p k q l else
      pumpThen s p k (issueAt l k) (·.reject k code 0 0 q) l)) ∧
  (∀ (s : State) (p k : Nat), p < 624 → chooseStream s p (spAt s p) = some k →
    (strmOf (spAt s p) k).next < (strmOf (spAt s p) k).len →
    ∃ t f, exec (.treadleFetch p) s = .next t ∧ f.woff = (strmOf (spAt s p) k).next ∧
      f.due = max (spAt s p).clock.lc (spAt s p).fetchFree + 5 ∧ f.words.length = keepOf (strmOf (spAt s p) k) ∧
      strmOf (spAt t p) k = { strmOf (spAt s p) k with flights := (strmOf (spAt s p) k).flights ++ [f],
                                                       next := (strmOf (spAt s p) k).next + keepOf (strmOf (spAt s p) k) }) ∧
  (∀ (s : State) (p k : Nat) (f : Fetch) (fs : List Fetch), p < 624 → k < 6 → (strmOf (spAt s p) k).flights = f :: fs →
    (strmOf (spAt s p) k).ctrl = [] → f.poison = none →
    ∃ t, exec (.fetchLineArrival p k) s = .next t ∧
      strmOf (spAt t p) k = absorb f.entries { strmOf (spAt s p) k with flights := fs })

/-- Where the treadle fetches for the stream: when the word that waits there is a legal JUMP whose target lies in the stream, the next
fetch is at the target and the words behind it and the fetches in flight are dropped. A legal LOOP with COUNT c, c not 0, has v rounds
left: the value of its counter where that is armed, c - 1 where it is not. While v is not 0 it leaves the counter armed with v - 1 and
goes to its target; when v is 0 it clears the counter, and the words behind it are taken in order. That the slots of the fetches dropped
are free at once is the model's choice (log entry 62). (02_spindle.md) -/
def Obligations.JumpsRedirect : Prop :=
  (∀ (s : State) (p k : Nat) (q : QEntry) (rest : List QEntry), p < 624 → k < 6 → treadleFetches s p k = true →
    (strmOf (spAt s p) k).ctrl = q :: rest → clsOf q.word = 1 → reservedClear q.word [(127, 122), (95, 64)] = true →
    targetIn (strmOf (spAt s p) k) q = true →
    ∃ t, exec (.jump p k) s = .next t ∧
      strmOf (spAt t p) k = { strmOf (spAt s p) k with next := (targetOf q).toNat, ctrl := [], flights := [] }) ∧
  (∀ (s : State) (p k c v : Nat) (armed : Bool) (q : QEntry) (rest : List QEntry), p < 624 → k < 6 → treadleFetches s p k = true →
    (strmOf (spAt s p) k).ctrl = q :: rest → clsOf q.word = 2 →
    reservedClear q.word [(127, 122), (121, 119), (95, 64), (63, 40)] = true → fld q.word 63 40 = c → c ≠ 0 →
    targetIn (strmOf (spAt s p) k) q = true → (strmOf (spAt s p) k).loops[fld q.word 121 119]? = some ⟨v, armed⟩ →
    ∃ t, exec (.loop p k) s = .next t ∧
      let left := if armed then v else c - 1
      (left ≠ 0 → (strmOf (spAt t p) k).next = (targetOf q).toNat ∧ (strmOf (spAt t p) k).ctrl = [] ∧
        (strmOf (spAt t p) k).flights = [] ∧ (strmOf (spAt t p) k).loops[fld q.word 121 119]? = some ⟨left - 1, true⟩) ∧
      (left = 0 → (strmOf (spAt t p) k).loops[fld q.word 121 119]? = some ⟨0, false⟩ ∧
        strmOf (spAt t p) k = absorb rest { strmOf (spAt s p) k with ctrl := [], loops := (strmOf (spAt t p) k).loops }))

/-- Of a ready legal SWAIT of an sc by which no issued SSIG to its semaphore is still to act, and in which no lower stream's SWAIT on the
semaphore issues as well: it is satisfied in the sc of its issue where its COUNT does not exceed the value; where it does, a mode 2 word
leaves its queue, its stream dies and the record of E-0x202 is posted; in another mode it waits from that sc on. A waiting SWAIT whose
semaphore no issued SSIG acts on by sc t + T leaves its queue in that sc, its stream dies, and the record of E-0x203 is posted. On a whorl
stream both issue and timeout come where nothing that the half takes until then stops the stream. A ready legal SSIG, on a stream that has
not died, whose engine has nothing in flight and whose release is met, issues in the sc its stream's earlier instructions and its reeler's
writes give. Of the issued SSIGs of a position that is on the earliest acts, of one sc the first in stream order (the order within one sc
is the model's choice, log entry 63): it adds its COUNT and serves waits as sigAdd says. Where the sum passes 65,535, an entry with code
0x201 is due, the SSIG is no longer pending, and no semaphore changes if no stream's head word is an SWAIT on its semaphore.
(02_spindle.md, 10_synchronisation.md) -/
def Obligations.SemaphoresComplete : Prop :=
  (∀ (s : State) (p k t : Nat) (q : QEntry) (l : Loc), Ready s p k q → isCls 4 q.word = true →
    swaitBad q.word = false → t = issueAt (issuePos s p k) k →
    ((issuePos s p k).sp.sigs.any fun g => g.sem == semF q.word && decide (g.at_ ≤ t)) = false →
    lowerWait s p k (semF q.word) t (issuePos s p k) = false →
    l = pumped s p k t (issuePos s p k) → (strmOf l.sp k).dead = false → semCount q.word ≤ semOf l.sp (semF q.word) →
    exec (.swait p k) s = .next (closePos s p (satisfy s p k t q l))) ∧
  (∀ (s : State) (p k t : Nat) (q : QEntry) (l : Loc), Ready s p k q → isCls 4 q.word = true →
    swaitBad q.word = false → t = issueAt (issuePos s p k) k →
    ((issuePos s p k).sp.sigs.any fun g => g.sem == semF q.word && decide (g.at_ ≤ t)) = false →
    lowerWait s p k (semF q.word) t (issuePos s p k) = false →
    l = pumped s p k t (issuePos s p k) → (strmOf l.sp k).dead = false → semOf l.sp (semF q.word) < semCount q.word → semMode q.word = 2 →
    exec (.swait p k) s = .next (closePos s p (((l.pop k t 1 t).kill k).syncErr s p 0x202 0 k q.woff (semF q.word)
      (semOf l.sp (semF q.word)) (semCount q.word)))) ∧
  (∀ (s : State) (p k t : Nat) (q : QEntry) (l : Loc), Ready s p k q → isCls 4 q.word = true →
    swaitBad q.word = false → t = issueAt (issuePos s p k) k →
    ((issuePos s p k).sp.sigs.any fun g => g.sem == semF q.word && decide (g.at_ ≤ t)) = false →
    lowerWait s p k (semF q.word) t (issuePos s p k) = false →
    l = pumped s p k t (issuePos s p k) → (strmOf l.sp k).dead = false → semOf l.sp (semF q.word) < semCount q.word → semMode q.word ≠ 2 →
    exec (.swait p k) s = .next (closePos s p ((l.strm k fun x => { x with waitSince := some t, free := t + 1 }).at_ t))) ∧
  (∀ (s : State) (p k t0 t : Nat) (q : QEntry) (l : Loc), p < 624 → k < 6 → (strmOf (spAt s p) k).waitSince = some t0 →
    (strmOf (spAt s p) k).queue.head? = some q → isCls 4 q.word = true → treadleRuns s p k = true → t = t0 + fld q.word 63 32 →
    (∀ g ∈ (spAt s p).sigs, g.sem = semF q.word → t < g.at_) → l = pumped s p k t (openPos s p) → (strmOf l.sp k).dead = false →
    exec (.swaitTimeout p k) s = .next (closePos s p
      (((l.pop k t 1 t).kill k).syncErr s p 0x203 0 k q.woff (semF q.word) (semOf l.sp (semF q.word)) (semCount q.word)))) ∧
  (∀ (s : State) (p k : Nat) (q : QEntry) (l : Loc), Ready s p k q → isCls 5 q.word = true → ssigBad q.word = false →
    l = pumpAll s p k (issuePos s p k) → (strmOf l.sp k).dead = false → engineIdle l.sp k = true → ssigFree s p k (semScope q.word) l = true →
    exec (.ssig p k) s = .next (closePos s p (ssigDo k (ssigAt k (semScope q.word) l) q l))) ∧
  (∀ (s : State) (p : Nat) (g : Sig) (rest : List Sig), p < 624 → live s p = true →
    pluckMin (fun _ => true) (fun g => 8 * g.at_ + g.stream) (spAt s p).sigs = some (g, rest) →
    exec (.ssigAct p) s = .next (runPos s p (sigAdd s p g rest))) ∧
  (∀ (s : State) (p : Nat) (g : Sig) (rest : List Sig), p < 624 → live s p = true →
    pluckMin (fun _ => true) (fun g => 8 * g.at_ + g.stream) (spAt s p).sigs = some (g, rest) →
    65535 < semOf (spAt s p) g.sem + g.count →
    ∃ t, exec (.ssigAct p) s = .next t ∧ (spAt t p).sigs = rest ∧ (∃ x ∈ t.hif.due, x.code = 0x201) ∧
      ((∀ k, k < 6 → ∀ q, (strmOf (spAt s p) k).queue.head? = some q → semF q.word = g.sem → isCls 4 q.word = false) → (spAt t p).sems = (spAt s p).sems))

/-- When the earliest issued SSIG of a position that is on names an existing semaphore, no stream's head word is an SWAIT on it, and the
sum does not pass 65,535, the value after it is the value before plus COUNT (where several act in one sc the order is the model's choice,
log entry 63), every other semaphore is unchanged, and the SSIG is no longer pending. (10_synchronisation.md, 02_spindle.md) -/
def Obligations.SignalAddsItsCount : Prop :=
  ∀ (s : State) (p : Nat) (g : Sig) (rest : List Sig), p < 624 → live s p = true →
    pluckMin (fun _ => true) (fun g => 8 * g.at_ + g.stream) (spAt s p).sigs = some (g, rest) →
    g.sem < (spAt s p).sems.length → semOf (spAt s p) g.sem + g.count ≤ 65535 →
    (∀ k, k < 6 → ∀ q, (strmOf (spAt s p) k).queue.head? = some q → semF q.word = g.sem → isCls 4 q.word = false) →
    ∃ t, exec (.ssigAct p) s = .next t ∧ semOf (spAt t p) g.sem = semOf (spAt s p) g.sem + g.count ∧
      (∀ n, n ≠ g.sem → semOf (spAt t p) n = semOf (spAt s p) n) ∧ (spAt t p).sigs = rest

/-- The position is as the sc of issue finds it, after the words that earlier instructions of the half can still take. A ready MLOAD on a
stream that has not died, whose fields are legal and for which the load path and the plane are free, issues. A ready MSTREAM or MSHAPE
with legal fields, on a stream that has not died, issues once no stream operation is under way and its plane, its bank and its row give an
sc and a row. A ready MSPLIT with reserved bits zero issues once what it waits for has completed, in the mode of bit 121. Each answers the
state that the definition of its issue gives. (04_whorl.md, 05_bobbin.md) -/
def Obligations.WhorlIssueCompletes : Prop :=
  (∀ (s : State) (p k : Nat) (q : QEntry) (l0 l : Loc), Ready s p k q → isCls 0x08 q.word = true → inWhorl s p k = true →
    mloadBad (issuePos s p k) k q.word = false → l0 = pumpWhile s p k (mloadWaits q.word) (issuePos s p k) →
    mloadWaits q.word (halfOf l0.sp k) = false → l = pumpTo s p k (mloadAt l0 k q.word) l0 →
    (strmOf l.sp k).dead = false → mloadWaits q.word (halfOf l.sp k) = false →
    exec (.mload p k) s = .next (closePos s p (mloadDo s p k q l))) ∧
  (∀ (s : State) (p k t row : Nat) (q : QEntry) (l : Loc), Ready s p k q → isCls 0x09 q.word = true → inWhorl s p k = true →
    mstreamBad q.word = false → l = planeReady s p k q.word (pathReady s p k (issuePos s p k)) → (strmOf l.sp k).dead = false →
    (halfOf l.sp k).strm = none → mstreamAt l k q.word = some (t, row) →
    exec (.mstream p k) s = .next (closePos s p (mstreamDo s p k q l t row))) ∧
  (∀ (s : State) (p k t row : Nat) (q : QEntry) (l0 l : Loc), Ready s p k q → isCls 0x0A q.word = true → inWhorl s p k = true →
    mshapeBad (issuePos s p k) k q.word = false → l0 = pathReady s p k (issuePos s p k) → (strmOf l0.sp k).dead = false →
    (halfOf l0.sp k).strm = none → mshapeAt l0 k q.word = some (t, row) → l = pumped s p k t l0 → (strmOf l.sp k).dead = false →
    exec (.mshape p k) s = .next (closePos s p (mshapeDo s p k q t row l))) ∧
  (∀ (s : State) (p t : Nat) (q : QEntry) (l : Loc), Ready s p 0 q → isCls 0x0B q.word = true → reservedClear q.word [(127, 121)] = true →
    l = msplitPump s p (bitOf q.word 121) (issuePos s p 0) → (strmOf l.sp 0).dead = false → msplitFree (bitOf q.word 121) l = true → t = msplitAt l (bitOf q.word 121) →
    exec (.msplit p) s = .next (closePos s p (msplitDo (bitOf q.word 121) t (l.pop 0 t 1 (t + 2)))))

/-- A ready MSPLIT with reserved bits zero, while neither half has anything in flight, leaves the array in split mode when bit 121 is 1
and out of it when 0. Where that changes the mode, no total of either half is held and no row is marked used; where it does not, the array
is as before. (04_whorl.md, 05_bobbin.md) -/
def Obligations.SplitSetsTheMode : Prop :=
  ∀ (s : State) (p : Nat) (q : QEntry), Ready s p 0 q → isCls 0x0B q.word = true → reservedClear q.word [(127, 121)] = true →
    engineIdle (spAt s p) 0 = true → engineIdle (spAt s p) 1 = true →
    ∃ t, exec (.msplit p) s = .next t ∧ (spAt t p).whorl.split = bitOf q.word 121 ∧
      ((spAt s p).whorl.split ≠ bitOf q.word 121 → ∀ h, h < 2 → (halfOf (spAt t p) h).tot = [] ∧ (halfOf (spAt t p) h).used = []) ∧
      ((spAt s p).whorl.split = bitOf q.word 121 → (spAt t p).whorl = (spAt s p).whorl)

/-- A ready SETUP with legal fields, on a stream that has not died, whose half has nothing in flight once earlier instructions have taken
the words that are there, sets up its half. A ready SWAP with reserved bits zero makes the other bank live in the sc from which no data op
acts on it. A ready DRAIN, SPILL or RESUME whose fields and rows are legal is queued in the later of the sc in which the drain path has
room and, for a DRAIN or SPILL with SWAP = 1, the sc in which no data op acts on the other bank. Where what the half takes of its ports
until that sc does not stop the stream, SWAP, DRAIN, SPILL and RESUME issue. At a position that is powered, the first data op of a half
that has not started, on whose bank nothing streams and no row is handed, runs in the sc after its own issue, the data ops before it and
the instructions for its bank; and the earliest row handed to the bobbin of a half that takes no words is promoted. (05_bobbin.md) -/
def Obligations.BobbinCompletes : Prop :=
  (∀ (s : State) (p k : Nat) (q : QEntry) (l : Loc), Ready s p k q → isOp 0x0C 121 119 0 q.word = true → inWhorl s p k = true →
    setupBad (spAt s p).whorl.split q.word = false → l = pumpAll s p k (issuePos s p k) → (strmOf l.sp k).dead = false →
    engineIdle l.sp k = true → exec (.mdrainSetup p k) s = .next (closePos s p (setupDo k q l))) ∧
  (∀ (s : State) (p k t : Nat) (q : QEntry) (l m : Loc), Ready s p k q → isOp 0x0C 121 119 1 q.word = true → inWhorl s p k = true →
    l = issuePos s p k → drainClear q.word = true →
    bankFree (halfOf l.sp k) (1 - (halfOf l.sp k).layout.live) (issueAt l k) = some t → m = pumped s p k t l → (strmOf m.sp k).dead = false →
    exec (.mdrainSwap p k) s = .next (closePos s p (swapDo k t m))) ∧
  (∀ (s : State) (p k t1 t2 : Nat) (q : QEntry) (l m : Loc), Ready s p k q → isOp 0x0C 121 119 2 q.word = true → inWhorl s p k = true →
    l = issuePos s p k → drainBad l.sp.whorl.split 2 (halfOf l.sp k).layout q.word = false →
    (bobRow l.sp.whorl.split k (halfOf l.sp k).layout (fld q.word 73 64) (drainNr q.word)).isSome = true →
    pathFree (halfOf l.sp k) (issueAt l k) = some t1 → (if bitOf q.word 118 then bankFree (halfOf l.sp k) (1 - (halfOf l.sp k).layout.live) (issueAt l k) else some (issueAt l k)) = some t2 →
    m = pumped s p k (max t1 t2) l → (strmOf m.sp k).dead = false →
    exec (.mdrainDrain p k) s = .next (closePos s p (queueOp k (max t1 t2) (bitOf q.word 118) (bitOf q.word 117) q m))) ∧
  (∀ (s : State) (p k t1 t2 : Nat) (q : QEntry) (l m : Loc), Ready s p k q → isOp 0x0C 121 119 3 q.word = true → inWhorl s p k = true →
    l = issuePos s p k → drainBad l.sp.whorl.split 3 (halfOf l.sp k).layout q.word = false →
    (bobRow l.sp.whorl.split k (halfOf l.sp k).layout (fld q.word 73 64) (drainNr q.word)).isSome = true →
    pathFree (halfOf l.sp k) (issueAt l k) = some t1 → (if bitOf q.word 118 then bankFree (halfOf l.sp k) (1 - (halfOf l.sp k).layout.live) (issueAt l k) else some (issueAt l k)) = some t2 →
    m = pumped s p k (max t1 t2) l → (strmOf m.sp k).dead = false →
    exec (.mdrainSpill p k) s = .next (closePos s p (queueOp k (max t1 t2) (bitOf q.word 118) (bitOf q.word 117) q m))) ∧
  (∀ (s : State) (p k t1 t2 : Nat) (q : QEntry) (l m : Loc), Ready s p k q → isOp 0x0C 121 119 4 q.word = true → inWhorl s p k = true →
    l = issuePos s p k → drainBad l.sp.whorl.split 4 (halfOf l.sp k).layout q.word = false →
    (bobRow l.sp.whorl.split k (halfOf l.sp k).layout (fld q.word 73 64) (drainNr q.word)).isSome = true →
    pathFree (halfOf l.sp k) (issueAt l k) = some t1 → t2 = issueAt l k →
    m = pumped s p k (max t1 t2) l → (strmOf m.sp k).dead = false →
    exec (.mdrainResume p k) s = .next (closePos s p (queueOp k (max t1 t2) false (bitOf q.word 117) q m))) ∧
  (∀ (s : State) (p h : Nat) (d : DataOp), p < 624 → h < 2 → powered s p = true →
    (halfOf (spAt s p) h).drain.find? (·.doneAt.isNone) = some d →
    (halfOf (spAt s p) h).handed.any (·.bank == d.bank) = false → (∀ o, (halfOf (spAt s p) h).strm = some o → o.bank ≠ d.bank) →
    exec (.dataOpStart p h) s = .next (runPos s p (runOp h (max (max d.issued (((halfOf (spAt s p) h).drain.filterMap (·.doneAt)).foldl max 0))
      ((halfOf (spAt s p) h).bankDone.getD d.bank 0) + 1) d))) ∧
  (∀ (s : State) (p h : Nat) (g : Handed) (rest : List Handed), p < 624 → h < 2 → powered s p = true →
    pluckMin (fun _ => true) (·.at_) (halfOf (spAt s p) h).handed = some (g, rest) →
    exec (.promotion p h) s = .next (runPos s p (promoteDo s p h g rest)))

/-- A ready SETUP with legal fields whose half has nothing in flight leaves the half, where the array has it, with the layout its fields
name, no total, no row in use, no poisoned element, no error and no undefined partition; the other half is unchanged. (05_bobbin.md) -/
def Obligations.SetupClearsThePartition : Prop :=
  ∀ (s : State) (p k : Nat) (q : QEntry), Ready s p k q → isOp 0x0C 121 119 0 q.word = true → inWhorl s p k = true →
    setupBad (spAt s p).whorl.split q.word = false → engineIdle (spAt s p) k = true → k < (spAt s p).whorl.halves.length →
    ∃ t, exec (.mdrainSetup p k) s = .next t ∧ (halfOf (spAt t p) k).layout = setupLayout q.word ∧ (halfOf (spAt t p) k).tot = [] ∧
      (halfOf (spAt t p) k).used = [] ∧ (halfOf (spAt t p) k).poison = [] ∧ (halfOf (spAt t p) k).errs = [] ∧
      (halfOf (spAt t p) k).undef = none ∧ ∀ h, h ≠ k → halfOf (spAt t p) h = halfOf (spAt s p) h

/-- A ready TFEED for a port whose half, once it has taken what is due by the sc of issue, still dispatches, with legal fields, goes to
its port's channel where that has room: in the BF16 form when its array, and the array of the shadow it takes, lie in the distaff; in the
tensor form when the header's checks pass and the shadow's array lies in the distaff. A ready legal TRANSPOSE does so when its array
passes, or its header holds no poison and passes, a ready legal FMASK in any case. A ready legal TROT does so when its record and output
header hold no poison and are legal and, for a tensor source, the source header holds no poison and passes; it drops the shadow that
waits. A ready legal TSAMPLE leaves its shadow at its port. At a position that is on, FEED_WORD_ENTER forms the next word of a channel and
enters it where no mask is at the channel's front and the port has room; a mask at the front is read first, and then the rest of the
channel goes on. That a header is read once, in the sc of issue, and that a TFEED looks at no poison of its header, are the model's choice
(log entries 28 and 68; R88, R112 and R114 are silent). (04_whorl.md, 06_quantisation.md, 07_backward.md) -/
def Obligations.TwisterCompletes : Prop :=
  (∀ (s : State) (p : Nat) (q : QEntry) (l : Loc), Ready s p 2 q → isCls 0x10 q.word = true → l = feedPumped s p (tPort q.word) (issuePos s p 2) →
    (strmOf l.sp 2).dead = false → portDead l (tPort q.word) = false → tfeedBad q.word = false → chanRoom l (tPort q.word) = true → fld q.word 119 116 = 1 → inDist (tPtr q.word) (2 * tfLast q.word) = true → shadowBad l q.word = false →
    exec (.tfeed p) s = .next (closePos s p (tfeedDo q l))) ∧
  (∀ (s : State) (p : Nat) (q : QEntry) (l : Loc) (l1 : Loc), Ready s p 2 q → isCls 0x10 q.word = true → l = feedPumped s p (tPort q.word) (issuePos s p 2) →
    (strmOf l.sp 2).dead = false → portDead l (tPort q.word) = false → tfeedBad q.word = false → chanRoom l (tPort q.word) = true → fld q.word 119 116 ≠ 1 → l1 = l.scrub (tPtr q.word) 64 → tfeedFault (lnum s p) (readHeader l1 (tPtr q.word)) q.word = none → shadowBad l1 q.word = false →
    exec (.tfeed p) s = .next (closePos s p (tfeedDo q l1 [(readHeader l1 (tPtr q.word)).raw]))) ∧
  (∀ (s : State) (p : Nat) (q : QEntry) (l : Loc), Ready s p 2 q → isOp 0x11 119 119 0 q.word = true → l = issuePos s p 2 →
    ttransBad q.word = false → chanRoom l (tPort q.word) = true → ttFmt q.word = 1 → inDist (tPtr q.word) (2 * ttLast q.word) = true → 
    exec (.ttransTranspose p) s = .next (closePos s p (l.toChan (tPort q.word) .transpose none q))) ∧
  (∀ (s : State) (p : Nat) (q : QEntry) (l : Loc) (l1 : Loc), Ready s p 2 q → isOp 0x11 119 119 0 q.word = true → l = issuePos s p 2 →
    ttransBad q.word = false → chanRoom l (tPort q.word) = true → ttFmt q.word ≠ 1 → l1 = l.scrub (tPtr q.word) 64 → l1.poisonIn (tPtr q.word) 64 = none → ttransFault (lnum s p) (readHeader l1 (tPtr q.word)) q.word = none → 
    exec (.ttransTranspose p) s = .next (closePos s p (l1.toChan (tPort q.word) .transpose none q [(readHeader l1 (tPtr q.word)).raw]))) ∧
  (∀ (s : State) (p : Nat) (q : QEntry) (l : Loc), Ready s p 2 q → isOp 0x11 119 119 1 q.word = true → l = issuePos s p 2 →
    fmaskBad q.word = false → chanRoom l (tPort q.word) = true → 
    exec (.ttransFmask p) s = .next (closePos s p (l.toChan (tPort q.word) .fmask none q))) ∧
  (∀ (s : State) (p : Nat) (q : QEntry) (l l1 : Loc) (r : RotRec) (ho h : Header), Ready s p 2 q → isCls 0x12 q.word = true → trotBad q.word = false →
    l = rotOpen q.word (issuePos s p 2) → l.anyPoison [(rotPar q.word, 32), (rotDst q.word, 64)] = none →
    r = rotRec (l.rdN (rotPar q.word) 32) → ho = readHeader l (rotDst q.word) →
    r.bad = false → ho.ok = true → rotFormBad q.word r ho = false → chanRoom l (tPort q.word) = true →
    l1 = (if rotSfmt q.word = 0 then l.scrub (rotSrc q.word) 64 else l) → h = readHeader l1 (rotSrc q.word) →
    (rotSfmt q.word = 0 → l1.poisonIn (rotSrc q.word) 64 = none ∧ rotFault (lnum s p) h r = none) →
    exec (.trot p) s = .next (closePos s p (trotDo q (if rotSfmt q.word = 0 then [r.raw, ho.raw, h.raw] else [r.raw, ho.raw]) l1))) ∧
  (∀ (s : State) (p : Nat) (q : QEntry) (l : Loc), Ready s p 2 q → isCls 0x13 q.word = true → l = issuePos s p 2 →
    tsampleBad q.word = false → 
    exec (.tsample p) s = .next (closePos s p ((l.pop 2 (issueAt l 2) 1 (issueAt l 2)).fport (tPort q.word) fun f => { f with shadow := some (fld q.word 119 119, fld q.word 63 32) }))) ∧
  (∀ (s : State) (p port : Nat) (it : FeedItem) (rest : List FeedItem), p < 624 → port < 4 → live s p = true → (portOf (spAt s p) port).chan = it :: rest →
    it.kind ≠ .fmask → (portOf (spAt s p) port).fifo.length < 64 →
    exec (.feedWordEnter p port) s = .next (runPos s p (enterWord s p port it))) ∧
  (∀ (s : State) (p port : Nat) (it : FeedItem) (rest : List FeedItem), p < 624 → port < 4 → live s p = true → (portOf (spAt s p) port).chan = it :: rest →
    it.kind = .fmask → exec (.feedWordEnter p port) s = .next (runPos s p fun l => feedEnter s p port 4 (takeMask port it l)))

/-- A ready legal TSAMPLE leaves at its port (where the position has it) the shadow of its format and base, whatever shadow waited there;
the port's words and channel, and every other port, are unchanged. (06_quantisation.md) -/
def Obligations.ShadowWaitsAtItsPort : Prop :=
  ∀ (s : State) (p : Nat) (q : QEntry), Ready s p 2 q → isCls 0x13 q.word = true → tsampleBad q.word = false →
    tPort q.word < (spAt s p).whorl.ports.length →
    ∃ t, exec (.tsample p) s = .next t ∧
      portOf (spAt t p) (tPort q.word) = { portOf (spAt s p) (tPort q.word) with shadow := some (fld q.word 119 119, fld q.word 63 32) } ∧
      ∀ n, n ≠ tPort q.word → portOf (spAt t p) n = portOf (spAt s p) n

/-- A ready legal VOP whose sources hold no poison reads them as the sc of issue finds them (the model's choice, log entry 69), occupies
N/64 sc (N/32 for EXP and SILU, rounded up), completes 16 sc after the last of them, and writes to d, to be visible then, the result of
its operation on each element: a + b, a × b, a × b + d, a × scalar, a, exp a, a/(1 + exp(−a)). A ready SMARK with reserved bits zero, on a
spindle that has not marked the open step, issues once stream F's earlier instructions have completed and marks the spindle.
(08_training_step.md) -/
def Obligations.ElementwiseCompletes : Prop :=
  (∀ (s : State) (p : Nat) (q : QEntry) (l : Loc), Ready s p 3 q → isOp 0x18 121 118 0 q.word = true → l = issuePos s p 3 →
    vopIllegal 1 q.word = false → Loc.clean l (cdiv (vopN q.word) 64) 16 (vopIns 0 1 q.word) = true → 
    exec (.vopAdd p) s = .next (closePos s p (l.flyDo (cdiv (vopN q.word) 64) 16 (vopIns 0 1 q.word) (vopOut 0 1 (fun a b _ => fadd a b) q.word)))) ∧
  (∀ (s : State) (p : Nat) (q : QEntry) (l : Loc), Ready s p 3 q → isOp 0x18 121 118 1 q.word = true → l = issuePos s p 3 →
    vopIllegal 1 q.word = false → Loc.clean l (cdiv (vopN q.word) 64) 16 (vopIns 1 1 q.word) = true → 
    exec (.vopMul p) s = .next (closePos s p (l.flyDo (cdiv (vopN q.word) 64) 16 (vopIns 1 1 q.word) (vopOut 1 1 (fun a b _ => fmul a b) q.word)))) ∧
  (∀ (s : State) (p : Nat) (q : QEntry) (l : Loc), Ready s p 3 q → isOp 0x18 121 118 2 q.word = true → l = issuePos s p 3 →
    vopIllegal 1 q.word = false → Loc.clean l (cdiv (vopN q.word) 64) 16 (vopIns 2 1 q.word) = true → 
    exec (.vopFma p) s = .next (closePos s p (l.flyDo (cdiv (vopN q.word) 64) 16 (vopIns 2 1 q.word) (vopOut 2 1 (fun a b d => ffma a b d) q.word)))) ∧
  (∀ (s : State) (p : Nat) (q : QEntry) (l : Loc), Ready s p 3 q → isOp 0x18 121 118 3 q.word = true → l = issuePos s p 3 →
    vopIllegal 2 q.word = false → Loc.clean l (cdiv (vopN q.word) 64) 16 (vopIns 3 2 q.word) = true → 
    exec (.vopScale p) s = .next (closePos s p (l.flyDo (cdiv (vopN q.word) 64) 16 (vopIns 3 2 q.word) (vopOut 3 2 (fun a b _ => fmul a b) q.word)))) ∧
  (∀ (s : State) (p : Nat) (q : QEntry) (l : Loc), Ready s p 3 q → isOp 0x18 121 118 4 q.word = true → l = issuePos s p 3 →
    vopIllegal 0 q.word = false → Loc.clean l (cdiv (vopN q.word) 64) 16 (vopIns 4 0 q.word) = true → 
    exec (.vopCopy p) s = .next (closePos s p (l.flyDo (cdiv (vopN q.word) 64) 16 (vopIns 4 0 q.word) (vopOut 4 0 (fun a _ _ => a) q.word)))) ∧
  (∀ (s : State) (p : Nat) (q : QEntry) (l : Loc), Ready s p 3 q → isOp 0x18 121 118 5 q.word = true → l = issuePos s p 3 →
    vopIllegal 0 q.word = false → Loc.clean l (cdiv (vopN q.word) 32) 16 (vopIns 5 0 q.word) = true → 
    exec (.vopExp p) s = .next (closePos s p (l.flyDo (cdiv (vopN q.word) 32) 16 (vopIns 5 0 q.word) (vopOut 5 0 (fun a _ _ => fexp a) q.word)))) ∧
  (∀ (s : State) (p : Nat) (q : QEntry) (l : Loc), Ready s p 3 q → isOp 0x18 121 118 6 q.word = true → l = issuePos s p 3 →
    vopIllegal 0 q.word = false → Loc.clean l (cdiv (vopN q.word) 32) 16 (vopIns 6 0 q.word) = true → 
    exec (.vopSilu p) s = .next (closePos s p (l.flyDo (cdiv (vopN q.word) 32) 16 (vopIns 6 0 q.word) (vopOut 6 0 (fun a _ _ => silu a) q.word)))) ∧
  (∀ (s : State) (p : Nat) (q : QEntry) (l : Loc), Ready s p 3 q → isOp 0x18 121 118 7 q.word = true → l = issuePos s p 3 →
    reservedClear q.word [(127, 118)] = true → l.sp.marked = false → 
    exec (.smark p) s = .next (closePos s p ((l.pop 3 (fenceAt l 3) 1 (fenceAt l 3)).mod fun sp => { sp with marked := true })))

/-- A ready VNORM or VSMAX with legal fields whose record holds no poison and is legal, for SCORE with a header of P that takes the
probabilities, and whose sources hold no poison, takes its occupation and writes its rows, to be visible when it completes: VNORM the
normalised rows and, with STAT, the statistics; SCORE the probabilities and the state of each row; MERGE the merged accumulators; FINAL
the accumulators over their sums (normOut, scoreOut, mergeOut, finalOut). (08_training_step.md) -/
def Obligations.NormAndSoftmaxComplete : Prop :=
  (∀ (s : State) (p : Nat) (q : QEntry) (l0 : Loc), Ready s p 3 q → isOp 0x19 121 121 0 q.word = true → vnormBad q.word = false → l0 = (issuePos s p 3).scrub (flyPar q.word) 32 →
    l0.poisonIn (flyPar q.word) 32 = none → normRecBad false q.word (normRec (l0.rdN (flyPar q.word) 32)) = false →
    Loc.clean l0 (cdiv ((normRec (l0.rdN (flyPar q.word) 32)).nr * (normRec (l0.rdN (flyPar q.word) 32)).nc) 32) 24 (normIns false q.word (normRec (l0.rdN (flyPar q.word) 32))) = true →
    exec (.vnormRms p) s = .next (closePos s p (l0.flyDo (cdiv ((normRec (l0.rdN (flyPar q.word) 32)).nr * (normRec (l0.rdN (flyPar q.word) 32)).nc) 32) 24 (normIns false q.word (normRec (l0.rdN (flyPar q.word) 32))) (normOut false q.word (normRec (l0.rdN (flyPar q.word) 32)))))) ∧
  (∀ (s : State) (p : Nat) (q : QEntry) (l0 : Loc), Ready s p 3 q → isOp 0x19 121 121 1 q.word = true → vnormBad q.word = false → l0 = (issuePos s p 3).scrub (flyPar q.word) 32 →
    l0.poisonIn (flyPar q.word) 32 = none → normRecBad true q.word (normRec (l0.rdN (flyPar q.word) 32)) = false →
    Loc.clean l0 (cdiv ((normRec (l0.rdN (flyPar q.word) 32)).nr * (normRec (l0.rdN (flyPar q.word) 32)).nc) 32) 24 (normIns true q.word (normRec (l0.rdN (flyPar q.word) 32))) = true →
    exec (.vnormLayer p) s = .next (closePos s p (l0.flyDo (cdiv ((normRec (l0.rdN (flyPar q.word) 32)).nr * (normRec (l0.rdN (flyPar q.word) 32)).nc) 32) 24 (normIns true q.word (normRec (l0.rdN (flyPar q.word) 32))) (normOut true q.word (normRec (l0.rdN (flyPar q.word) 32)))))) ∧
  (∀ (s : State) (p : Nat) (q : QEntry) (l0 l1 : Loc) (r : SmaxRec) (h : Header), Ready s p 3 q → isOp 0x1A 121 120 0 q.word = true → vsmaxBad q.word = false →
    l0 = (issuePos s p 3).scrub (flyPar q.word) 64 → l0.poisonIn (flyPar q.word) 64 = none → r = smaxRec (l0.rdN (flyPar q.word) 64) → r.ok = true →
    l1 = l0.scrub r.phdr 64 → h = readHeader l1 r.phdr → scoreBad r = false → scoreFault (lnum s p) h r = false → scoreFormBad q.word h r = false →
    Loc.clean l1 (cdiv (r.nr * r.nc) 32) 24 (scoreIns r ++ [(r.phdr, 64)]) = true →
    exec (.vsmaxScore p) s = .next (closePos s p (l1.flyDo (cdiv (r.nr * r.nc) 32) 24 (scoreIns r ++ [(r.phdr, 64)]) (scoreOut s p q r h)))) ∧
  (∀ (s : State) (p : Nat) (q : QEntry) (l0 : Loc), Ready s p 3 q → isOp 0x1A 121 120 1 q.word = true → vsmaxBad q.word = false → l0 = (issuePos s p 3).scrub (flyPar q.word) 64 →
    l0.poisonIn (flyPar q.word) 64 = none → (smaxRec (l0.rdN (flyPar q.word) 64)).ok = true → (mergeIns (smaxRec (l0.rdN (flyPar q.word) 64))).all (fun x => inDist x.1 x.2) = true →
    Loc.clean l0 (cdiv ((smaxRec (l0.rdN (flyPar q.word) 64)).nr * (smaxRec (l0.rdN (flyPar q.word) 64)).dv) 64) 16 (mergeIns (smaxRec (l0.rdN (flyPar q.word) 64))) = true →
    exec (.vsmaxMerge p) s = .next (closePos s p (l0.flyDo (cdiv ((smaxRec (l0.rdN (flyPar q.word) 64)).nr * (smaxRec (l0.rdN (flyPar q.word) 64)).dv) 64) 16 (mergeIns (smaxRec (l0.rdN (flyPar q.word) 64))) (mergeOut (smaxRec (l0.rdN (flyPar q.word) 64)))))) ∧
  (∀ (s : State) (p : Nat) (q : QEntry) (l0 : Loc), Ready s p 3 q → isOp 0x1A 121 120 2 q.word = true → vsmaxBad q.word = false → l0 = (issuePos s p 3).scrub (flyPar q.word) 64 →
    l0.poisonIn (flyPar q.word) 64 = none → (smaxRec (l0.rdN (flyPar q.word) 64)).ok = true → (finalIns (smaxRec (l0.rdN (flyPar q.word) 64)) ++ [((smaxRec (l0.rdN (flyPar q.word) 64)).dst, (smaxRec (l0.rdN (flyPar q.word) 64)).nr * (smaxRec (l0.rdN (flyPar q.word) 64)).dv * esz (bitOf q.word 118))]).all (fun x => inDist x.1 x.2) = true →
    Loc.clean l0 (cdiv ((smaxRec (l0.rdN (flyPar q.word) 64)).nr * (smaxRec (l0.rdN (flyPar q.word) 64)).dv) 64) 24 (finalIns (smaxRec (l0.rdN (flyPar q.word) 64))) = true →
    exec (.vsmaxFinal p) s = .next (closePos s p (l0.flyDo (cdiv ((smaxRec (l0.rdN (flyPar q.word) 64)).nr * (smaxRec (l0.rdN (flyPar q.word) 64)).dv) 64) 24 (finalIns (smaxRec (l0.rdN (flyPar q.word) 64))) (finalOut q.word (smaxRec (l0.rdN (flyPar q.word) 64))))))

/-- A ready VQUANT with legal fields whose header is legal, with bit 119 set where its format code is 7, whose source lies in the distaff,
whose header's addresses and blocks pass, and of whose header and elements none is poisoned in the sc that reads it, takes N × B elements
at 128 an sc, 64 with a side-list, each as its sc finds it, and writes its blocks (vquantOut). A ready VRAND with legal fields whose
record is legal and holds no poison, and whose sources hold none, takes its elements at 128 an sc in the dense form and 16 in the strided
form, and writes the dropped elements or the draws (dropOut, bitsOut). (03_number_formats.md, 07_backward.md) -/
def Obligations.QuantiseAndDrawComplete : Prop :=
  (∀ (s : State) (p : Nat) (q : QEntry) (l0 m : Loc) (h : Header), Ready s p 3 q → isCls 0x1B q.word = true → vquantBad q.word = false →
    l0 = (issuePos s p 3).scrub (vqHdr q.word) 64 → h = readHeader l0 (vqHdr q.word) → (h.fmt = 7 → bitOf q.word 119 = true) → h.ok = true →
    inDist (vqSrc q.word) (vqBytes h q.word) = true → vquantFault s p h q.word = false →
    m = (l0.fly (vqOcc h q.word) 18).reading [(vqHdr q.word, 64), (vqSrc q.word, vqBytes h q.word)] → m.poisonIn (vqHdr q.word) 64 = none → vqPoison h q.word (issueAt l0 3) m = none →
    exec (.vquant p) s = .next (closePos s p (vquantOut s p q h (issueAt l0 3) m))) ∧
  (∀ (s : State) (p : Nat) (q : QEntry) (l0 : Loc), Ready s p 3 q → isOp 0x1C 121 121 0 q.word = true → vrandBad q.word = false → l0 = (issuePos s p 3).scrub (flyPar q.word) 64 →
    l0.poisonIn (flyPar q.word) 64 = none → randRecBad 0 q.word (randRec (l0.rdN (flyPar q.word) 64)) = false →
    Loc.clean l0 (cdiv ((randRec (l0.rdN (flyPar q.word) 64)).nr * (randRec (l0.rdN (flyPar q.word) 64)).nc) (if fld q.word 120 120 = 0 then 128 else 16)) 24 (randIns 0 q.word (randRec (l0.rdN (flyPar q.word) 64))) = true →
    exec (.vrandDrop p) s = .next (closePos s p (l0.flyDo (cdiv ((randRec (l0.rdN (flyPar q.word) 64)).nr * (randRec (l0.rdN (flyPar q.word) 64)).nc) (if fld q.word 120 120 = 0 then 128 else 16)) 24 (randIns 0 q.word (randRec (l0.rdN (flyPar q.word) 64))) (dropOut (numAt s p) (randRec (l0.rdN (flyPar q.word) 64)) q.word)))) ∧
  (∀ (s : State) (p : Nat) (q : QEntry) (l0 : Loc), Ready s p 3 q → isOp 0x1C 121 121 1 q.word = true → vrandBad q.word = false → l0 = (issuePos s p 3).scrub (flyPar q.word) 64 →
    l0.poisonIn (flyPar q.word) 64 = none → randRecBad 1 q.word (randRec (l0.rdN (flyPar q.word) 64)) = false →
    Loc.clean l0 (cdiv ((randRec (l0.rdN (flyPar q.word) 64)).nr * (randRec (l0.rdN (flyPar q.word) 64)).nc) (if fld q.word 120 120 = 0 then 128 else 16)) 24 (randIns 1 q.word (randRec (l0.rdN (flyPar q.word) 64))) = true →
    exec (.vrandBits p) s = .next (closePos s p (l0.flyDo (cdiv ((randRec (l0.rdN (flyPar q.word) 64)).nr * (randRec (l0.rdN (flyPar q.word) 64)).nc) (if fld q.word 120 120 = 0 then 128 else 16)) 24 (randIns 1 q.word (randRec (l0.rdN (flyPar q.word) 64))) (bitsOut (numAt s p) (randRec (l0.rdN (flyPar q.word) 64)) q.word))))

/-- A ready VOPT with legal fields whose record, header and ranges pass: under a verdict of a non-finite step it only completes, 2 sc
after its issue; otherwise, with no poison in its sources, it takes its elements at 16 an sc (32 for SGD) and writes the step (optOut). A
ready VLOSS with legal fields whose record is legal and holds no poison, and whose sources hold none, takes its elements at 16 an sc and
writes gradients and losses (lossOut). A ready VCHECK with legal fields judges the pending check of its half that is ready, in the sc from
which it is (vcheckDo), and only completes where none is pending. (06_quantisation.md, 08_training_step.md) -/
def Obligations.OptimizerAndLossComplete : Prop :=
  (∀ (s : State) (p : Nat) (q : QEntry) (l0 : Loc) (rc : OptRec) (h : Header), Ready s p 3 q → isOp 0x1D 121 121 0 q.word = true → voptBad q.word = false →
    l0 = (issuePos s p 3).scrub (voPar q.word) 64 → l0.poisonIn (voPar q.word) 64 = none → rc = optRec (l0.rdN (voPar q.word) 64) →
    h = readHeader l0 (voHdr q.word) → (voBf q.word = false → h.fmt = 7 → bitOf q.word 120 = true) → voptFault (lnum s p) h q.word = false →
    optRecBad s p true rc h q.word = false →
    ((numAt s p).verdict = true → exec (.voptAdam p) s = .next (closePos s p (l0.pop 3 (issueAt l0 3) 1 (issueAt l0 3 + 2)))) ∧
    ((numAt s p).verdict = false → Loc.clean l0 (cdiv (voN h q.word) 16) 40 (voIns true rc h q.word) = true →
      exec (.voptAdam p) s = .next (closePos s p (l0.flyDo (cdiv (voN h q.word) 16) 40 (voIns true rc h q.word) (optOut s p true rc h q))))) ∧
  (∀ (s : State) (p : Nat) (q : QEntry) (l0 : Loc) (rc : OptRec) (h : Header), Ready s p 3 q → isOp 0x1D 121 121 1 q.word = true → voptBad q.word = false →
    l0 = (issuePos s p 3).scrub (voPar q.word) 64 → l0.poisonIn (voPar q.word) 64 = none → rc = optRec (l0.rdN (voPar q.word) 64) →
    h = readHeader l0 (voHdr q.word) → (voBf q.word = false → h.fmt = 7 → bitOf q.word 120 = true) → voptFault (lnum s p) h q.word = false →
    optRecBad s p false rc h q.word = false →
    ((numAt s p).verdict = true → exec (.voptSgd p) s = .next (closePos s p (l0.pop 3 (issueAt l0 3) 1 (issueAt l0 3 + 2)))) ∧
    ((numAt s p).verdict = false → Loc.clean l0 (cdiv (voN h q.word) 32) 40 (voIns false rc h q.word) = true →
      exec (.voptSgd p) s = .next (closePos s p (l0.flyDo (cdiv (voN h q.word) 32) 40 (voIns false rc h q.word) (optOut s p false rc h q))))) ∧
  (∀ (s : State) (p : Nat) (q : QEntry) (l0 : Loc), Ready s p 3 q → isCls 0x1E q.word = true → vlossBad q.word = false → l0 = (issuePos s p 3).scrub (flyPar q.word) 64 →
    l0.poisonIn (flyPar q.word) 64 = none → lossRecBad q.word (lossRec (l0.rdN (flyPar q.word) 64)) = false →
    Loc.clean l0 (cdiv ((lossRec (l0.rdN (flyPar q.word) 64)).nr * (lossRec (l0.rdN (flyPar q.word) 64)).v) 16) 32 (lossIns (lossRec (l0.rdN (flyPar q.word) 64))) = true →
    exec (.vloss p) s = .next (closePos s p (l0.flyDo (cdiv ((lossRec (l0.rdN (flyPar q.word) 64)).nr * (lossRec (l0.rdN (flyPar q.word) 64)).v) 16) 32 (lossIns (lossRec (l0.rdN (flyPar q.word) 64))) (lossOut s p (lossRec (l0.rdN (flyPar q.word) 64)) q)))) ∧
  (∀ (s : State) (p : Nat) (q : QEntry) (l : Loc) (t : Nat) (c : Check), Ready s p 3 q → isCls 0x1F q.word = true → l = issuePos s p 3 →
    vcheckBad q.word = false → pendingOf l.sp (vcHalf q.word) = some c → c.ready = some t → 
    exec (.vcheck p) s = .next (closePos s p (vcheckDo s p q c t l))) ∧
  (∀ (s : State) (p : Nat) (q : QEntry) (l : Loc), Ready s p 3 q → isCls 0x1F q.word = true → l = issuePos s p 3 →
    vcheckBad q.word = false → pendingOf l.sp (vcHalf q.word) = none → 
    exec (.vcheck p) s = .next (closePos s p (l.fly 1 1)))

/-- From every state whose memories are canonical: when exec of any of the seven elementwise VOPs at a position answers a next state and
the head word of stream F is q, every byte of the distaff outside [d, d + N × z) reads, once the writes under way have landed, as it would
have, and where no write was under way to it it reads as before, z being 2 in BF16 and 4 in FP32; the semaphores, pending SSIGs, whorl,
carder, reeler, full/empty bits, the scrub's place, the fetch port, the latched SYNC error, the step mark, the stop of a half, the frame's
phase, skip and service state and the other streams are unchanged, of the clock only the present moves, the count of outlier entries does
not fall, and the hank is as it was or as its completed POPs leave it. N, d and z are read from q as the instruction reads them.
(08_training_step.md) -/
def Obligations.ElementwiseStoresOnlyItsArray : Prop :=
  ∀ (c : Instr) (s t : State) (p : Nat) (q : QEntry), MemOk s →
    c ∈ [Instr.vopAdd p, .vopMul p, .vopFma p, .vopScale p, .vopCopy p, .vopExp p, .vopSilu p] →
    (strmOf (spAt s p) 3).queue.head? = some q → exec c s = .next t →
    BytesOutside [(vopD q.word, vopN q.word * esz (bitOf q.word 117))] p s t ∧ FlyerKeeps p s t

/-- From every state whose memories are canonical: when exec of VNORM, VSMAX MERGE or VSMAX FINAL at a position answers a next state and
the head word of stream F is q, every byte outside the outputs that the record at its PAR names (VNORM: DST and, with STAT, the
statistics; MERGE: the old accumulators; FINAL: DST) reads, once the writes under way have landed, as it would have, and where no write
was under way to it as before; what the flyer does not own is unchanged (FlyerKeeps). (08_training_step.md) -/
def Obligations.RowsStoreOnlyTheirOutputs : Prop :=
  ∀ (s t : State) (p : Nat) (q : QEntry) (rn : NormRec) (rs : SmaxRec), MemOk s → (strmOf (spAt s p) 3).queue.head? = some q →
    rn = normRec ((issuePos s p 3).rdN (flyPar q.word) 32) → rs = smaxRec ((issuePos s p 3).rdN (flyPar q.word) 64) →
    ((exec (.vnormRms p) s = .next t ∨ exec (.vnormLayer p) s = .next t) →
      BytesOutside ([(rn.dst, rn.nr * rn.nc * esz (bitOf q.word 120))] ++ (if bitOf q.word 119 then [(rn.sa, rn.nr * 8)] else [])) p s t ∧
        FlyerKeeps p s t) ∧
    (exec (.vsmaxMerge p) s = .next t → BytesOutside [(rs.oa, rs.nr * rs.dv * 4)] p s t ∧ FlyerKeeps p s t) ∧
    (exec (.vsmaxFinal p) s = .next t → BytesOutside [(rs.dst, rs.nr * rs.dv * esz (bitOf q.word 118))] p s t ∧ FlyerKeeps p s t)

/-- From every state whose memories are canonical, with no write under way to d: a ready legal VOP ADD, MUL or COPY of N elements, whose
sources hold no poison, answers a next state in which, once the writes under way have landed, element i of d, for every i below N, reads
as the sum, the product, or the copy of elements i of a and b as the sc of issue finds them (in BF16, rounded once to bfloat16). That
every element is read as that sc finds it, also where a write lands while the VOP still occupies the flyer, is the model's choice (log
entry 69, unsafe). (08_training_step.md, 03_number_formats.md) -/
def Obligations.VopWritesTheResult : Prop :=
  ∀ (s : State) (p op : Nat) (c : Instr) (q : QEntry) (f : F32 → F32 → F32 → F32),
    (op, c, f) ∈ [(0, Instr.vopAdd p, fun a b _ => fadd a b), (1, Instr.vopMul p, fun a b _ => fmul a b), (4, Instr.vopCopy p, fun a _ _ => a)] →
    MemOk s → Ready s p 3 q → isOp 0x18 121 118 op q.word = true → vopIllegal (if op = 4 then 0 else 1) q.word = false →
    Loc.clean (issuePos s p 3) (cdiv (vopN q.word) 64) 16 (vopIns op (if op = 4 then 0 else 1) q.word) = true →
    (∀ e ∈ (spAt s p).pend, e.off + e.data.length ≤ vopD q.word ∨ vopD q.word + vopN q.word * esz (bitOf q.word 117) ≤ e.off) →
    ∃ t, exec c s = .next t ∧ ∀ i, i < vopN q.word →
      (readVals (soonLoc t p) (bitOf q.word 117) (vopD q.word) (vopN q.word))[i]? =
        ((vopVals op (if op = 4 then 0 else 1) f q.word (issuePos s p 3))[i]?).map
          fun v => if bitOf q.word 117 then widen16 (narrow16 v) else canon32 v

/-- A ready legal GET or PUT whose remote range raises no event copies when it lies in the own window and its ranges do not overlap, the
landing of a PUT being known at once; a PUT there that has the final flag leaves its lines to be presented, 8 to an sc, as the reeler
takes them (the model's choice, log entry 113). Elsewhere a GET or PUT leaves its lines to be presented. A ready legal ADD whose address
raises no event leaves its packets to be presented, those of a run or of the blocks of a tensor whose header passes; its packets use that
header as the sc of issue reads it, and carry its poison (the model's choice, log entries 99 and 100). l is the position as the sc of
issue finds it. (09_memory_model.md) -/
def Obligations.CmoveCompletes : Prop :=
  (∀ (s : State) (p : Nat) (q : QEntry) (l : Loc), Ready s p 4 q → isOp 0x20 121 120 0 q.word = true → l = issuePos s p 4 →
    moveOk q.word = true → rangeEvent s p (cmAddr q.word) (cmLen q.word) = none → isOwn s p (cmAddr q.word) = true → ownClash s p false q.word = false → 
    exec (.cmoveGet p) s = .next (closePos s p (ownMove s p false q l))) ∧
  (∀ (s : State) (p : Nat) (q : QEntry) (l : Loc), Ready s p 4 q → isOp 0x20 121 120 0 q.word = true → l = issuePos s p 4 →
    moveOk q.word = true → rangeEvent s p (cmAddr q.word) (cmLen q.word) = none → isOwn s p (cmAddr q.word) = false → 
    exec (.cmoveGet p) s = .next (remoteGet s p q l)) ∧
  (∀ (s : State) (p : Nat) (q : QEntry) (l : Loc), Ready s p 4 q → isOp 0x20 121 120 1 q.word = true → l = issuePos s p 4 →
    moveOk q.word = true → rangeEvent s p (cmAddr q.word) (cmLen q.word) = none → isOwn s p (cmAddr q.word) = true → ownClash s p true q.word = false → ownFinal true q.word = true → 
    exec (.cmovePut p) s = .next (closePos s p (ownPut s p q l))) ∧
  (∀ (s : State) (p : Nat) (q : QEntry) (l : Loc) (u : Nat), Ready s p 4 q → isOp 0x20 121 120 1 q.word = true → l = issuePos s p 4 →
    moveOk q.word = true → rangeEvent s p (cmAddr q.word) (cmLen q.word) = none → isOwn s p (cmAddr q.word) = true → ownClash s p true q.word = false → u = ownLast s p true q.word (issueAt l 4) → ownFinal true q.word = false → 
    exec (.cmovePut p) s = .next (noteLanding (closePos s p (ownMove s p true q l)) p u
      { Access.blank .putLine with src := lnum s p, tag := l.sp.carder.nextTag })) ∧
  (∀ (s : State) (p : Nat) (q : QEntry) (l : Loc), Ready s p 4 q → isOp 0x20 121 120 1 q.word = true → l = issuePos s p 4 →
    moveOk q.word = true → rangeEvent s p (cmAddr q.word) (cmLen q.word) = none → isOwn s p (cmAddr q.word) = false → 
    exec (.cmovePut p) s = .next (remotePut s p q l)) ∧
  (∀ (s : State) (p : Nat) (q : QEntry) (l : Loc), Ready s p 4 q → isOp 0x20 121 120 2 q.word = true → l = issuePos s p 4 →
    addBad q.word = false → addEvent s p (cmAddr q.word) = none → cmFmt q.word ≤ 1 → 
    exec (.cmoveAdd p) s = .next (closePos s p (addDo s p q (cmLen q.word) (cmLen q.word) l))) ∧
  (∀ (s : State) (p : Nat) (q : QEntry) (l : Loc) (h : Header) (m : Loc), Ready s p 4 q → isOp 0x20 121 120 2 q.word = true → l = issuePos s p 4 →
    addBad q.word = false → addEvent s p (cmAddr q.word) = none → 2 ≤ cmFmt q.word → m = l.scrub (cmLocal q.word) 64 → h = readHeader m (cmLocal q.word) → addFault (lnum s p) h q.word = none → 
    exec (.cmoveAdd p) s = .next (closePos s p (addDo s p q h.b (cmLen q.word * h.b) m h.raw (m.poisonIn (cmLocal q.word) 64))))

/-- From every state whose memories are canonical, with no write under way to [LOCAL, LOCAL + LEN): a ready legal GET whose remote range
lies in the own window and does not overlap the local one answers a next state in which every byte of [LOCAL, LOCAL + LEN) reads, once the
writes under way have landed, as the byte at the same place of the source range in the sc in which its line is read (eight lines to an sc,
each 9 sc before it is visible), every other byte of the distaff as it would have, and nothing outside the position has changed but what
its events bring. (09_memory_model.md) -/
def Obligations.OwnMoveCopies : Prop :=
  ∀ (s : State) (p : Nat) (q : QEntry), MemOk s → Ready s p 4 q → isOp 0x20 121 120 0 q.word = true → moveOk q.word = true →
    rangeEvent s p (cmAddr q.word) (cmLen q.word) = none → isOwn s p (cmAddr q.word) = true → ownClash s p false q.word = false →
    (∀ e ∈ (spAt s p).pend, e.off + e.data.length ≤ cmLocal q.word ∨ cmLocal q.word + cmLen q.word ≤ e.off) →
    ∃ t, exec (.cmoveGet p) s = .next t ∧ Confined p s t ∧ t.ports = s.ports ∧ BytesOutside [(cmLocal q.word, cmLen q.word)] p s t ∧
      ∀ i, i < cmLen q.word →
        soonByte t p (cmLocal q.word + i) =
        memGet ((issuePos s p 4).land (ownVis s p false q.word (issueAt (issuePos s p 4) 4)
          ((cmLocal q.word + i) / 64 - cmLocal q.word / 64) - 9)).sp.distaff.mem (toLocal s p (cmAddr q.word) + i)

/-- The first access that waits at the carder of a position that is on, in the sc t in which the carder presents it, whose time is known,
once the flits that were held back before t have entered the mesh (what delays a flit and when that is known is the model's choice, log
entries 73 and 79), where neither the final-flag limit nor the 64-line limit holds it and no carder of a lower logical number presents in
that sc: a loft line that hits is served from the loft; another whose channel, if it is an HBM line, has a slot of the job, and whose
flits all fit, is admitted, and a loft line that misses takes its way only then (the model's choice, log entry 81: R257 speaks of the sc
of presentation); one whose flits do not all fit is held to the next sc. One command presents one access (the model's choice, log entry
33). The earliest GET reply to a position delivers its data, and the earliest acknowledgement of a write ends the wait for it.
(09_memory_model.md, 13_fabric_and_hbm.md) -/
def Obligations.FabricCompletes : Prop :=
  (∀ (s0 s : State) (p t : Nat) (a : Access) (rest : List Access) (l : Loc) (x : Loc × List Reply), p < 624 →
    (spAt s0 p).carder.present = a :: rest → t = presentAt s0 p a → s = settleBy s0 (portTime s0 p t 0) →
    live s p = true → clockKnown s p t = true → presentWaits s p a = false → lowerFirst s p t = false → l = (openPos s0 p).at_ t → a.loft = true → loftMiss l a = false → x = loftHit p t a (l.card fun c => { c with present := rest }) →
    exec (.meshAdmission p) s0 = .next { closePos s p (presented x.1 a.inst t) with
      fabric := { (closePos s p (presented x.1 a.inst t)).fabric with
        replies := (closePos s p (presented x.1 a.inst t)).fabric.replies ++ x.2 } }) ∧
  (∀ (s0 s : State) (p t : Nat) (a : Access) (rest : List Access) (l out : Loc), p < 624 →
    (spAt s0 p).carder.present = a :: rest → t = presentAt s0 p a → s = settleBy s0 (portTime s0 p t 0) →
    live s p = true → clockKnown s p t = true → presentWaits s p a = false → lowerFirst s p t = false → l = (openPos s0 p).at_ t → (a.loft = true → loftMiss l a = true) →
    (isHbm a.addr = true → slotsFor s ((jobAt s p).getD 8) (hbmOff a.addr) ≠ 0) →
    (flitsFor s p t a).all (fits s.fabric.flits) = true → out = l.card (fun c => { c with present := rest }) →
    exec (.meshAdmission p) s0 = .next (admitDo s p t a (if a.loft then loftAlloc a out else out))) ∧
  (∀ (s0 s : State) (p t : Nat) (a : Access) (rest : List Access) (l : Loc), p < 624 →
    (spAt s0 p).carder.present = a :: rest → t = presentAt s0 p a → s = settleBy s0 (portTime s0 p t 0) →
    live s p = true → clockKnown s p t = true → presentWaits s p a = false → lowerFirst s p t = false → l = (openPos s0 p).at_ t → (a.loft = true → loftMiss l a = true) →
    (isHbm a.addr = true → slotsFor s ((jobAt s p).getD 8) (hbmOff a.addr) ≠ 0) →
    (flitsFor s p t a).all (fits s.fabric.flits) = false →
    exec (.meshAdmission p) s0 = .next (closePos s p (holdBack t a rest l))) ∧
  (∀ (s s' : State) (p t : Nat) (r : Reply), p < 624 → takeReply s p (fun r => r.acc.kind == .getLine) = some (r, t, s') →
    exec (.getLineArrival p) s = .next (getDeliver s' p t r.acc r.data r.poison (openPos s p))) ∧
  (∀ (s s' : State) (p t : Nat) (r : Reply), p < 624 → takeReply s p (fun r => r.ack && r.acc.kind != .cfe) = some (r, t, s') →
    exec (.writeAckArrival p) s = .next (closePos s' p
      (((openPos s p).card fun c => { c with sent := c.sent.filter (·.tag != r.acc.tag) }).at_ t)))

/-- A ready legal CHBM whose record holds no poison, is legal and lies in the HBM leaves its lines to be presented. Once the flits that
were held back before the grant have entered the mesh, a channel grants the line its credits and order choose, unless a mover's line of
the same job comes first there or the flit of the line's data is held back still; data that arrive are delivered with the code's result, a
refill's to the hank; the earliest granted write that its final flag does not hold lands, one with the flag after what its sender sent
before it. While the bell generator runs and the HBM is neither in self-refresh nor off, the next timetable cycle begins at its time.
Patrol scrub writes back the line it last found in error, or else reads its next line; a distaff's scrub reads its next line where the
position is on. Which of the lines that can be granted is first follows when each reached its channel (the model's choice, log entry 95).
(13_fabric_and_hbm.md, 20_faults_and_recovery.md) -/
def Obligations.HbmCompletes : Prop :=
  (∀ (s : State) (p : Nat) (q : QEntry) (l : Loc), Ready s p 4 q → isOp 0x21 121 120 0 q.word = true → chbmBad 0 q.word = false →
    l = (issuePos s p 4).scrub (chPar q.word) 32 → l.poisonIn (chPar q.word) 32 = none → (chbmRec (l.rdN (chPar q.word) 32)).ok 0 = true →
    (chbmRec (l.rdN (chPar q.word) 32)).outside 0 = none →
    exec (.chbmLoad p) s = .next (chbmDo s p 0 q (chbmRec (l.rdN (chPar q.word) 32)) l)) ∧
  (∀ (s : State) (p : Nat) (q : QEntry) (l : Loc), Ready s p 4 q → isOp 0x21 121 120 1 q.word = true → chbmBad 1 q.word = false →
    l = (issuePos s p 4).scrub (chPar q.word) 32 → l.poisonIn (chPar q.word) 32 = none → (chbmRec (l.rdN (chPar q.word) 32)).ok 1 = true →
    (chbmRec (l.rdN (chPar q.word) 32)).outside 1 = none →
    exec (.chbmStore p) s = .next (chbmDo s p 1 q (chbmRec (l.rdN (chPar q.word) 32)) l)) ∧
  (∀ (s : State) (p : Nat) (q : QEntry) (l : Loc), Ready s p 4 q → isOp 0x21 121 120 2 q.word = true → chbmBad 2 q.word = false →
    l = (issuePos s p 4).scrub (chPar q.word) 32 → l.poisonIn (chPar q.word) 32 = none → (chbmRec (l.rdN (chPar q.word) 32)).ok 2 = true →
    (chbmRec (l.rdN (chPar q.word) 32)).outside 2 = none →
    exec (.chbmStore2 p) s = .next (chbmDo s p 2 q (chbmRec (l.rdN (chPar q.word) 32)) l)) ∧
  (∀ (s0 s : State) (st ch g : Nat) (x : HbmAcc), st < 8 → ch < 32 → s = grantsBy s0 st ch → nextGrant s st ch = some x → g = grantAt s x →
    isLate s x.acc (!x.write) = false → moverAhead s x.job st ch (lineKey s x) = false →
    exec (.hbmGrant st ch) s0 = .next (runPos (grantLine s st ch g x) x.pos (·.at_ g))) ∧
  (∀ (s s' u : State) (p : Nat) (x : HbmAcc), p < 624 → takeGranted s p (fun x => !x.write) = some (x, s') → u = dropFlit s' x.acc true →
    exec (.hbmDataArrival p) s = .next (if x.mover then moverData s' p x else match x.acc.via with
      | some n => replyPort (hbmCode u x.off x.errs none) n x.at_ x.acc x.data (decide (2 ≤ x.errs))
      | none => getDeliver (hbmCode u x.off x.errs (some p)) p x.at_ x.acc x.data
          (if 2 ≤ x.errs then List.range (cdiv x.data.length 4) else []) (openPos (hbmCode u x.off x.errs (some p)) p))) ∧
  (∀ (s s' u : State) (p : Nat) (x : HbmAcc), p < 624 → takeGranted s p (fun x => x.write && !heldFinal s x) = some (x, s') →
    u = shotWrite s' (lineJob s' x) (hbmBase + x.off) x.data →
    exec (.hbmWriteCommit p) s = .next (if x.mover then runPos (hbmWrite u x.off x.data x.poison) p (·.at_ x.at_)
      else landed (hbmWrite (dropFlit u x.acc false) x.off x.data x.poison) p
        (if x.acc.final then max x.at_ (afterEarlier u p x.acc) else x.at_) (stackBridges p (stackOf x.off)) x.acc)) ∧
  (∀ s : State, s.bell.fired = true → s.bell.held = false → s.hbm.selfRefresh = false → s.power.off = false →
    ∃ t, exec .hbmTimetableCycle s = .next t ∧ t.hbm.cycle = s.hbm.cycle + 1 ∧
      t.bell = { s.bell with refTime := max s.bell.refTime (s.bell.lastBell + 42 * (s.hbm.cycle + 1)) } ∧
      t.hbm.credits = (if foreground s (s.hbm.cycle + 1) then cycleCredits s else [])) ∧
  (∀ (s : State) (n off : Nat), n < 8 → s.hbm.selfRefresh = false → s.power.off = false →
    (s.hbm.back.getD n none = none → exec (.patrolScrub n) s = .next (scrubRead s n)) ∧
    (s.hbm.back.getD n none = some off → exec (.patrolScrub n) s = .next (scrubBack s n off))) ∧
  (∀ (s : State) (p : Nat), p < 624 → live s p = true → exec (.distaffScrub p) s = .next (runPos s p fun l =>
    (l.scrub (64 * (spAt s p).distaff.scrub) 64).dist fun d =>
      { d with scrub := if (spAt s p).distaff.scrub + 1 = distSize / 64 then 0 else (spAt s p).distaff.scrub + 1 }))

/-- On a stack whose scrub holds no line to write back, with the HBM neither in self-refresh nor off: a slot reads the next line in order;
one symbol in error counts as corrected, two or more (or poison) as uncorrectable, and in both cases the line is held for the next slot;
bytes, errors and poison are unchanged. On a stack whose scrub holds a line, a slot leaves it without a recorded error where it has one
symbol in error, and poisoned without one where it has two or more; bytes, the next line in order and every other line's poison and error
are unchanged, and no line is held any more. (13_fabric_and_hbm.md) -/
def Obligations.PatrolScrubMends : Prop :=
  (∀ (s : State) (n off : Nat), n < 8 → s.hbm.selfRefresh = false → s.power.off = false → n < s.hbm.back.length →
    s.hbm.back.getD n none = none → off = stackLine n (s.hbm.scrub.getD n 0) → n < s.hbm.corr.length → n < s.hbm.uncorr.length →
    ∃ t, exec (.patrolScrub n) s = .next t ∧ t.hbm.mem = s.hbm.mem ∧ t.hbm.errs = s.hbm.errs ∧ t.hbm.poison = s.hbm.poison ∧
      (hbmErrs s off = 0 → t.hbm.back.getD n none = none) ∧
      (hbmErrs s off = 1 → t.hbm.back.getD n none = some off ∧ t.hbm.corr[n]? = some (sat32 (s.hbm.corr.getD n 0) 1)) ∧
      (2 ≤ hbmErrs s off → t.hbm.back.getD n none = some off ∧ t.hbm.uncorr[n]? = some (sat32 (s.hbm.uncorr.getD n 0) 1))) ∧
  (∀ (s : State) (n off : Nat), n < 8 → s.hbm.selfRefresh = false → s.power.off = false → s.hbm.back.getD n none = some off →
    ∃ t, exec (.patrolScrub n) s = .next t ∧ t.hbm.mem = s.hbm.mem ∧ t.hbm.scrub = s.hbm.scrub ∧ t.hbm.back.getD n none = none ∧
      (∀ x, x ≠ hbmLineNo off → getKey x t.hbm.errs = getKey x s.hbm.errs ∧ t.hbm.poison.contains x = s.hbm.poison.contains x) ∧
      (hbmErrs s off = 1 → getKey (hbmLineNo off) t.hbm.errs = none ∧ t.hbm.poison.contains (hbmLineNo off) = false) ∧
      (2 ≤ hbmErrs s off → getKey (hbmLineNo off) t.hbm.errs = none ∧ t.hbm.poison.contains (hbmLineNo off) = true))

/-- A ready legal OPEN at a port that is up and the job's, on a channel with no open side, opens its side. A SEND at the head of stream C
that may issue, bound to its sending side, with a credit and a legal local range, leaves its entry to be presented; without a credit it
begins to wait in its sc of issue, and a wait that no credit ends goes in sc t + T with E-0x407. A ready legal FREE of a receiving side
returns its credits. A partner's OPEN records its ring with all its credits, and a CREDIT that does not pass 65,535 adds its count.
(11_ply_ports.md, 12_many_devices.md) -/
def Obligations.ChannelsComplete : Prop :=
  (∀ (s : State) (p : Nat) (q : QEntry) (l : Loc), Ready s p 4 q → isOp 0x22 121 120 0 q.word = true → l = issuePos s p 4 →
    openBad q.word = false → portReady s p (cpPort q.word) = true → sideOpen (sendSide s (cpPort q.word) (cpCh q.word)) = false → sideOpen (recvSide s (cpPort q.word) (cpCh q.word)) = false → 
    exec (.cplyOpen p) s = .next (openDo s p q l)) ∧
  (∀ (s : State) (p : Nat) (q : QEntry) (x : ChanSide), p < 624 → (strmOf (spAt s p) 4).queue.head? = some q → mayIssueWaiting s p = true →
    q.marker = none → isOp 0x22 121 120 1 q.word = true → sendBad q.word = false → portReady s p (cpPort q.word) = true →
    sendSide s (cpPort q.word) (cpCh q.word) = some x → x.spd = lnum s p → x.credits ≠ 0 → inDist (cpLocal q.word) (x.lines * 64) = true →
    exec (.cplySend p) s = .next (sendDo s p q x (openPos s p))) ∧
  (∀ (s : State) (p t : Nat) (q : QEntry) (x : ChanSide), p < 624 → (strmOf (spAt s p) 4).queue.head? = some q → mayIssueWaiting s p = true →
    q.marker = none → isOp 0x22 121 120 1 q.word = true → sendBad q.word = false → portReady s p (cpPort q.word) = true →
    sendSide s (cpPort q.word) (cpCh q.word) = some x → x.spd = lnum s p → x.credits = 0 → (strmOf (spAt s p) 4).waitSince = none →
    t = issueAt (openPos s p) 4 →
    exec (.cplySend p) s = .next (closePos s p (((openPos s p).at_ t).strm 4 fun y => { y with waitSince := some t }))) ∧
  (∀ (s : State) (p : Nat) (q : QEntry) (l : Loc), Ready s p 4 q → isOp 0x22 121 120 2 q.word = true → l = issuePos s p 4 →
    cpOk q.word = true → cpCount q.word ≠ 0 → portReady s p (cpPort q.word) = true → boundTo s (recvSide s (cpPort q.word) (cpCh q.word)) p = true → 
    exec (.cplyFree p) s = .next (freeDo s p q l)) ∧
  (∀ (s : State) (p t : Nat) (q : QEntry) (x : ChanSide), p < 624 → (strmOf (spAt s p) 4).waitSince = some t →
    (strmOf (spAt s p) 4).queue.head? = some q → treadleRuns s p 4 = true → isOp 0x22 121 120 1 q.word = true →
    sendSide s (cpPort q.word) (cpCh q.word) = some x → x.credits = 0 →
    exec (.channelCreditTimeout p) s = .next (closePos s p
      ((((openPos s p).pop 4 (t + cpTimeout q.word) 1 (t + cpTimeout q.word)).kill 4).recEv s p 0x407 4 q.woff (cpPort q.word) 0 1))) ∧
  (∀ (s : State) (n ch : Nat) (t : Trans), n < 6 → ch < 8 → (portAt s n).state = 2 → ch < (portAt s n).send.length →
    ∃ u x, exec (.plyOpenReceive n ch t) s = .next u ∧ sendSide u n ch = some x ∧ x.entries = t.aux % 2 ^ 16 ∧
      x.lines = t.aux / 2 ^ 16 % 2 ^ 16 ∧ x.ring = t.addr ∧ x.linked = true ∧ x.credits = t.aux % 2 ^ 16 ∧ x.tail = 0) ∧
  (∀ (s : State) (n : Nat) (t : Trans) (x : ChanSide), n < 6 → (portAt s n).state = 2 → sendSide s n (t.aux % 8) = some x →
    x.credits + t.count ≤ 65535 →
    ∃ u, exec (.plyCreditReceive n t) s = .next u ∧ sendSide u n (t.aux % 8) = some { x with credits := x.credits + t.count })

/-- When a SEND issues on a side with c credits, the side is left with c − 1 credits, with the tail one entry on (0 after the last), and
with one more entry sent; the side's ring, entries and lines are unchanged, and so is every side of every other port and channel.
(11_ply_ports.md, 12_many_devices.md) -/
def Obligations.SendTakesOneCredit : Prop :=
  ∀ (s : State) (p : Nat) (q : QEntry) (x : ChanSide), p < 624 → (strmOf (spAt s p) 4).queue.head? = some q → mayIssueWaiting s p = true →
    q.marker = none → isOp 0x22 121 120 1 q.word = true → sendBad q.word = false → portReady s p (cpPort q.word) = true →
    sendSide s (cpPort q.word) (cpCh q.word) = some x → x.spd = lnum s p → x.credits ≠ 0 → inDist (cpLocal q.word) (x.lines * 64) = true →
    ∃ t, exec (.cplySend p) s = .next t ∧
      sendSide t (cpPort q.word) (cpCh q.word) = some { x with credits := x.credits - 1, tail := if x.tail + 1 = x.entries then 0 else x.tail + 1,
                                                               sent := (x.sent + 1) % 2 ^ 64 } ∧
      (∀ n c, (n, c) ≠ (cpPort q.word, cpCh q.word) → sendSide t n c = sendSide s n c) ∧ ∀ n c, recvSide t n c = recvSide s n c

/-- A ready legal CHOST with fewer than sixteen transfers of its spindle in flight is put in flight. The oldest transfer of a position
whose visibility bell has come, or that is late, moves its data; a late one also tells the bell that it waited until now. One whose data
are not there at its deadline is marked late with E-0xB08, a stop fault in strict mode; one in error leaves those in flight with E-0x504.
That the data move in the command that makes them visible is the model's choice (log entry 39). (01_bell.md, 14_host_interface.md) -/
def Obligations.HostTransfersComplete : Prop :=
  (∀ (s : State) (p : Nat) (q : QEntry) (l : Loc), Ready s p 4 q → isOp 0x23 121 121 0 q.word = true → l = issuePos s p 4 →
    chostBad q.word = false → (s.hif.xfers.filter fun x => x.pos == p).length < 16 → 
    exec (.chostGet p) s = .next (chostDo s p 0 q l)) ∧
  (∀ (s : State) (p : Nat) (q : QEntry) (l : Loc), Ready s p 4 q → isOp 0x23 121 121 1 q.word = true → l = issuePos s p 4 →
    chostBad q.word = false → (s.hif.xfers.filter fun x => x.pos == p).length < 16 → 
    exec (.chostPut p) s = .next (chostDo s p 1 q l)) ∧
  (∀ (s : State) (p : Nat) (x : Xfer), p < 624 → (xferOf s p fun x => x.late || decide (x.frame + 2 ≤ s.bell.count)) = some x → x.late = false →
    exec (.hostTransferVisible p) s = .next (xferDone s x (max (x.frame + 2) s.bell.count))) ∧
  (∀ (s : State) (p : Nat) (x : Xfer), p < 624 → (xferOf s p fun x => x.late || decide (x.frame + 2 ≤ s.bell.count)) = some x → x.late = true →
    ∃ n, exec (.hostTransferVisible p) s = .next { (xferDone s x (max (x.frame + 2) s.bell.count)) with
      bell := { (xferDone s x (max (x.frame + 2) s.bell.count)).bell with waitTill := max (xferDone s x (max (x.frame + 2) s.bell.count)).bell.waitTill (xferDone s x (max (x.frame + 2) s.bell.count)).bell.refTime, waitBy := n } }) ∧
  (∀ (s : State) (p : Nat) (x : Xfer), p < 624 →
    (xferOf s p fun x => !x.late && decide (x.frame + 2 ≤ if elastic s then s.bell.count + 1 else s.bell.count)) = some x →
    exec (.hostDataLate p) s = .next (raiseAt
      { s with hif := { s.hif with xfers := s.hif.xfers.map fun y => if y = x then { y with late := true } else y } } p
      { ev 0xB08 x.tag x.frame with kind := if elastic s then 0 else 1 })) ∧
  (∀ (s : State) (p : Nat) (x : Xfer), p < 624 → xferOf s p (fun _ => true) = some x → exec (.hostAccessError p) s = .next (xferError s x))

/-- From every state whose memories are canonical: when the oldest visible transfer of a position is a PUT that is not late, host memory
reads at HOST + i the byte that the window held at LOCAL + i, for every i below its length, and every other host byte as before; the
distaff's bytes are unchanged and the transfer leaves those in flight. That the data move in the command that makes them visible is the
model's choice (log entry 39). (01_bell.md, 14_host_interface.md) -/
def Obligations.PutMovesTheWindowToTheHost : Prop :=
  ∀ (s : State) (p : Nat) (x : Xfer), MemOk s → p < 624 → (xferOf s p fun x => x.late || decide (x.frame + 2 ≤ s.bell.count)) = some x →
    x.late = false → x.get = false →
    ∃ t, exec (.hostTransferVisible p) s = .next t ∧ t.hif.xfers = s.hif.xfers.erase x ∧
      (∀ i, i < 64 * x.lines → memGet t.hif.host (x.host + i) = distByte s p (x.local_ + i)) ∧
      (∀ a, a < x.host ∨ x.host + 64 * x.lines ≤ a → memGet t.hif.host a = memGet s.hif.host a) ∧ ∀ a, distByte t p a = distByte s p a

/-- A ready legal PUSH starts in its sc of issue where its lines are free then; where they are not, it waits, or raises E-0x360 where the
record asks for it and no spill can free them. A PUSH that waits starts in the sc of which it is known that its lines are free. A ready
legal POP moves the newest entry if its TAG and LINES match, raises E-0x361 if they do not or if neither region, cellar nor a refill holds
an entry, and otherwise waits. A wait that nothing can end by its timeout raises E-0x360 or E-0x362. The mover of a running position
starts what R209 lists; it sends its next line where it may and no line of the job is before it at the channel, in the sc of its credit: a
spill's line leaves with the bytes of the region and lands 237 sc later, a refill's with those of the HBM and arrives 240 sc later; and it
completes a spill or a refill whose last line has moved, which counts its lines. That a refill's line is read from the HBM at its grant,
one line to a command, is the model's choice (log entry 33), and so is which line of the job is before it at the channel (log entry 95).
(07_backward.md) -/
def Obligations.HankCompletes : Prop :=
  (∀ (s : State) (p : Nat) (q : QEntry) (l : Loc), Ready s p 4 q → isOp 0x24 121 120 0 q.word = true → l = issuePos s p 4 →
    chBad l.sp.hank.record q.word = false → roomAt l.sp.hank (chLines q.word + 1) (issueAt l 4) = some (issueAt l 4) → 
    exec (.chankPush p) s = .next (closePos s p (startPush (issueAt l 4) q l))) ∧
  (∀ (s : State) (p : Nat) (q : QEntry) (l : Loc), Ready s p 4 q → isOp 0x24 121 120 0 q.word = true → l = issuePos s p 4 →
    chBad l.sp.hank.record q.word = false → roomAt l.sp.hank (chLines q.word + 1) (issueAt l 4) ≠ some (issueAt l 4) → 
    exec (.chankPush p) s = .next (closePos s p (if l.sp.hank.record.fault && unrelievable l.sp.hank (chLines q.word) then l.hankErr s p 0x360 (issueAt l 4) q else l.hankWait (issueAt l 4) q))) ∧
  (∀ (s : State) (p : Nat) (w : HankWait), p < 624 → hankWaits s p 0 (openPos s p) = some w →
    exec (.chankPush p) s = .next (runPos s p (pushAgain w))) ∧
  (∀ (s : State) (p : Nat) (q : QEntry) (l : Loc) (e : HankEntry), Ready s p 4 q → isOp 0x24 121 120 1 q.word = true → l = issuePos s p 4 →
    chBad l.sp.hank.record q.word = false → l.sp.hank.top = some e → e.tag = chTag q.word → e.lines = chLines q.word → 
    exec (.chankPop p) s = .next (closePos s p (popDo (issueAt l 4) q e l))) ∧
  (∀ (s : State) (p : Nat) (q : QEntry) (l : Loc) (e : HankEntry), Ready s p 4 q → isOp 0x24 121 120 1 q.word = true → l = issuePos s p 4 →
    chBad l.sp.hank.record q.word = false → l.sp.hank.top = some e → (e.tag ≠ chTag q.word ∨ e.lines ≠ chLines q.word) → 
    exec (.chankPop p) s = .next (closePos s p (l.orderErr (issueAt l 4) q (some e)))) ∧
  (∀ (s : State) (p : Nat) (q : QEntry) (l : Loc), Ready s p 4 q → isOp 0x24 121 120 1 q.word = true → l = issuePos s p 4 →
    chBad l.sp.hank.record q.word = false → l.sp.hank.top = none → 
    exec (.chankPop p) s = .next (closePos s p (if l.sp.hank.cellar.isEmpty && !l.sp.hank.refilling then l.orderErr (issueAt l 4) q none else l.hankWait (issueAt l 4) q))) ∧
  (∀ (s : State) (p : Nat) (w : HankWait), p < 624 → hankWaits s p 0 (openPos s p) = some w →
    mayWake (spAt s p).hank w (w.since + chTimeout w.q.word) = false →
    exec (.hankPushTimeout p) s = .next (runPos s p fun l => l.hankErr s p 0x360 (w.since + chTimeout w.q.word) w.q)) ∧
  (∀ (s : State) (p : Nat) (w : HankWait), p < 624 → hankWaits s p 1 (openPos s p) = some w →
    mayWake (spAt s p).hank w (w.since + chTimeout w.q.word) = false →
    exec (.hankPopTimeout p) s = .next (runPos s p fun l => l.hankErr s p 0x362 (w.since + chTimeout w.q.word) w.q)) ∧
  (∀ (s : State) (p : Nat), p < 624 → moverRuns s p = true → (spAt s p).hank.mover = none →
    exec (.hankMoverStart p) s = .next (runPos s p fun l =>
      l.hankM fun h => { h with mover := (moverPick h).map fun m => { m with ready := l.sp.clock.lc } })) ∧
  (∀ (s : State) (p j off t o key : Nat) (m : Mover), p < 624 → moverNext s p = some (m, j, off, t) → key = grantKey s p m.ready t (lnum s p) true →
    moverAhead s j (stackOf off) (chanOf off) key = false → carderAhead s j (stackOf off) (chanOf off) key = false →
    o = (spAt s p).hank.off (m.ent.line + m.next) →
    exec (.hankMoverLine p) s = .next (moverStep s p j m off t) ∧
      ∃ x ∈ (moverStep s p j m off t).hbm.granted, x.mover = true ∧ x.pos = p ∧ x.off = off ∧ x.write = !m.refill ∧
        (m.refill = false → x.at_ = t + 237 ∧ x.data = (((openPos s p).at_ t).scrub o 64).rd o 64) ∧
        (m.refill = true → x.at_ = t + 240 ∧ x.acc.local_ = o ∧ x.data = hbmRead s off 64)) ∧
  (∀ (s : State) (p t : Nat) (m : Mover) (l : Loc), p < 624 → moverDone s p false (spAt s p).hank = some (m, t) →
    l = ((openPos s p).at_ t).hankM (fun h => { h with mover := none, region := h.region.tail, cellar := h.cellar ++ [{ m.ent with line := m.cell }] }) →
    exec (.hankSpillComplete p) s = .next (closePos s p
      (wakeHank s p t (highWater (l.count fun c => { c with spilled := sat32 c.spilled m.ent.all }))))) ∧
  (∀ (s : State) (p t : Nat) (m : Mover) (l : Loc), p < 624 → moverDone s p true (spAt s p).hank = some (m, t) →
    l = ((openPos s p).at_ t).hankM (fun h => { h with mover := none, region := m.ent :: h.region, cellar := h.cellar.dropLast }) →
    exec (.hankRefillComplete p) s = .next (closePos s p
      (wakeHank s p t (l.count fun c => { c with refilled := sat32 c.refilled m.ent.all }))))

/-- A ready legal POP on a region of entries of which no POP has started: when TAG and LINES match the newest entry, whose SEQ no other
entry has, then from the sc of the POP's completion on the region is left without that entry and the next push goes to its line, and the
cellar is unchanged; when they do not match, the region, the cellar and every byte of the distaff to which no copy within the own window
goes are unchanged, an entry with code 0x361 is due, and stream C dispatches nothing more. (07_backward.md) -/
def Obligations.HankIsLastInFirstOut : Prop :=
  ∀ (s : State) (p : Nat) (q : QEntry) (e : HankEntry) (pre : List HankEntry), Ready s p 4 q → isOp 0x24 121 120 1 q.word = true →
    chBad (spAt s p).hank.record q.word = false → (spAt s p).hank.region = pre ++ [e] → (∀ x ∈ pre ++ [e], x.popAt = none) →
    ∃ t, exec (.chankPop p) s = .next t ∧
      (e.tag = chTag q.word → e.lines = chLines q.word → (∀ x ∈ pre, x.seq ≠ e.seq) →
        (spAt t p).hank.cellar = (spAt s p).hank.cellar ∧
        ∀ u, issueAt (openPos s p) 4 + cdiv (e.lines + 1) 8 + 8 ≤ u →
          ((spAt t p).hank.settle u).region = pre ∧ ((spAt t p).hank.settle u).newest = e.line) ∧
      ((e.tag ≠ chTag q.word ∨ e.lines ≠ chLines q.word) →
        (spAt t p).hank.region = (spAt s p).hank.region ∧ (spAt t p).hank.cellar = (spAt s p).hank.cellar ∧
          (∃ x ∈ t.hif.due, x.code = 0x361) ∧ (strmOf (spAt t p) 4).dead = true ∧ ∀ a, Uncopied s p a → soonByte t p a = soonByte s p a)

/-- A ready CFE whose release is met, that is legal and whose target raises no event issues and waits for its presentation. The earliest
reply of a holding reeler to a CFE of a position that is on ends it there: a timeout reply raises E-0x210 where stream C runs, another
takes its acquire and, for TAKE and READF, its data, which the word at LOCAL reads as once they have landed. A wait entry that is what the
reeler takes next, in the sc of its expiry or earlier, acts on its word; the entry whose expiry comes first, and that is not served by
then, leaves the table of a position that is on with a timeout reply. (10_synchronisation.md) -/
def Obligations.FullEmptyOpsComplete : Prop :=
  (∀ (s : State) (p : Nat) (q : QEntry) (l : Loc), Ready s p 4 q → isOp 0x25 121 119 0 q.word = true → l = issuePos s p 4 →
    cfeFree s p q.word l.sp = true → cfeBad 0 q.word = false → cfeEvent s p (cfTarget q.word) = none → 
    exec (.cfeFill p) s = .next (closePos s p (cfeDo s p 0 q l))) ∧
  (∀ (s : State) (p : Nat) (q : QEntry) (l : Loc), Ready s p 4 q → isOp 0x25 121 119 1 q.word = true → l = issuePos s p 4 →
    cfeFree s p q.word l.sp = true → cfeBad 1 q.word = false → cfeEvent s p (cfTarget q.word) = none → 
    exec (.cfeTake p) s = .next (closePos s p (cfeDo s p 1 q l))) ∧
  (∀ (s : State) (p : Nat) (q : QEntry) (l : Loc), Ready s p 4 q → isOp 0x25 121 119 2 q.word = true → l = issuePos s p 4 →
    cfeFree s p q.word l.sp = true → cfeBad 2 q.word = false → cfeEvent s p (cfTarget q.word) = none → 
    exec (.cfeReadf p) s = .next (closePos s p (cfeDo s p 2 q l))) ∧
  (∀ (s : State) (p : Nat) (q : QEntry) (l : Loc), Ready s p 4 q → isOp 0x25 121 119 3 q.word = true → l = issuePos s p 4 →
    cfeFree s p q.word l.sp = true → cfeBad 3 q.word = false → cfeEvent s p (cfTarget q.word) = none → 
    exec (.cfeSet p) s = .next (closePos s p (cfeDo s p 3 q l))) ∧
  (∀ (s s' : State) (p t : Nat) (r : Reply) (c : CfeArg), p < 624 → live s p = true → takeReply s p (fun r => r.acc.kind == .cfe) = some (r, t, s') → r.acc.cfe = some c →
    exec (.cfeReplyArrival p) s = .next (closePos s' p (cfeAnswer s' p t r c
      (((openPos s p).card fun k => { k with sent := k.sent.filter (·.tag != r.acc.tag) }).at_ t)))) ∧
  (∀ (s s' : State) (p t : Nat) (r : Reply) (c : CfeArg), MemOk s → p < 624 → live s p = true → p < s.spindles.length →
    takeReply s p (fun r => r.acc.kind == .cfe) = some (r, t, s') → r.acc.cfe = some c → r.timeout = false → (c.op = 1 ∨ c.op = 2) →
    (∀ e ∈ (spAt s p).pend, e.off + e.data.length ≤ 8 * c.lword ∨ 8 * c.lword + r.data.length ≤ e.off) →
    ∃ u, exec (.cfeReplyArrival p) s = .next u ∧ ∀ i, (h : i < r.data.length) → soonByte u p (8 * c.lword + i) = r.data[i]) ∧
  (∀ (s : State) (p t : Nat) (w : WaitEntry) (rest : List WaitEntry) (c : CfeArg), p < 624 → nextTake s p (spAt s p) = some (.serve w rest, t) →
    w.acc.cfe = some c → t ≤ w.expiry →
    exec (.feWaitServe p) s = .next (cfeAct (runPos s p (·.reel fun r => { r with waits := rest })) p t w.acc c)) ∧
  (∀ (s : State) (p : Nat) (w : WaitEntry) (rest : List WaitEntry), p < 624 → pluckMin (fun _ => true) (·.expiry) (spAt s p).reeler.waits = some (w, rest) → live s p = true →
    (∀ v t, nextServe (spAt s p) = some (v, t) → v = w → w.expiry < t) →
    exec (.feWaitExpire p) s = .next (cfeExpire (runPos s p fun l => (l.reel fun r => { r with waits := rest }).at_ w.expiry) p w.expiry w.acc))

/-- A ready legal RARM whose record holds no poison and is legal arms its buffer. A ready legal RCLOSE of an armed buffer with no entry
for it queued closes it. The first conversion that waits at a powered position, with no poison in its buffer, runs in the later of its own
and the reeler's first free sc. The earliest access under way to a position leaves the fabric, once every delay of its way is counted (the
model's choice, log entry 79), at a position that does not skip and, for one that came through a port, holds no checkpoint (that a job's
own accesses are not discarded then is the model's choice, log entry 83: R483 says every arrival): a read is answered 5 sc later, from the
distaff, or with free bytes where the position is dark (log entry 3); a write is held if it has the final flag and else joins the arrival
queue while it has room, and one for a stopped reeler is lost (the model's choice, log entry 112). What the reeler takes next is handled
in its sc. (09_memory_model.md, 10_synchronisation.md) -/
def Obligations.ReelerCompletes : Prop :=
  (∀ (s : State) (p : Nat) (q : QEntry) (l : Loc) (l1 : Loc), Ready s p 5 q → isCls 0x28 q.word = true → l = issuePos s p 5 →
    rarmBad q.word = false → l1 = l.scrub (raPar q.word) 32 → l1.poisonIn (raPar q.word) 32 = none → armBad l1 (raBuf q.word) (l1.rdN (raPar q.word) 32) = false → 
    exec (.rarm p) s = .next (closePos s p (armDo (raBuf q.word) (l1.rdN (raPar q.word) 32) l1))) ∧
  (∀ (s : State) (p : Nat) (q : QEntry) (l : Loc) (b : Buffer), Ready s p 5 q → isCls 0x29 q.word = true → l = issuePos s p 5 →
    l.sp.reeler.buffers.getD (fld q.word 121 118) none = some b → rcloseBad q.word b = false → rcloseWaits l.sp.reeler b = false → 
    exec (.rclose p) s = .next (closePos s p (rcloseDo q b l))) ∧
  (∀ (s : State) (p t occ : Nat) (c : Conv) (rest : List Conv) (l : Loc), p < 624 → (spAt s p).reeler.convs = c :: rest → powered s p = true →
    t = max c.at_ (spAt s p).reeler.free → occ = cdiv (linesOf c.buf.base c.buf.bytes) 2 →
    l = ((((openPos s p).reel fun x => { x with convs := rest, free := t + occ, cur := none }).at_ t).strm 5
      fun x => { x with doneAt := max x.doneAt (t + occ - 1 + 4) }).scrub c.buf.base c.buf.bytes →
    l.sp.soonPoison c.buf.base c.buf.bytes = none →
    exec (.rcloseConvert p) s = .next (closePos s p (convOut c t l))) ∧
  (∀ (s s1 s' : State) (p t : Nat) (a : Access) (rest : List Access) (l : Loc), p < 624 → s1 = arrivalsBy s p →
    nextArrival s1 p = some (a, rest) → arrivalReady s1 p a = true → t = arrivalOf s1 p a →
    s' = dropFlit { s1 with fabric := { s1.fabric with net := rest } } a false → l = (openPos s' p).at_ t →
    l.sp.skipping < 2 → (inCheckpoint s' p && a.via.isSome) = false →
    (a.kind = .getLine → ∀ o n, o = (if a.loft then a.addr % 0x0200_0000 / 64 * 64 else a.addr % 0x0200_0000) → n = (if a.loft then 64 else a.len) →
      ((pwAt s' p).dark = false →
        exec (.reelerArrival p) s = .next (reply (closePos s' p (l.scrub o n)) p (t + 5) a ((l.scrub o n).rd o n) ((l.scrub o n).granules o n) false)) ∧
      ((pwAt s' p).dark = true → exec (.reelerArrival p) s = .next (reply (drawBytes s' n).2 p (t + 5) a (drawBytes s' n).1 [] false))) ∧
    (a.kind ≠ .getLine → live s' p = false → exec (.reelerArrival p) s = .next (closePos s' p l)) ∧
    (a.kind ≠ .getLine → live s' p = true →
      (a.final = true → exec (.reelerArrival p) s = .next (closePos s' p (l.reel fun r => { r with held := r.held ++ [{ a with at_ := t }] }))) ∧
      (a.final = false → l.sp.reeler.queue.length < 256 →
        exec (.reelerArrival p) s = .next (closePos s' p ((l.reel fun r => { r with queue := r.queue ++ [{ a with at_ := t }] }).count
          fun c => { c with reelPeak := max c.reelPeak (l.sp.reeler.queue.length + 1) }))))) ∧
  (∀ (s : State) (p t : Nat), p < 624 →
    (∀ a rest, nextTake s p (spAt s p) = some (.head a rest, t) →
      exec (.reelerTake p) s = .next (takeEntry (runPos s p (·.reel fun r => { r with queue := rest })) p t a)) ∧
    (∀ a rest, nextTake s p (spAt s p) = some (.final a rest, t) →
      exec (.reelerTake p) s = .next (takeEntry (runPos s p (·.reel fun r => { r with held := rest })) p t a)) ∧
    (∀ w rest c, nextTake s p (spAt s p) = some (.serve w rest, t) → w.acc.cfe = some c → t ≤ w.expiry →
      exec (.reelerTake p) s = .next (cfeAct (runPos s p (·.reel fun r => { r with waits := rest })) p t w.acc c)))

/-- At a port that is up, a PUT, a GETREQ, an ADD or a CFE of the partner sets out from the die edge as accesses, line by line or packet
by packet: of a PUT the bytes it writes of the lines it carries, of a GETREQ its lines whole. A GETREP gives its lines to the request it
answers, a CFEREP answers its operation and ends it, an ACK acknowledges COUNT sent writes; a GETREP or CFEREP to no request this port has
sent changes nothing. What a transaction carries beside its header's fields, and which write an ACK answers, are the model's choice (log
entries 20 and 36), as is that a CFE whose operation is SET carries the state it sets in FLAG (log entry 37, DEDUCED), and that a command
whose rule does not let it happen changes nothing (log entry 2). (11_ply_ports.md, 12_many_devices.md) -/
def Obligations.PortTransactionsComplete : Prop :=
  (∀ (s : State) (n : Nat) (t : Trans), n < 6 → (portAt s n).state = 2 → exec (.plyPutReceive n t) s = .next ((segs t.addr t.span).zipIdx.foldl
    (fun s x => deliver s n (linkLat s n t) { partnerAcc n t .putLine x.1.1 x.1.2 with
      data := (lineCut (partnerAcc n t .putLine x.1.1 x.1.2) ((t.payload.drop (64 * x.2)).take 64) []).1 }) s)) ∧
  (∀ (s : State) (n : Nat) (t : Trans), n < 6 → (portAt s n).state = 2 → exec (.plyGetreqReceive n t) s = .next ((List.range t.count).foldl
    (fun s i => deliver s n (linkLat s n t) (partnerAcc n t .getLine ((t.addr / 64 + i) * 64) 64)) s)) ∧
  (∀ (s : State) (n : Nat) (t : Trans), n < 6 → (portAt s n).state = 2 → exec (.plyAddReceive n t) s = .next ((splitAdd t).foldl (fun (a : State × Nat) vs =>
    (deliver a.1 n (linkLat s n t) { partnerAcc n t .addPacket t.addr vs.1.length with vals := vs.1, wide := vs.2, elem := a.2, fmt := t.fmt },
      a.2 + vs.1.length)) (s, t.elem)).1) ∧
  (∀ (s : State) (n : Nat) (t : Trans), n < 6 → (portAt s n).state = 2 → exec (.plyCfeReceive n t) s = .next (deliver s n (linkLat s n t) { partnerAcc n t .cfe t.addr 8 with
    data := t.payload, cfe := some { op := t.fmt, state := t.fmt == 0 || t.flag, lword := 0, timeout := t.aux, acq := 0 } })) ∧
  (∀ (s : State) (n : Nat) (t : Trans) (x : PlyItem) (rest : List PlyItem), n < 6 → (portAt s n).state = 2 → 
    pluck (fun x => x.type == 2 && x.src == t.src && x.tag == t.tag) (portAt s n).sent = some (x, rest) →
    ∃ u, exec (.plyGetrepReceive n t) s = .next u ∧
      (portAt u n).sent = (if (spreadRep n x.accs t.payload s).2.isEmpty then rest else { x with accs := (spreadRep n x.accs t.payload s).2 } :: rest) ∧
      u.fabric = (spreadRep n x.accs t.payload s).1.fabric) ∧
  (∀ (s : State) (n : Nat) (t : Trans), n < 6 → (portAt s n).state = 2 → 
    pluck (fun x => x.type == 2 && x.src == t.src && x.tag == t.tag) (portAt s n).sent = none → exec (.plyGetrepReceive n t) s = .next s) ∧
  (∀ (s : State) (n : Nat) (t : Trans) (x : PlyItem) (rest : List PlyItem), n < 6 → (portAt s n).state = 2 → 
    pluck (fun x => x.type == 5 && x.src == t.src && x.tag == t.tag) (portAt s n).sent = some (x, rest) →
    ∃ u, exec (.plyCferepReceive n t) s = .next u ∧ (portAt u n).sent = rest ∧ u.fabric.net = s.fabric.net ∧
      u.fabric.replies.length = s.fabric.replies.length + x.accs.length) ∧
  (∀ (s : State) (n : Nat) (t : Trans), n < 6 → (portAt s n).state = 2 → 
    pluck (fun x => x.type == 5 && x.src == t.src && x.tag == t.tag) (portAt s n).sent = none → exec (.plyCferepReceive n t) s = .next s) ∧
  (∀ (s : State) (n : Nat) (t : Trans), n < 6 → (portAt s n).state = 2 → exec (.plyAckReceive n t) s = .next ((List.range t.count).foldl (fun s _ => ackOne n t.src t.tag s) s))

/-- A lane that loses lock at a port that is up fails, once. The frames before the one that a partner named for its map are sent, and the
map is in use from that frame on. A frame is taken as its code decodes, one with a transaction header of TYPE 10 or more as one that does
not; 256 frames without one bring the port down. The next admission window of a port that is up, or has frames of a port down to send,
opens: the answers held back before it have entered the mesh, the frames up to it end, and a port that is up and has an owner admits what
fits. A port in training that finds a map for each direction and a class comes up; a step that times out leaves it down with E-0x405 and
shows the receive lanes that Detect and Lock have failed. A RETRAIN that a commit has set starts the training of an enabled port and the
field reads 0. What a PLY_TRAINING command finds and stands for, and when PLY_NO_FRAME_TIMEOUT acts, are the model's choice (log entry
38). (11_ply_ports.md) -/
def Obligations.PortsComplete : Prop :=
  (∀ (s : State) (n lane : Nat), lane < 17 → n < 6 → (portAt s n).state = 2 → exec (.laneLockLoss n lane) s = .next (failLane s n lane)) ∧
  (∀ (s : State) (n seq sp w : Nat), n < 6 → n < s.ports.length → (portAt s n).request = some (seq, sp, w) →
    ∃ t, exec (.plyLaneMapChange n) s = .next t ∧ portAt t n = takeMap (sendFrames (framesToMap seq (portAt s n)) (portAt s n)) ∧
      (portAt t n).txw = w ∧ (portAt t n).txsp = sp ∧ (portAt t n).request = none ∧ ∀ m, m ≠ n → portAt t m = portAt s m) ∧
  (∀ (s : State) (n : Nat) (f : Frame), n < 6 → (portAt s n).state = 2 →
    exec (.plyFrameReceive n f) s = .next (if f.decodes && f.types.all (fun k => decide (k < 10)) then goodFrame (modPort s n (noteCorrected f)) n f
      else badFrame (modPort s n (noteCorrected f)) n (((portAt s n).seqIn + 1) % 2 ^ 32))) ∧
  (∀ (s : State) (n : Nat), n < 6 → (portAt s n).state = 2 → 256 ≤ (portAt s n).downFrames → n < s.ports.length →
    ∃ t, exec (.plyNoFrameTimeout n) s = .next t ∧ (portAt t n).state = 0 ∧ (portAt t n).items = [] ∧ (portAt t n).sent = []) ∧
  (∀ (s s1 u : State) (n w : Nat), n < 6 → ((portAt s n).state = 2 ∨ 0 < (portAt s n).downOut) → w = nextWindow s n → s1 = settleBy s (8000 * w) →
    u = modPort s1 n (fun x => { runFrames (8 * w) x with window := w, tx := [] }) →
    ∃ t, exec (.plyAdmissionWindow n) s = .next (if (portAt t n).state = 2 ∧ (portOwner t n).isSome then sendWindow t n w else t) ∧
      t = { u with bell := { u.bell with refTime := if u.bell.held then u.bell.refTime else max u.bell.refTime (8 * w) } }) ∧
  (∀ (s : State) (n ppb rawIn rawOut cls c : Nat) (signal bad : List Nat) (locked : Locks) (m d : Nat × Nat), n < 6 → n < s.ports.length →
    (portAt s n).state = 1 → bad = (List.range 17).filter (fun n => !signal.contains n || !locked.lanes.contains n) →
    trainMaps signal locked.lanes locked.txFails = some (m, d) → ppb ≤ 1000 →
    (agreeClass (max rawIn rawOut) (max (plyCtrl s n 3 2) cls) 4).1 = some c → s.power.off = false →
    ∃ t, exec (.plyTraining n signal locked ppb rawIn rawOut cls) s = .next t ∧ (portAt t n).state = 2 ∧ (portAt t n).cls = c ∧
      (portAt t n).rxfail = bad ∧ (portAt t n).rxw = m.1 ∧ (portAt t n).rxsp = m.2 ∧ (portAt t n).txw = d.1 ∧ (portAt t n).txsp = d.2 ∧
      (portAt t n).raw = some rawIn) ∧
  (∀ (s : State) (n : Nat) (failed : List Nat), n < 6 → (portAt s n).state = 1 →
    exec (.plyTrainStepTimeout n failed) s = .next (failTraining s n 0x405 (failed.filter (· < 17)))) ∧
  (∀ (s : State) (n : Nat), n < 6 → n < s.ports.length → s.power.off = false → plyCtrl s n 4 4 = 1 → plyCtrl s n 0 0 = 1 →
    ∃ t, exec (.plyRetrain n) s = .next t ∧ (portAt t n).state = 1 ∧ plyCtrl t n 4 4 = 0)

/-- While the generator runs, the bell fires once every engine has finished its frame and no late transfer holds it; in elastic mode the
slip limit fires it with some engine unfinished or a late transfer, after E-0xB03 for each job of one. An engine past its work window
raises E-0xB04 once in a frame; in strict mode, while the generator runs, an engine unfinished at the end of the stretch allowance raises
E-0xB01. A due statistics entry is posted and its counts start again; a due rebalance is made. Commands come in the order of the time they
stand for, and one that its rule does not let happen changes nothing (the model's choice, log entries 1 and 2). (01_bell.md,
14_host_interface.md, 16_power_control_and_energy.md) -/
def Obligations.BellsComplete : Prop :=
  (∀ (b : BellIn) (s : State), bellRuns s = true → anyUnfinished s = false → anyLate s = false → exec (.bell b) s = .next (fireBell b (bellTime s) s)) ∧
  (∀ (b : BellIn) (s : State), bellRuns s = true → elastic s = true → (anyUnfinished s || anyLate s) = true →
    exec (.slipLimitExceeded b) s = .next (fireBell b (schedAt s + slipLimit s)
      (((List.range 8).filter fun j => (jobSet s j).any fun n => (List.range 6).any (unfinished s (posOf s n))).foldl
        (fun s' j => raiseJob s' j (ev 0xB03 0 (slipLimit s')))
        { s with bell := { s.bell with refTime := max s.bell.refTime (schedAt s + slipLimit s) } }))) ∧
  (∀ (s : State) (p k j : Nat), k < 6 → p < 624 → jobAt s p = some j → (jobOf s j).state = 2 → (strmOf (spAt s p) k).en = true →
    (strmOf (spAt s p) k).overRaised = false → workSc s p < frameCount s p k →
    exec (.frameOverBudget p k) s = .next (raiseAt (runPos s p fun l => l.strm k fun x => { x with overRaised := true }) p
      (evW 0xB04 k 0 k (frameCount s p k)))) ∧
  (∀ (s : State) (p k : Nat), k < 6 → p < 624 → elastic s = false → bellRuns s = true → unfinished s p k = true →
    exec (.frameOverrun p k) s = .next (raiseAt (runPos { s with bell := { s.bell with
      refTime := max s.bell.refTime (s.bell.lastBell + workWin s + stretchWin s) } } p fun l =>
        l.at_ (localAt s p ((workWin s + stretchWin s) * (pwAt s p).goal))) p (evW 0xB01 k 0 k 0))) ∧
  (∀ (s : State) (j : Nat), j < 8 → j < s.jobs.length → (jobOf s j).statDue = true →
    ∃ t e, exec (.statisticsEntry j) s = .next t ∧ t.hif.due = s.hif.due ++ [e] ∧ e.type = 3 ∧ e.job = some j ∧ e.frame = s.bell.count ∧
      jobOf t j = { jobOf s j with statBells := 0, statSlips := 0, statSlip := 0, statDue := false }) ∧
  (∀ (s : State) (j : Nat), j < 8 → rebDue s j = true → exec (.rebalance j) s = .next (settleRatios (rebalance s j)))

/-- When the bell fires, BEL_COUNT is one more than before, the time of the last bell is the time it fires, BEL_REFTIME is not before it,
BEL_SLIP_TOTAL has grown by the rc by which it is later than scheduled, and BEL_SLIP_COUNT by one where that is not 0 (it saturates). A
bell that cannot fire yet changes nothing: that a command comes at the time its rules allow, and does nothing where they do not, is the
model's choice (log entries 1 and 2). (01_bell.md) -/
def Obligations.BellCountsByOne : Prop :=
  (∀ (b : BellIn) (s : State), bellRuns s = true → anyUnfinished s = false → anyLate s = false →
    ∃ t, exec (.bell b) s = .next t ∧ t.bell.count = s.bell.count + 1 ∧ t.bell.lastBell = bellTime s ∧
      t.bell.refTime = max s.bell.refTime (bellTime s) ∧ t.bell.slipTotal = s.bell.slipTotal + (bellTime s - schedAt s) ∧
      t.bell.slipCount = if bellTime s - schedAt s = 0 then s.bell.slipCount else sat32 s.bell.slipCount 1) ∧
  (∀ (b : BellIn) (s : State), (bellRuns s = false ∨ anyUnfinished s = true ∨ anyLate s = true) → exec (.bell b) s = .next s)

/-- With the space open, a doorbell whose value is in range for an enabled ring moves the ring's tail or head. While the belfry runs with
a link and fewer than 256 fetches in the frame, the ring whose turn it is has its next descriptor fetched, and with a JOB_START its
record. The entries that arose in earlier frames leave those due, which a ring that can hold no more may join with E-0x503.
(14_host_interface.md) -/
def Obligations.RingsComplete : Prop :=
  (∀ (s : State) (r v : Nat), r < 64 → Serving s → sqCtrl s r 0 0 = 1 → v % 65536 < sqSize s r → r < s.hif.sq.length →
    ∃ t, exec (.doorbellSq r v) s = .next t ∧ sqAt t r = { sqAt s r with tail := v % 65536 }) ∧
  (∀ (s : State) (j v : Nat), j < 8 → Serving s → cqCtrl s j 0 0 = 1 → v % 65536 < cqSize s j → j < s.hif.cq.length →
    ∃ t, exec (.doorbellCq j v) s = .next t ∧ cqAt t j = { cqAt s j with head := v % 65536 }) ∧
  (∀ (s : State) (v : Nat), Serving s → cqCtrl s 8 0 0 = 1 → v % 65536 < cqSize s 8 → 8 < s.hif.cq.length →
    ∃ t, exec (.doorbellDeq v) s = .next t ∧ cqAt t 8 = { cqAt s 8 with head := v % 65536 }) ∧
  (∀ (s : State) (r : Nat) (err recErr : Bool), belfryRuns s = true → s.hif.link = true → s.hif.fetched < 256 → nextRing s = some r →
    exec (.descriptorFetch err recErr) s = .next (fetchOne s r err recErr)) ∧
  (∀ s : State, s.bell.fired = true → s.power.off = false →
    ∃ t, exec .entryWrite s = .next t ∧ ∃ more, t.hif.due = (s.hif.due.filter fun e => !decide (e.frame < s.bell.count)) ++ more ∧
      ∀ e ∈ more, e.code = 0x503)

/-- With the space open and the light sleep state not in effect: a write to a submission doorbell in range for an enabled ring answers the
state in which that ring's tail is the value and all else is as before, so a write of the current tail has no effect; the same holds for
the head of a completion ring and of the device event ring. A value of 2^k or more, or a disabled ring, raises E-0x502 for the device
event ring and moves no ring, in every sleep state; in the light state such a write to an enabled ring is a wake cause too. While the
device event ring is disabled its entries are held. (R354) -/
def Obligations.DoorbellsMoveOneEnd : Prop :=
  (∀ (s : State) (r v : Nat), r < 64 → Serving s → sqCtrl s r 0 0 = 1 → v % 65536 < sqSize s r → s.power.sleep ≠ 1 →
    exec (.doorbellSq r v) s = .next { s with hif := { s.hif with sq := modAt s.hif.sq r fun x => { x with tail := v % 65536 } } }) ∧
  (∀ (s : State) (r v : Nat), r < 64 → Serving s → sqCtrl s r 0 0 = 1 → v % 65536 < sqSize s r → s.power.sleep ≠ 1 →
    (sqAt s r).tail = v % 65536 → exec (.doorbellSq r v) s = .next s) ∧
  (∀ (s : State) (j v : Nat), j < 8 → Serving s → cqCtrl s j 0 0 = 1 → v % 65536 < cqSize s j → s.power.sleep ≠ 1 →
    exec (.doorbellCq j v) s = .next { s with hif := { s.hif with cq := modAt s.hif.cq j fun x => { x with head := v % 65536 } } }) ∧
  (∀ (s : State) (v : Nat), Serving s → cqCtrl s 8 0 0 = 1 → v % 65536 < cqSize s 8 → s.power.sleep ≠ 1 →
    exec (.doorbellDeq v) s = .next { s with hif := { s.hif with cq := modAt s.hif.cq 8 fun x => { x with head := v % 65536 } } }) ∧
  (∀ (s u : State) (r v : Nat), r < 64 → Serving s → (sqCtrl s r 0 0 = 0 ∨ sqSize s r ≤ v % 65536) →
    u = (if sqCtrl s r 0 0 = 0 then s else wakeLight s) →
    exec (.doorbellSq r v) s = .next (raiseDev u (ev 0x502 r v)) ∧ (raiseDev u (ev 0x502 r v)).hif.sq = s.hif.sq) ∧
  (∀ (s u : State) (j v : Nat), j < 8 → Serving s → (cqCtrl s j 0 0 = 0 ∨ cqSize s j ≤ v % 65536) →
    u = (if cqCtrl s j 0 0 = 0 then s else wakeLight s) →
    exec (.doorbellCq j v) s = .next (raiseDev u (ev 0x502 (64 + j) v)) ∧ (raiseDev u (ev 0x502 (64 + j) v)).hif.cq = s.hif.cq) ∧
  (∀ (s u : State) (v : Nat), Serving s → (cqCtrl s 8 0 0 = 0 ∨ cqSize s 8 ≤ v % 65536) → u = (if cqCtrl s 8 0 0 = 0 then s else wakeLight s) →
    exec (.doorbellDeq v) s = .next (raiseDev u (ev 0x502 72 v)) ∧ (raiseDev u (ev 0x502 72 v)).hif.cq = s.hif.cq) ∧
  (∀ (s : State) (e : Entry), e.job = none → cqCtrl s 8 0 0 = 0 → placeEntry s e = holdEntry s 8 e)

/-- The descriptor whose turn it is starts: a NOP completes with status 0; a JOB_START that nothing refuses makes its slot Starting; a
JOB_STOP of a running slot ends its job; a COPY that the link can serve moves its pieces and completes at the next bell; a legal SNAPSHOT
or CHECKPOINT is taken at its job's close bell; a RESTORE that nothing refuses loads its image. The snapshots due at this bell are taken
once nothing is there to move lines ahead of them, a checkpoint due is taken, the running refill copies its mirrored ranges, then all else
from the checkpoint's image while none of it is poisoned, else it is abandoned, and the oldest receipt due is signed. When a snapshot or
checkpoint is taken, that a COPY, RESTORE or refill moves its lines within its command, and what RESTORE takes beside the image's
registers are the model's choice (log entries 11, 13 and 21). (14_host_interface.md, 20_faults_and_recovery.md,
16_power_control_and_energy.md) -/
def Obligations.DescriptorsComplete : Prop :=
  (∀ (s : State) (r : Nat) (d : Desc), r < 64 → startOf s r 0 = some d → 
    exec (.nop r) s = .next (complete s d 0)) ∧
  (∀ (s : State) (r : Nat) (d : Desc), r < 64 → startOf s r 1 = some d → startReason s d.job d.record = none → d.job < s.jobs.length →
    ∃ t, exec (.jobStart r) s = .next t ∧ (jobOf t d.job).state = 1 ∧ (jobOf t d.job).start = some (d.ring, d.idx) ∧
      (jobOf t d.job).num = recNumeric d.record (jobOf s d.job).num ∧ (jobOf t d.job).record = d.record) ∧
  (∀ (s : State) (r : Nat) (d : Desc), r < 64 → startOf s r 2 = some d → jobRuns s d.job = true → 
    exec (.jobStop r) s = .next (complete (endJob s d.job true) d 0)) ∧
  (∀ (s : State) (r : Nat) (d : Desc), r < 64 → startOf s r 2 = some d → jobRuns s d.job = false → 
    exec (.jobStop r) s = .next (complete s d 0)) ∧
  (∀ (s : State) (r : Nat) (d : Desc), r < 64 → startOf s r 3 = some d → (copyHost d = true → s.hif.link = true) → 
    exec (.copy r) s = .next (finishAt (copyAll s d) d 0)) ∧
  (∀ (s s' : State) (r : Nat) (d : Desc) (l : List Byte), r < 64 → startOf s r 4 = some d → s.hif.link = true →
    hostBad s (d.f 191 128) (32 * d.f 207 192) = false → l = hostRead s (d.f 191 128) (32 * d.f 207 192) →
    s' = payBytes s (descKey d.ring d.idx) (32 * d.f 207 192) →
    ((List.range (d.f 207 192)).all fun i => snapOk s' d.job (snapRange l i)) = true →
    exec (.snapshot r) s = .next (setDesc s' d { d with started := true, record := l })) ∧
  (∀ (s : State) (j : Nat), j < 8 → moversAhead s = false → exec (.snapshotTake j) s = .next ((snapsDue s j).foldl takeOne s)) ∧
  (∀ (s : State) (j : Nat), j < 8 → moversAhead s = true → exec (.snapshotTake j) s = .next s) ∧
  (∀ (s : State) (r : Nat) (d : Desc), r < 64 → startOf s r 5 = some d → (jobOf s d.job).state = 2 → ckptOutstanding s d = false →
    hostOrHbm (d.f 191 128) (d.f 255 192) = true → ckptLeast s d.job ≤ d.f 255 192 → d.job < s.jobs.length →
    ∃ t c, exec (.checkpoint r) s = .next t ∧ (jobOf t d.job).ckpt = some c ∧ c.area = d.f 191 128 ∧ c.len = d.f 255 192 ∧ c.taken = false) ∧
  (∀ (s : State) (j : Nat) (c : Ckpt), j < 8 → j < s.jobs.length → takeDue s (jobOf s j) = true → (jobOf s j).ckpt = some c →
    ∃ t, exec (.checkpointTake j) s = .next t ∧ (jobOf t j).ckpt = some { c with taken := true, bell := s.bell.count }) ∧
  (∀ (s : State) (r : Nat) (d : Desc), r < 64 → startOf s r 6 = some d → (jobOf s d.job).state = 0 → ckptOutstanding s d = false →
    restoreOutstanding s d = false → (inHost (d.f 191 128) = true → s.hif.link = true) →
    restoreReason (restoreHeader s d).2 d (restoreHeader s d).1 = none → d.job < s.jobs.length →
    ∃ t, exec (.restore r) s = .next t ∧ (jobOf t d.job).state = 1 ∧ (jobOf t d.job).restoring = true ∧
      (jobOf t d.job).start = some (d.ring, d.idx) ∧ (jobOf t d.job).num = headNumeric (restoreHeader s d).1) ∧
  (∀ (s s1 : State) (j n : Nat) (m : List Byte) (rest : List (Nat × Nat)), s.repair.queue = (j, n) :: rest → refillRuns s = true → m = (getKey n (jobOf s j).mirrors).getD [] →
    s1 = refillMirrors m n (modSp s (posOf s n) fun sp => { sp with distaff := { Distaff.reset with scrub := sp.distaff.scrub } }) →
    (((jobOf s j).ckptArea = 0 ∨ (inHost (jobOf s j).ckptArea = true ∧ s1.hif.link = false)) → exec .refill s = .next (abandonRepair s1 j n)) ∧
    (∀ x, (jobOf s j).ckptArea ≠ 0 → (inHost (jobOf s j).ckptArea = true → s1.hif.link = true) →
      x = refillImage m ((jobOf s j).ckptArea + 4096 + ((jobSet s1 j).filter (· < n)).length * sectionSize) n (distSize / 64) 0 s1 →
      exec .refill s = .next (if x.2 then refilled x.1 j n else abandonRepair x.1 j n))) ∧
  (∀ (s : State) (ok : Bool) (x : RcptReq) (rest : List RcptReq), s.hif.receipts = x :: rest → belfryRuns s = true → s.hif.link = true → s.hif.signed < 32 →
    exec (.receiptSign ok) s = .next (signReceipt { s with hif := { s.hif with receipts := rest, signed := s.hif.signed + 1 } } x ok))

/-- With link and space open, a read of HBM in one line answers its bytes and a write changes them, at once; in the light sleep state
either waits and is a wake cause, and the bell that ends the state serves what waits. A read leaves the bytes of HBM and sends one answer.
A configuration request is answered with retry status before step 14 unless the boot stopped; otherwise a read with the dword's bytes, and
a write changes the dword. A snoop is answered. A trained link is up, with E-0x506 where it is narrower or slower than ×16 at 32 GT/s; a
lost one is down with E-0x505 and faults every running job. PERST_N low takes the link down, with E-0x505 and the fault of every running
job where it was up; its rising edge is a wake cause of the deep state. That a wake cause acts at the next bell, what the standards that
the manual names lay out, and the places of registers in CXL configuration space are the model's choice (log entries 49, 32 and 76).
(14_host_interface.md, 19_bring_up_and_configuration.md, 20_faults_and_recovery.md) -/
def Obligations.HostLinkCompletes : Prop :=
  (∀ (s : State) (off n : Nat), cxlOpen s = true → cxlCovers off n = true → s.power.sleep ≠ 1 →
    exec (.hostCxlMemRead off n) s = .next (cxlServe s off n none)) ∧
  (∀ (s : State) (off : Nat) (bs : List Byte), cxlOpen s = true → cxlCovers off bs.length = true → s.power.sleep ≠ 1 → MemOk s →
    ∃ t, exec (.hostCxlMemWrite off bs) s = .next t ∧ memRead t.hbm.mem off bs.length = bs ∧
      ∀ a, a < off ∨ off + bs.length ≤ a → memGet t.hbm.mem a = memGet s.hbm.mem a) ∧
  (∀ (s : State) (off n : Nat), cxlOpen s = true → cxlCovers off n = true → s.power.sleep = 1 →
    ∃ t, exec (.hostCxlMemRead off n) s = .next t ∧ t.power.wakeDue = true ∧ t.hif.cxlWait = s.hif.cxlWait ++ [(off, n, none)] ∧ t.hbm = s.hbm) ∧
  (∀ (s : State) (off : Nat) (bs : List Byte), cxlOpen s = true → cxlCovers off bs.length = true → s.power.sleep = 1 →
    ∃ t, exec (.hostCxlMemWrite off bs) s = .next t ∧ t.power.wakeDue = true ∧
      t.hif.cxlWait = s.hif.cxlWait ++ [(off, bs.length, some bs)] ∧ t.hbm = s.hbm) ∧
  (∀ (b : BellIn) (s : State), bellRuns s = true → anyUnfinished s = false → anyLate s = false → s.power.wakeDue = true →
    ∃ t, exec (.bell b) s = .next t ∧ t.hif.cxlWait = [] ∧ t.power.wakeDue = false ∧ t.power.sleep = 0 ∧ t.hbm.selfRefresh = false) ∧
  (∀ s : State, MemOk s → s.power.wakeDue = true →
    (∀ off bs, s.hif.cxlWait = [(off, bs.length, some bs)] → memRead (endSleep s).hbm.mem off bs.length = bs ∧
      ∀ a, a < off ∨ off + bs.length ≤ a → memGet (endSleep s).hbm.mem a = memGet s.hbm.mem a) ∧
    (∀ off n, s.hif.cxlWait = [(off, n, none)] → (endSleep s).hbm.mem = s.hbm.mem ∧ (endSleep s).hif.out.length = s.hif.out.length + 1)) ∧
  (∀ (s : State) (off : Nat) (data : Option Nat), s.hif.link = true → s.power.step ≠ 14 → s.keep.stopped = false →
    exec (.cxlConfigRequest ⟨off, data⟩) s = .next (sendMsg s 1 [1#8])) ∧
  (∀ (s : State) (off o : Nat), s.hif.link = true → (s.power.step = 14 ∨ s.keep.stopped = true) → o = off % 4096 / 4 * 4 →
    exec (.cxlConfigRequest ⟨off, none⟩) s = .next (sendMsg s 1 (0#8 :: (List.range 4).map fun i => cfgByte s (o + i)))) ∧
  (∀ (s : State) (off v : Nat), s.hif.link = true → (s.power.step = 14 ∨ s.keep.stopped = true) →
    exec (.cxlConfigRequest ⟨off, some v⟩) s = .next (sendMsg (cxlSet (off % 4096 / 4 * 4) (v % 2 ^ 32) s) 1 [0#8])) ∧
  (∀ (s : State) (line : Nat), s.hif.link = true → exec (.cxlSnoop line) s = .next (sendMsg s 1 [2#8])) ∧
  (∀ s : State, s.hif.link = true →
    ∃ t, exec .hostLinkDown s = .next t ∧ t.hif.link = false ∧ t.hif.xfers = [] ∧ (∃ e ∈ t.hif.due, e.code = 0x505) ∧
      (∀ j, j < 8 → (jobOf s j).state = 2 → (jobOf t j).fault.isSome = true)) ∧
  (∀ (s : State) (width : Nat) (fast : Bool), s.hif.perst = false → 3 ≤ s.power.step → s.power.off = false → s.hif.link = false →
    (width = 1 ∨ width = 2) →
    ∃ t, exec (.hostLinkTrain width fast) s = .next t ∧ t.hif.link = true ∧ t.hif.width = width ∧ t.hif.fast = fast ∧
      (width = 2 → fast = true → t.hif.due = s.hif.due) ∧ ((width = 1 ∨ fast = false) → ∃ e, t.hif.due = s.hif.due ++ [e] ∧ e.code = 0x506)) ∧
  (∀ s : State, ∃ t, exec (.perst false) s = .next t ∧ t.hif.link = false ∧ t.hif.perst = true ∧
    (s.hif.link = true → t.hif.xfers = [] ∧ (∃ e ∈ t.hif.due, e.code = 0x505) ∧
      ∀ j, j < 8 → (jobOf s j).state = 2 → (jobOf t j).fault.isSome = true)) ∧
  (∀ s : State, s.hif.perst = true → ∃ t, exec (.perst true) s = .next t ∧ t.hif.perst = false ∧ (s.power.sleep = 2 → t.power.wakeDue = true))

/-- With the mailbox open, each SPDM request is answered: version 1.2, capabilities, algorithms, digests of two chains, a portion of a
chain, a signed challenge, signed measurements, and ERROR for what is not supported; DOE discovery names its object types and a CDAT
access its entries. While the belfry serves the endpoint, each PLDM command of Table 14.14 is answered, an unknown sensor with its
completion code, and the oldest event that waits goes to the receiver. The layouts of these messages, the bytes that another standard
gives and the certificates are the model's choice (log entries 32, 5 and 41). (14_host_interface.md, 18_keep.md, 22_package.md) -/
def Obligations.MailboxAndSidebandAnswer : Prop :=
  (∀ (s : State), doeOpen s = true → exec (.getVersion) s = .next (sendMsg s 2 ([0x10#8, 0x04#8, 0#8, 0#8, 0#8, 1#8, 0x00#8, 0x12#8]))) ∧
  (∀ s : State, doeOpen s = true → ∃ bs, exec .getCapabilities s = .next (sendMsg s 2 (0x12#8 :: 0x61#8 :: bs))) ∧
  (∀ s : State, doeOpen s = true → ∃ bs, exec .negotiateAlgorithms s = .next (sendMsg s 2 (0x12#8 :: 0x63#8 :: bs))) ∧
  (∀ (s : State), doeOpen s = true → exec (.getDigests) s = .next (sendMsg s 2 (spdm 0x01 0 3 (sha512 (slotChain s 0) ++ sha512 (slotChain s 1))))) ∧
  (∀ (s : State) (slot off len : Nat), doeOpen s = true → exec (.getCertificate slot off len) s = .next (sendMsg s 2 (if slot < 2 ∧ off < (slotChain s slot).length then
      spdm 0x02 slot 0 (leBytes 2 (((slotChain s slot).drop off).take len).length ++
        leBytes 2 ((slotChain s slot).length - off - (((slotChain s slot).drop off).take len).length) ++ ((slotChain s slot).drop off).take len)
      else badRequest))) ∧
  (∀ (s : State) (slot : Nat) (nonce : List Byte), doeOpen s = true → slot < 2 →
    ∃ t body, exec (.challenge slot nonce) s = .next t ∧ t.hif.out = s.hif.out ++ [⟨2, signed s slot nonce body⟩] ∧ t.free = s.free + 32) ∧
  (∀ (s : State) (slot : Nat) (nonce : List Byte), doeOpen s = true → 2 ≤ slot → exec (.challenge slot nonce) s = .next (sendMsg s 2 (badRequest))) ∧
  (∀ (s : State) (index slot : Nat) (nonce : List Byte), doeOpen s = true → slot < 2 → (index ≤ 6 ∨ index = 0xFF) →
    ∃ t body, exec (.getMeasurements index slot nonce) s = .next t ∧ t.hif.out = s.hif.out ++ [⟨2, signed s slot nonce body⟩] ∧ t.keep = s.keep) ∧
  (∀ (s : State) (code : Nat), doeOpen s = true → exec (.spdmUnsupported code) s = .next (sendMsg s 2 (spdmError 7 code))) ∧
  (∀ (s : State) (index : Nat), doeOpen s = true → ∃ bs, bs.length = 4 ∧ exec (.doeDiscovery index) s = .next (sendMsg s 2 bs)) ∧
  (∀ (s : State), doeOpen s = true → exec (.cdatAccess 0) s = .next (sendMsg s 2 ([0#8, 0#8] ++ leBytes 2 1 ++ cdatHeader))) ∧
  (∀ (s : State), doeOpen s = true → exec (.cdatAccess 1) s = .next (sendMsg s 2 ([0#8, 0#8] ++ leBytes 2 0xFFFF ++ dsmas))) ∧
  (∀ (s : State) (entry : Nat), doeOpen s = true → 2 ≤ entry → exec (.cdatAccess entry) s = .next (sendMsg s 2 ([0#8, 0#8] ++ leBytes 2 0xFFFF))) ∧
  (∀ (s : State), belfryUp s = true → exec (.getTid) s = .next
    (sendPldm s (Config.foreignByte 8 1) ((Config.foreignByte 8 4 &&& 0x1F#8) :: 0#8 :: 2#8 :: 0#8 :: [Config.foreignByte 2 0]))) ∧
  (∀ (s : State), belfryUp s = true → exec (.getPldmVersion) s = .next
    (sendPldm s (Config.foreignByte 8 1) ((Config.foreignByte 8 4 &&& 0x1F#8) :: 0#8 :: 3#8 :: 0#8 :: Config.foreignData 3 0))) ∧
  (∀ (s : State), belfryUp s = true → exec (.getPldmTypes) s = .next
    (sendPldm s (Config.foreignByte 8 1) ((Config.foreignByte 8 4 &&& 0x1F#8) :: 0#8 :: 4#8 :: 0#8 :: leBytes 8 5))) ∧
  (∀ (s : State) (type m : Nat), belfryUp s = true → pldmCmds type = some m → exec (.getPldmCommands type) s = .next
    (sendPldm s (Config.foreignByte 8 1) ((Config.foreignByte 8 4 &&& 0x1F#8) :: 0#8 :: 5#8 :: 0#8 :: leBytes 32 m))) ∧
  (∀ (s : State) (type : Nat), belfryUp s = true → pldmCmds type = none → exec (.getPldmCommands type) s = .next
    (sendPldm s (Config.foreignByte 8 1) ((Config.foreignByte 8 4 &&& 0x1F#8) :: 0#8 :: 5#8 :: 0x83#8 :: []))) ∧
  (∀ (s : State) (handle : Nat), belfryUp s = true → exec (.getPdr handle) s = .next
    (sendPldm s (Config.foreignByte 8 1) ((Config.foreignByte 8 4 &&& 0x1F#8) :: 2#8 :: 0x51#8 :: 0#8 :: Config.foreignData 4 handle))) ∧
  (∀ (s : State), belfryUp s = true → exec (.getPdrRepositoryInfo) s = .next
    (sendPldm s (Config.foreignByte 8 1) ((Config.foreignByte 8 4 &&& 0x1F#8) :: 2#8 :: 0x50#8 :: 0#8 :: Config.foreignData 5 0))) ∧
  (∀ (s : State) (sensor : Nat) (v : Int), belfryUp s = true → sensorValue s sensor = some v → exec (.getSensorReading sensor) s = .next
    (sendPldm s (Config.foreignByte 8 1) ((Config.foreignByte 8 4 &&& 0x1F#8) :: 2#8 :: 0x11#8 :: 0#8 :: ([5#8, 0#8] ++ (List.range 4).map (Config.foreignByte 6) ++ leBytes 4 (unsignedN 32 v))))) ∧
  (∀ (s : State) (sensor : Nat), belfryUp s = true → 8 ≤ sensor → exec (.getSensorReading sensor) s = .next
    (sendPldm s (Config.foreignByte 8 1) ((Config.foreignByte 8 4 &&& 0x1F#8) :: 2#8 :: 0x11#8 :: 0x80#8 :: []))) ∧
  (∀ (s : State) (sensor v : Nat), belfryUp s = true → stateValue s sensor = some v → exec (.getStateSensorReadings sensor) s = .next
    (sendPldm s (Config.foreignByte 8 1) ((Config.foreignByte 8 4 &&& 0x1F#8) :: 2#8 :: 0x21#8 :: 0#8 :: [1#8, 0#8, BitVec.ofNat 8 v, Config.foreignByte 7 0, Config.foreignByte 7 1]))) ∧
  (∀ (s : State) (sensor : Nat), belfryUp s = true → 9 ≤ sensor → exec (.getStateSensorReadings sensor) s = .next
    (sendPldm s (Config.foreignByte 8 1) ((Config.foreignByte 8 4 &&& 0x1F#8) :: 2#8 :: 0x21#8 :: 0x80#8 :: []))) ∧
  (∀ (s : State) (addr : Nat), belfryUp s = true → exec (.setEventReceiver addr) s = .next
    (sendPldm { s with hif := { s.hif with evRecv := some addr } } (Config.foreignByte 8 1) [Config.foreignByte 8 4 &&& 0x1F#8, 2#8, 4#8, 0#8])) ∧
  (∀ (s : State) (a : Nat) (m : List Byte) (rest : List (List Byte)), belfryUp s = true → s.hif.evRecv = some a → s.hif.alerts = m :: rest →
    ∃ t, exec .platformEventMessage s = .next t ∧ t.hif.alerts = rest ∧ t.pins.alert = !rest.isEmpty ∧
      t.hif.out = (sendPldm s (BitVec.ofNat 8 a)
        ((Config.foreignByte 8 5 ||| 0x80#8) :: 2#8 :: 0x0A#8 :: 1#8 :: Config.foreignByte 2 0 :: Config.foreignByte 8 6 :: m)).hif.out)

/-- With the space open, a legal write to the set-up space stages what it covers, except that BEL_COMMIT.GO asks for a commit with its tag
and CUP_BLIND_ACK acknowledges a site; a legal read sends the value out and clears the RC fields of its slot. COMMIT_GO asks for a commit.
A capture of a position's SPN_SYNC_ERR records it. An acknowledgement of a site within its time is noted. (21_registers.md,
19_bring_up_and_configuration.md, 17_thermal_and_cooling.md) -/
def Obligations.RegistersComplete : Prop :=
  (∀ (s : State) (off n v : Nat), legalAcc off n = true → Serving s → off < 0x400000 → off ≠ 0x40 → off ≠ 0x80008 →
    exec (.registerWrite off n v) s = .next { s with regs := { s.regs with staged := stageWrite off n v s.regs.staged } }) ∧
  (∀ (s : State) (n v : Nat), legalAcc 0x40 n = true → Serving s → v.testBit 0 = true →
    exec (.registerWrite 0x40 n v) s = .next { s with regs := { s.regs with request := some (v / 65536 % 65536) } }) ∧
  (∀ (s : State) (tag : Nat), Serving s → exec (.commitGo tag) s = .next { s with regs := { s.regs with request := some (tag % 65536) } }) ∧
  (∀ (s : State) (off n : Nat), legalAcc off n = true → Serving s → off < 0x100000 → off % 8 = 0 →
    exec (.rcRegisterRead off n) s = .next (clearRc (sendMsg s 4 (leBytes n (regRead s off n))) off)) ∧
  (∀ (s : State) (p : Nat), p < 624 → exec (.syncErrCapture p) s = .next { s with syncCap := insKey p (spAt s p).syncErr s.syncCap }) ∧
  (∀ (s : State) (site t0 : Nat), (siteAt s site).blindAt = some t0 → site < 640 → s.bell.refTime < t0 + blindTime → site < s.thermal.sites.length →
    ∃ t, exec (.blindSiteAck site) s = .next t ∧ siteAt t site = { siteAt s site with acked := true } ∧ ∀ n, n ≠ site → siteAt t n = siteAt s n)

/-- From every state in which staged values lie within their staged bits (StepKeepsControl), with the space open: a legal write of the
set-up space that covers a whole ST field of a register leaves that field dirty (every bit of it marked staged) with the staged value that
the write gives it, and leaves every value in effect, so every read of every register outside the doorbell page returns what it returned
before. At reset every dirty bit is clear. The register of the commit request and CUP_BLIND_ACK hold no ST field. (R455) -/
def Obligations.WritesStageTheirFields : Prop :=
  (∀ (s : State) (off n v hi lo i : Nat), ControlOk s → legalAcc off n = true → Serving s → off < 0x400000 → off ≠ 0x40 → off ≠ 0x80008 →
    (hi, lo) ∈ stFields (off / 8 * 8) → 8 * (off % 8) ≤ lo → hi < 8 * (off % 8) + 8 * n → lo ≤ i → i ≤ hi →
    ∃ t, exec (.registerWrite off n v) s = .next t ∧
      (stagedBits t.regs.staged (off / 8 * 8)).testBit i = true ∧
      (laid t t.regs.staged (off / 8 * 8)).testBit i = v.testBit (i - 8 * (off % 8)) ∧
      t.regs.eff = s.regs.eff ∧ (∀ o m, o < 0x400000 → o ≠ 0x40 → regRead t o m = regRead s o m)) ∧
  State.reset.regs.staged = []

/-- With the space open, for every position p: an 8-byte read of word 0 answers the low 64 bits of the record in effect and captures all
192 bits; whatever the register holds later, words 1 and 2 read as the capture's; and while nothing has been captured, they read as the
record in effect. (R493) -/
def Obligations.SyncErrorIsReadInThreeWords : Prop :=
  (∀ (s : State) (p : Nat), p < 624 → Serving s →
    ∃ t, exec (.rcRegisterRead (0x100080 + 0x400 * p) 8) s = .next t ∧ getKey p t.syncCap = some (spAt s p).syncErr ∧
      t.hif.out = s.hif.out ++ [⟨4, leBytes 8 ((spAt s p).syncErr % 2 ^ 64)⟩] ∧ (spAt t p).syncErr = (spAt s p).syncErr) ∧
  (∀ (s : State) (p r : Nat), p < 624 → Serving s → getKey p s.syncCap = some r →
    regRead s (0x100088 + 0x400 * p) 8 = r / 2 ^ 64 % 2 ^ 64 ∧ regRead s (0x100090 + 0x400 * p) 8 = r / 2 ^ 128 % 2 ^ 64) ∧
  (∀ (s : State) (p : Nat), p < 624 → Serving s → getKey p s.syncCap = none →
    regRead s (0x100088 + 0x400 * p) 8 = (spAt s p).syncErr / 2 ^ 64 % 2 ^ 64 ∧
      regRead s (0x100090 + 0x400 * p) 8 = (spAt s p).syncErr / 2 ^ 128 % 2 ^ 64)

/-- When the keep is at work on an operation and the flash verifies, the operation completes. With a record that it accepts: UPDATE makes
the slot that did not boot preferred, ENROL stores the operator's key with floor 0, RELEASE removes the operator and both configuration
slots, CONFIG raises the floor to the record's SEQ; the status is done. With any other record: images, floors, operator and configuration
stay as they are, the status is failed with the CODE, and E-0x805 is raised; which CODE a record gets that fails several checks is log
entry 55 (DEDUCED: R441 and Table 18.7 give no order). An UPDATE, ENROL or CONFIG whose write does not verify fails with CODE 9 and
E-0x807, and the preferred slot, the operator and the floor stay. (18_keep.md) -/
def Obligations.KeepOperationsComplete : Prop :=
  (∀ s : State, opRuns s 1 = true → ∃ t, exec (.keepUpdate true true) s = .next t ∧
      if updateCode (opRecord s).2 (opRecord s).1 = 0 then
        t.keep.opState = 2 ∧ t.keep.opCode = 0 ∧ t.keep.floors = s.keep.floors ∧ ((opRecord s).2.keep.preferred.length = 3 →
          t.keep.preferred[recType (opRecord s).1 - 1]? = some (1 - s.keep.slots.getD (recType (opRecord s).1 - 1) 0))
      else KeepRefused (updateCode (opRecord s).2 (opRecord s).1) s t) ∧
  (∀ (s : State) (d : Bool), opRuns s 1 = true → ∃ t, exec (.keepUpdate false d) s = .next t ∧
      if updateCode (opRecord s).2 (opRecord s).1 = 0 then
        t.keep.opState = 3 ∧ t.keep.opCode = 9 ∧ t.keep.preferred = s.keep.preferred ∧ ∃ e ∈ t.hif.due, e.code = 0x807
      else KeepRefused (updateCode (opRecord s).2 (opRecord s).1) s t) ∧
  (∀ (s : State) (c : Bool), opRuns s 2 = true → ∃ t, exec (.keepEnrol true c) s = .next t ∧
      if enrolCode (opRecord s).2 (opRecord s).1 = 0 then
        t.keep.opState = 2 ∧ t.keep.cfgFloor = 0 ∧ t.keep.operator = some (BitVec.ofNat 1056 (beNat ((recBody (opRecord s).1).take 132)))
      else KeepRefused (enrolCode (opRecord s).2 (opRecord s).1) s t) ∧
  (∀ (s : State) (c : Bool), opRuns s 2 = true → ∃ t, exec (.keepEnrol false c) s = .next t ∧
      if enrolCode (opRecord s).2 (opRecord s).1 = 0 then
        t.keep.opState = 3 ∧ t.keep.opCode = 9 ∧ t.keep.operator = s.keep.operator ∧ t.keep.cfgFloor = s.keep.cfgFloor ∧
          ∃ e ∈ t.hif.due, e.code = 0x807
      else KeepRefused (enrolCode (opRecord s).2 (opRecord s).1) s t) ∧
  (∀ (s : State) (c : Bool), opRuns s 3 = true → ∃ t, exec (.keepRelease true c) s = .next t ∧
      if releaseCode (opRecord s).2 (opRecord s).1 = 0 then t.keep.opState = 2 ∧ t.keep.operator = none ∧ t.keep.cfg = [.erased, .erased]
      else KeepRefused (releaseCode (opRecord s).2 (opRecord s).1) s t) ∧
  (∀ s : State, opRuns s 4 = true → ∃ t, exec (.keepConfig true true) s = .next t ∧
      if configCode (opRecord s).2 (opRecord s).1 = 0 then t.keep.opState = 2 ∧ t.keep.cfgFloor = recN (recBody (opRecord s).1) 0 8
      else KeepRefused (configCode (opRecord s).2 (opRecord s).1) s t) ∧
  (∀ (s : State) (b : Bool), opRuns s 4 = true → ∃ t, exec (.keepConfig false b) s = .next t ∧
      if configCode (opRecord s).2 (opRecord s).1 = 0 then
        t.keep.opState = 3 ∧ t.keep.opCode = 9 ∧ t.keep.cfgFloor = s.keep.cfgFloor ∧ ∃ e ∈ t.hif.due, e.code = 0x807
      else KeepRefused (configCode (opRecord s).2 (opRecord s).1) s t)

/-- A RESET_N level of 10 µs or more resets the device, which stays tripped only while some comparator or stack output still fires; a
shorter one is ignored; VAON_REMOVAL ends the always-on domain. The rising edge with VIN in range runs the power-up sequence; with VIN out
of range it waits for it, and a device that a trip keeps off stays off. WAKE_N low for 1 µs or more is a wake cause in a sleep state. A
commit of MODE 0 in the light state is a wake cause, of MODE 1 in the run state brings the light state, of MODE 2 the deep one, at the
bell of that commit. That the power-up runs in one command, when the sleep states take effect and how a comparator goes quiet are the
model's choice (log entries 50, 51 and 52). (19_bring_up_and_configuration.md, 17_thermal_and_cooling.md) -/
def Obligations.PowerAndSleepComplete : Prop :=
  (∀ (s : State) (us : Nat) (fires : List Nat), us < 10 → exec (.resetAssert us fires) s = .next s) ∧
  (∀ (s : State) (us : Nat) (fires : List Nat), 10 ≤ us →
    ∃ t, exec (.resetAssert us fires) s = .next t ∧ t.power.reset = true ∧ t.power.step = 0 ∧ t.bell.count = 0 ∧ t.bell.refTime = 0 ∧
      t.regs = State.reset.regs ∧ t.jobs = State.reset.jobs ∧ t.spindles = State.reset.spindles ∧ t.hbm = State.reset.hbm ∧
      t.thermal.tripped = (s.thermal.tripped && !fires.isEmpty) ∧ t.thermal.trip = s.thermal.trip ∧ t.keep.operator = s.keep.operator ∧ t.keep.bound = s.keep.bound ∧
      t.pending = s.pending) ∧
  (∀ s : State, ∃ t, exec .vaonRemoval s = .next t ∧ t.power.vaon = false ∧ t.thermal = State.reset.thermal ∧ t.pins = { State.reset.pins with trstHigh := s.pins.trstHigh, ser := s.pins.ser } ∧
    t.bell.count = 0 ∧ t.keep.bound = s.keep.bound) ∧
  (∀ (s : State) (e : PowerUp), s.power.reset = true → (s.thermal.tripped || s.thermal.vinOff) = true →
    ∃ t, exec (.powerUp e) s = .next t ∧ t.power.off = true ∧ t.bell = s.bell) ∧
  (∀ (s : State) (e : PowerUp), s.power.reset = true → s.thermal.tripped = false → s.thermal.vinOff = false → e.vinOk = true →
    exec (.powerUp e) s = .next (powerSeq false e (modPower (tapRelease (takeStraps e.strap s)) fun w => { w with reset := false, vaon := true }))) ∧
  (∀ (s : State) (e : PowerUp), s.power.reset = true → s.thermal.tripped = false → s.thermal.vinOff = false → e.vinOk = false →
    ∃ t, exec (.powerUp e) s = .next t ∧ t.power.waiting = some e ∧ t.power.reset = false ∧ t.bell = s.bell) ∧
  (∀ (s : State) (e : PowerUp), s.power.waiting = some e →
    exec .vinWithinRange s = .next (powerSeq s.power.deepWake e (modPower s fun w => { w with vinBad := false }))) ∧
  (∀ (s : State) (us : Nat), 1 ≤ us → s.power.sleep ≠ 0 → exec (.wakeN us) s = .next { s with power := { s.power with wakeDue := true } }) ∧
  (∀ (s : State) (us : Nat), (us < 1 ∨ s.power.sleep = 0) → exec (.wakeN us) s = .next s) ∧
  (∀ s : State, sleepDue s 0 = true → s.power.sleep = 1 → exec .sleepRun s = .next { s with power := { s.power with wakeDue := true } }) ∧
  (∀ s : State, sleepDue s 1 = true → s.power.sleep = 0 →
    ∃ t, exec .sleepLight s = .next t ∧ t.power.sleep = 1 ∧ t.hbm.selfRefresh = true ∧ (∃ e ∈ t.hif.due, e.code = 0x010) ∧
      ∀ w ∈ t.lantern.pos, w.dark = true ∨ w.wake = 1) ∧
  (∀ s : State, sleepDue s 2 = true →
    ∃ t, exec .sleepDeep s = .next t ∧ t.power.sleep = 2 ∧ t.power.off = true ∧ t.power.savedBell = s.bell.count ∧ t.hbm.selfRefresh = true ∧
      t.hif.link = false ∧ t.bell.fired = false)

/-- At a power-up with VIN in range and the PLL locked in each die, of a device that no trip keeps off, whose PUF read-out cannot be
corrected: E-0x803 is among the entries due, the keep's boot has stopped in its first stage and the power-up with it, no bell fires, and
no key, nonce key or identity is held. That one POWER_UP stands for the whole sequence is the model's choice (log entry 51). (R428, R434,
R435, R449, R450, 18_keep.md, 19_bring_up_and_configuration.md) -/
def Obligations.FailedIdentityStopsTheBoot : Prop :=
  ∀ (s : State) (e : PowerUp), s.power.reset = true → s.thermal.tripped = false → s.thermal.vinOff = false → e.vinOk = true →
    e.pllFail = none → e.pufOk = false →
    ∃ t, exec (.powerUp e) s = .next t ∧ t.keep.stopped = true ∧ t.keep.stage = 0 ∧ t.power.step = 3 ∧ t.bell.fired = false ∧
      t.keep.dik = 0 ∧ t.keep.ak = 0 ∧ t.keep.nk = 0#512 ∧ t.keep.devid = 0#512 ∧ (∃ x ∈ t.hif.due, x.code = 0x803 ∧ x.job = none) ∧
      spaceOpen t = false

/-- The next sample is taken at the next multiple of 1,024 rc, which may be that of a bell that has just fired. A droop starts stretching
when the lowest valid reading falls below the threshold, and ends when it has recovered. A set-point step moves the setpoint by one
increment while no droop holds it. A measurement of ageing that is due and needs no more margin than there is only records its counts. A
first failed phase of an inner position caps it at 75 % with E-0x601; a failed converter leaves it dark. Die-edge phases raise E-0x605
four times, then E-0x606. A VIN window trip powers the device off and is recorded beside the spires that tripped before. Wakes ramp step
by step, none while a reading of the position or a neighbour is below its threshold; an idle position is gated; a skipped frame ends.
(15_power_delivery.md, 16_power_control_and_energy.md, 01_bell.md) -/
def Obligations.LanternCompletes : Prop :=
  (∀ (x : Sample) (s : State), s.power.off = false → s.bell.held = false →
    ∃ t, exec (.lanternSample x) s = .next t ∧ t.lantern.vaon = x.vaon ∧ t.bell.refTime = max s.bell.refTime (sampleTime s) ∧ t.lantern.sampleAt = t.bell.refTime ∧
      t.lantern.eAon = s.lantern.eAon + x.vaon * 1800) ∧
  (∀ (s : State) (p : Nat) (rs : List Nat), p < 624 → p < s.spindles.length → readsBelow s p rs (droopAt s p) = true →
    ∃ t, exec (.droopStretchStart p rs) s = .next t ∧ (spAt t p).clock.stretching = true ∧
      (spAt t p).clock.events = (spAt s p).clock.events + (if (spAt s p).clock.stretching then 0 else 1) ∧ ∀ x, x ≠ p → { spAt t x with ctr := (spAt s x).ctr } = spAt s x) ∧
  (∀ (s : State) (p lost : Nat) (rs : List Nat), p < 624 → p < s.spindles.length → (spAt s p).clock.stretching = true →
    readsBelow s p rs (droopAt s p + stf s 0x10008 15 8) = false →
    ∃ t, exec (.droopStretchEnd p rs lost) s = .next t ∧ (spAt t p).clock.stretching = false ∧
      (spAt t p).clock.lost = (spAt s p).clock.lost + lost) ∧
  (∀ (s : State) (p : Nat) (rs : List Nat), p < 624 → p < s.spindles.length → p < s.lantern.pos.length → (pwAt s p).mv ≠ (pwAt s p).target → s.power.off = false →
    (spAt s p).clock.stretching = false → readsBelow s p rs (droopAt s p) = false →
    ∃ t, exec (.dvfsSetpointStep p rs) s = .next t ∧ (pwAt t p).mv = towards (pwAt s p).mv (pwAt s p).target ∧
      (pwAt t p).stepAt = (pwAt s p).stepAt + 256) ∧
  (∀ (s : State) (p phase : Nat), phase < 4 → p < 624 → p < s.lantern.pos.length → (pwAt s p).phfail = [] → (pwAt s p).dark = false → atEdge p = false →
    ∃ t, exec (.phaseFail p phase) s = .next t ∧ (pwAt t p).capPct = min (pwAt s p).capPct 75 ∧ (pwAt t p).phfail = [phase] ∧
      (pwAt t p).dark = false ∧ ∃ e ∈ t.hif.due, e.code = 0x601) ∧
  (∀ (s : State) (p : Nat), p < 624 → p < s.lantern.pos.length → (pwAt s p).dark = false →
    ∃ t, exec (.vsramConverterFail p) s = .next t ∧ (pwAt t p).dark = true ∧ (pwAt t p).cause = 2 ∧ (pwAt t p).sramFail = true) ∧
  (∀ (s : State) (i : Nat), i < 4 → (spireAt s i).edgeFail < 4 →
    exec (.dieEdgePhaseFail i) s = .next (raiseDev (modSpire s i fun w => { w with edgeFail := (spireAt s i).edgeFail + 1 }) (ev 0x605 i 0))) ∧
  (∀ (s : State) (i : Nat), i < 4 → (spireAt s i).edgeFail = 4 →
    ∃ t, exec (.dieEdgePhaseFail i) s = .next t ∧ t.power.noJob = true ∧ (∃ e ∈ t.hif.due, e.code = 0x606) ∧
      ∀ j, j < 8 → (jobOf s j).state = 2 → (jobOf t j).fault.isSome = true) ∧
  (∀ (s : State) (i : Nat), i < 4 → s.power.vaon = true →
    ∃ t, exec (.vinWindowTrip i) s = .next t ∧ t.power.off = true ∧ t.thermal.vinTrip = insNat i s.thermal.vinTrip ∧ t.thermal.vinOff = true ∧ t.pins.vfault = true) ∧
  (∀ (s : State) (b : Background), s.power.off = false →
    exec (.backgroundWindow b) s = .next (b.hbm.foldl (fun s t => if t.1 < 8 then hbmReadout s t.1 t.2.1 t.2.2 else s)
      (b.drop.foldl (fun s d => if d.1 < 624 then dropMeasure s d.1 d.2 else s)
        (b.droop.foldl (fun s d => if d.1 < 624 then droopCompare s d.1 d.2 else s) s)))) ∧
  (∀ (s : State) (p ro0 ro1 c0 c1 : Nat) (corr : Int × Int) (ok : Bool), p < 624 → p < s.lantern.pos.length → c0 = corrected ro0 corr.1 →
    c1 = corrected ro1 corr.2 → s.bell.fired = true → (pwAt s p).dark = false →
    ((pwAt s p).agedAt = none ∨ ∃ b, (pwAt s p).agedAt = some b ∧ b + 4096 ≤ s.bell.count) →
    needSteps (roTest s p) (c0 % 2 ^ 16 + c1 % 2 ^ 16) ≤ (pwAt s p).margin →
    ∃ t, exec (.ageingMeasurement p ro0 ro1 corr ok) s = .next t ∧ (pwAt t p).ro0 = c0 % 2 ^ 16 ∧ (pwAt t p).ro1 = c1 % 2 ^ 16 ∧
      (pwAt t p).agedAt = some s.bell.count ∧ (pwAt t p).margin = (pwAt s p).margin) ∧
  (∀ (s : State) (p : Nat), p < 624 → p < s.lantern.pos.length → s.power.off = false →
    ((((List.range 156).map fun k => 156 * spireOf p + k).filter fun q => (pwAt s q).wake == 3).length < 16) →
    ((List.range 156).map fun k => 156 * spireOf p + k).find? (rampReady s) = some p →
    ∃ t, exec (.wakeRampStart p) s = .next t ∧ pwAt t p = { pwAt s p with wake := 3, step := 0, wakeReq := none, rampAt := s.bell.refTime }) ∧
  (∀ (s : State) (p u : Nat) (rec : Bool) (rs : List (Nat × List Nat)), p < 624 → p < s.lantern.pos.length → (pwAt s p).wake = 3 →
    rampHeld s p rs = false → s.power.off = false →
    u = (if rec then max ((pwAt s p).rampAt + 2100) (s.bell.refTime + 256) else (pwAt s p).rampAt + 2100) →
    ∃ t, exec (.wakeRampStep p rec rs) s = .next t ∧
      ((pwAt s p).step ≠ 7 → pwAt t p = { pwAt s p with step := (pwAt s p).step + 1, rampAt := u }) ∧
      ((pwAt s p).step = 7 → (pwAt t p).wake = 0 ∧ (pwAt t p).rampAt = u ∧ (pwAt t p).mv = setpoint s p (pwAt s p).goal)) ∧
  (∀ (s : State) (p : Nat) (rec : Bool) (rs : List (Nat × List Nat)), p < 624 → rampHeld s p rs = true →
    exec (.wakeRampStep p rec rs) s = .next s) ∧
  (∀ (s : State) (p : Nat), p < 624 → p < s.lantern.pos.length → stf s 0x10000 19 12 ≠ 0 → stf s 0x10000 19 12 < (pwAt s p).idle →
    jobAt s p = none → (pwAt s p).dark = false → (pwAt s p).wake = 0 → refilling s p = none →
    ∃ t, exec (.idlePowerGate p) s = .next t ∧ pwAt t p = gate (pwAt s p)) ∧
  (∀ (s : State) (p : Nat), p < 624 → p < s.spindles.length → (spAt s p).skipping = 1 →
    ∃ t, exec (.frameSkipEnd p) s = .next t ∧ spAt t p = { spAt s p with skipping := 0 })

/-- An excluded sensor of a site is recorded with E-0x703 and, when it is the second, the site is blind with E-0x704. A blind site that
nobody acknowledged in its time trips the device; a comparator or a stack's CATTRIP trips it: the cause, site and reading are recorded,
the device is off, and nothing trips it again, nor a device without VAON. (17_thermal_and_cooling.md) -/
def Obligations.ThermalCompletes : Prop :=
  (∀ (s : State) (site sens : Nat), sens < 2 → site < 640 → site < s.thermal.sites.length → (siteAt s site).excl = [] →
    ∃ t, exec (.sensorExcluded site sens) s = .next t ∧ (siteAt t site).excl = [sens] ∧ (siteAt t site).blindAt = (siteAt s site).blindAt ∧
      ∃ e ∈ t.hif.due, e.code = 0x703) ∧
  (∀ (s : State) (site sens : Nat), sens < 2 → site < 640 → site < s.thermal.sites.length → (siteAt s site).excl = [1 - sens] →
    ∃ t, exec (.sensorExcluded site sens) s = .next t ∧ (siteAt t site).excl.length = 2 ∧ (siteAt t site).blindAt = some s.bell.refTime ∧
      (siteAt t site).acked = false ∧ ∃ e ∈ t.hif.due, e.code = 0x704) ∧
  (∀ (s : State) (site t0 : Nat), site < 640 → (siteAt s site).blindAt = some t0 → (siteAt s site).acked = false → s.thermal.tripped = false → s.power.vaon = true →
    ∃ t, exec (.blindSiteExpire site) s = .next t ∧ t.thermal.trip = some (3, site, 0x800) ∧ t.thermal.tripped = true ∧ t.power.off = true) ∧
  (∀ (s : State) (site : Nat), site < 632 → s.thermal.tripped = false → s.power.vaon = true →
    ∃ t, exec (.tripComparatorFire site) s = .next t ∧ t.thermal.trip = some (0, site, readingCode (siteAt s site)) ∧ t.thermal.tripped = true ∧
      t.power.off = true ∧ t.bell.fired = false ∧ t.hif.link = false) ∧
  (∀ (s : State) (h : Nat), h < 8 → s.thermal.tripped = false → s.power.vaon = true →
    ∃ t, exec (.hbmCattrip h) s = .next t ∧ t.thermal.trip = some (1, 632 + h, readingCode (siteAt s (632 + h))) ∧ t.thermal.tripped = true ∧
      t.power.off = true) ∧
  (∀ (s : State) (cause site reading : Nat), (s.thermal.tripped = true ∨ s.power.vaon = false) → trip s cause site reading = s)

/-- While VAON is present, whatever the TAP's instruction and the boundary register: after a thermal trip of a device that has not
tripped, THERMTRIP_N is low and VFAULT_N is as it was; after a VIN window trip VFAULT_N is low and THERMTRIP_N as it was. In EXTEST, its
pulse and train forms and CLAMP a cell that drives its pin low makes it low; and a pin that a trip drives is low with every content of the
boundary register. Without VAON neither pin is driven. That the pulse and train forms drive a pin that has no 1149.6 cell as EXTEST does
(R513 names no instruction), and what the register holds and drives under the others, are the model's choice (log entries 85 and 58).
(R513, 22_package.md, 17_thermal_and_cooling.md) -/
def Obligations.TripPinsAreLow : Prop :=
  (∀ s : State, s.power.vaon = false → thermtripLow s = false ∧ vfaultLow s = false) ∧
  (∀ (s : State) (cause site reading : Nat), s.thermal.tripped = false → s.power.vaon = true →
    thermtripLow (trip s cause site reading) = true ∧ vfaultLow (trip s cause site reading) = vfaultLow s) ∧
  (∀ (s : State) (i : Nat), i < 4 → s.power.vaon = true → ∃ t, exec (.vinWindowTrip i) s = .next t ∧ vfaultLow t = true ∧ thermtripLow t = thermtripLow s) ∧
  (∀ s : State, s.power.vaon = true → (s.pins.tap = 3 ∨ s.pins.tap = 4 ∨ s.pins.tap = 5 ∨ s.pins.tap = 7) →
    (s.pins.cells.getD 241 false = true → thermtripLow s = true) ∧ (s.pins.cells.getD 242 false = true → vfaultLow s = true)) ∧
  (∀ (s : State) (tap : Nat) (cells : List Bool), s.power.vaon = true →
    (s.pins.thermtrip = true → thermtripLow { s with pins := { s.pins with tap := tap, cells := cells } } = true) ∧
    (s.pins.vfault = true → vfaultLow { s with pins := { s.pins with tap := tap, cells := cells } } = true))

/-- A logic check that fails in a unit of a position in service takes the position out of service with E-0xA01; an engine whose head word
can issue, as one of the commands that issue words would have it, and has not for 65,536 sc does so with E-0xA02. A lost reference holds
the block: no word issues, no bell fires, and nothing is under way any more. A bit that flips in a word that is not poisoned is recorded
against it, and flipping it again undoes it; the bytes stay. (20_faults_and_recovery.md, 01_bell.md, 13_fabric_and_hbm.md) -/
def Obligations.FaultsComplete : Prop :=
  (∀ (s : State) (p k : Nat), p < 624 → p < s.spindles.length → (k < 6 ∨ k = 7) → (spAt s p).service.oos = false →
    ∃ t, exec (.logicCheck p k) s = .next t ∧ (spAt t p).service = { oos := true, cause := 1, stream := k } ∧ ∃ e ∈ t.hif.due, e.code = 0xA01) ∧
  (∀ (s : State) (p k : Nat), p < 624 → p < s.spindles.length → k < 6 → (afterIssue s p k).isSome = true → (spAt s p).service.oos = false →
    ∃ t, exec (.stuckEngine p k) s = .next t ∧ (spAt t p).service = { oos := true, cause := 2, stream := k } ∧ ∃ e ∈ t.hif.due, e.code = 0xA02) ∧
  (∀ (s : State) (src : Nat), src < 5 →
    ∃ t, exec (.referenceLost src) s = .next t ∧ t.bell = { s.bell with held := true } ∧ bellRuns t = false ∧
      (∀ p k, mayIssue t p k = false) ∧ t.fabric.net = [] ∧ t.fabric.replies = [] ∧ t.hbm.waiting = [] ∧ t.hbm.granted = [] ∧
      ∃ e ∈ t.hif.due, e.code = 0xB07) ∧
  (∀ (s : State) (p w bit : Nat), p < 624 → p < s.spindles.length → w < distSize / 8 → bit < 72 → (spAt s p).distaff.poison.contains w = false →
    ∃ t, exec (.memoryBitError 0 p w bit) s = .next t ∧ (spAt t p).distaff = { (spAt s p).distaff with errs := flipKey w bit (spAt s p).distaff.errs }) ∧
  (∀ (s : State) (p i bit : Nat), p < 624 → i < 2 ^ 19 → bit < 128 →
    exec (.memoryBitError 1 p i bit) s = .next (runPos s p fun l => l.half (i / 2 ^ 18) fun x =>
      if x.poison.contains (i % 2 ^ 18) then x else { x with errs := flipKey (i % 2 ^ 18) bit x.errs })) ∧
  (∀ (s : State) (p i bit : Nat), p < 624 → i < 4096 → bit < 512 →
    exec (.memoryBitError 2 p i bit) s = .next (runPos s p fun l => l.card (flipLoft i bit))) ∧
  (∀ (s : State) (p line bit : Nat), line < 12000000000 → bit < 576 → s.hbm.poison.contains line = false →
    exec (.memoryBitError 3 p line bit) s = .next { s with hbm := { s.hbm with errs := flipKey line bit s.hbm.errs } }) ∧
  (∀ (k bit : Nat) (l : List (Nat × Nat)), (getKey k (flipKey k bit (flipKey k bit l))).getD 0 = (getKey k l).getD 0)

/-- With VAON present and TRST_N high: BYPASS, by its own code or by one that names no instruction, selects itself; IDCODE selects itself
and sends its identification, which is 0x0476876F for stepping 0, while a TAP reset selects it and sends nothing, and TRST_N low holds it:
no instruction takes effect until TRST_N is high; SAMPLE/PRELOAD, and EXTEST, EXTEST_PULSE and EXTEST_TRAIN while RESET_N is low, send 248
samples and take a register of 248 cells; a transmit pair drives its cell only with VSER and VSERH in range; those three select BYPASS
otherwise, and HIGHZ and CLAMP select themselves while RESET_N is low and BYPASS otherwise. Beside the pins, what goes out and the draws
of free values, nothing changes. What a captured register sends, that one command stands for an instruction, its scan and the rails at its
time, and that a sample of a pin whose level the model does not hold is a free value, are the model's choice (log entries 58, 85 and 3).
(22_package.md) -/
def Obligations.BoundaryScanCompletes : Prop :=
  (∀ (s : State) (code : Nat), tapRuns s = true → exec (.bypass code) s = .next { s with pins := { s.pins with tap := 0xFF } }) ∧
  (∀ s : State, tapRuns s = true → ∃ t, exec (.idcode .scan) s = .next t ∧ t.pins = { s.pins with tap := 1 } ∧
    (Config.stepping = 0 → t.hif.out = s.hif.out ++ [⟨6, leBytes 4 0x0476876F⟩]) ∧ { t with pins := s.pins, hif := s.hif } = s) ∧
  (∀ (s : State), tapRuns s = true → exec (.idcode .tmsReset) s = .next { s with pins := { s.pins with tap := 1 } }) ∧
  (∀ s : State, exec (.idcode .trstLow) s = .next { s with pins := { s.pins with trstHigh := false, tap := 1 } }) ∧
  (∀ s : State, exec (.idcode .trstHigh) s = .next { s with pins := { s.pins with trstHigh := true } }) ∧
  (∀ (s : State) (cells : List Bool) (ser : Bool), s.pins.trstHigh = false → s.power.vaon = true → s.pins.tap = 1 →
    (∀ code, exec (.bypass code) s = .next s) ∧ (∃ t, exec (.extest cells ser) s = .next t ∧ t.pins = { s.pins with ser := ser } ∧ t.hif.out = s.hif.out) ∧
      ∀ i, pairDrive s i = none) ∧
  (∀ (s : State) (i : Nat), i < 102 → s.power.vaon = true → (s.pins.tap = 3 ∨ s.pins.tap = 4 ∨ s.pins.tap = 5 ∨ s.pins.tap = 7) →
    pairDrive s i = if s.pins.ser then some (s.pins.cells.getD i false) else none) ∧
  (∀ (s : State) (cells : List Bool) (ser : Bool), tapRuns s = true → cells.length = 248 →
    ∃ t bs, exec (.samplePreload cells ser) s = .next t ∧ t.pins = { s.pins with tap := 2, cells := cells, ser := ser } ∧
      t.hif.out = s.hif.out ++ [⟨6, bs⟩] ∧ bs.length = 31 ∧ t.free = s.free + 248) ∧
  (∀ (s : State) (cells : List Bool) (ser : Bool), tapRuns s = true → s.power.reset = true → cells.length = 248 →
    ∃ t bs, exec (.extest cells ser) s = .next t ∧ t.pins = { s.pins with tap := 3, cells := cells, ser := ser } ∧
      t.hif.out = s.hif.out ++ [⟨6, bs⟩] ∧ bs.length = 31 ∧ t.free = s.free + 248) ∧
  (∀ (s : State) (cells : List Bool) (ser : Bool), tapRuns s = true → s.power.reset = true → cells.length = 248 →
    ∃ t bs, exec (.extestPulse cells ser) s = .next t ∧ t.pins = { s.pins with tap := 4, cells := cells, ser := ser } ∧
      t.hif.out = s.hif.out ++ [⟨6, bs⟩] ∧ bs.length = 31 ∧ t.free = s.free + 248) ∧
  (∀ (s : State) (cells : List Bool) (ser : Bool), tapRuns s = true → s.power.reset = true → cells.length = 248 →
    ∃ t bs, exec (.extestTrain cells ser) s = .next t ∧ t.pins = { s.pins with tap := 5, cells := cells, ser := ser } ∧
      t.hif.out = s.hif.out ++ [⟨6, bs⟩] ∧ bs.length = 31 ∧ t.free = s.free + 248) ∧
  (∀ (s : State) (cells : List Bool) (ser : Bool), tapRuns s = true → s.power.reset = false →
    exec (.extest cells ser) s = .next { s with pins := { s.pins with tap := 0xFF, ser := ser } }) ∧
  (∀ (s : State) (cells : List Bool) (ser : Bool), tapRuns s = true → s.power.reset = false →
    exec (.extestPulse cells ser) s = .next { s with pins := { s.pins with tap := 0xFF, ser := ser } }) ∧
  (∀ (s : State) (cells : List Bool) (ser : Bool), tapRuns s = true → s.power.reset = false →
    exec (.extestTrain cells ser) s = .next { s with pins := { s.pins with tap := 0xFF, ser := ser } }) ∧
  (∀ s : State, tapRuns s = true →
    exec .highz s = .next { s with pins := { s.pins with tap := if s.power.reset then 6 else 0xFF } }) ∧
  (∀ s : State, tapRuns s = true →
    exec .clamp s = .next { s with pins := { s.pins with tap := if s.power.reset then 7 else 0xFF } })

/-- Whatever the operands, when a sum, a product, a fused multiply-add or a quotient of binary32 values is a NaN, it is 0x7FC00000; what
an FP32 element is written as is 0x7FC00000 when it is a NaN, and what a bfloat16 element is written as is 0x7FC0. (03_number_formats.md) -/
def Obligations.NaNsAreCanonical : Prop :=
  ∀ a b c : F32,
    (read32 (fadd a b) = .nan → fadd a b = 0x7FC00000#32) ∧ (read32 (fmul a b) = .nan → fmul a b = 0x7FC00000#32) ∧
    (read32 (ffma a b c) = .nan → ffma a b c = 0x7FC00000#32) ∧ (read32 (fdiv a b) = .nan → fdiv a b = 0x7FC00000#32) ∧
    (read32 (canon32 a) = .nan → canon32 a = 0x7FC00000#32) ∧ (read16 (narrow16 a) = .nan → narrow16 a = 0x7FC0#16)
end

