-- ==== Sys2Proof/Laws/State.lean ====
section
/-!
SUPPORT. What each update of the state leaves alone: one lemma per update and field, and the reads after the list updates.
-/
namespace Sys2Proof.Machine

/-! Elements of a changed list -/

@[simp] theorem modAt_length {α : Type} (l : List α) (i : Nat) (f : α → α) : (modAt l i f).length = l.length := by
  induction l generalizing i with
  | nil => rfl
  | cons a as ih => cases i <;> simp [modAt, ih]

theorem modAt_getElem? {α : Type} (l : List α) (i k : Nat) (f : α → α) :
    (modAt l i f)[k]? = if i = k then l[k]?.map f else l[k]? := by
  induction l generalizing i k with
  | nil => simp [modAt]
  | cons a as ih =>
    cases i <;> cases k <;> simp [modAt, ih]

/-- Element k of a list whose element i is changed. -/
theorem modAt_getD {α : Type} (l : List α) (i k : Nat) (f : α → α) (d : α) :
    (modAt l i f).getD k d = if i = k ∧ k < l.length then f (l.getD k d) else l.getD k d := by
  simp only [List.getD_eq_getElem?_getD, modAt_getElem?]
  by_cases h : i = k <;> by_cases h' : k < l.length <;> simp [h, h']

theorem modAt_getD_ne {α : Type} (l : List α) (i k : Nat) (f : α → α) (d : α) (h : i ≠ k) : (modAt l i f).getD k d = l.getD k d := by
  rw [modAt_getD, if_neg fun x => h x.1]

theorem modAt_getD_self {α : Type} (l : List α) (i : Nat) (f : α → α) (d : α) (h : i < l.length) :
    (modAt l i f).getD i d = f (l.getD i d) := by rw [modAt_getD, if_pos ⟨rfl, h⟩]

theorem modAt_mem {α : Type} {l : List α} {i : Nat} {f : α → α} {x : α} (h : x ∈ modAt l i f) : x ∈ l ∨ ∃ y ∈ l, x = f y := by
  induction l generalizing i with
  | nil => simp [modAt] at h
  | cons a as ih =>
    cases i with
    | zero => simp only [modAt, List.mem_cons] at h; grind
    | succ i => simp only [modAt, List.mem_cons] at h; have := @ih i; grind

/-! Field by field -/

@[simp] theorem modSp_pending (s : State) (p : Nat) (f : Spindle → Spindle) : (modSp s p f).pending = s.pending := rfl
@[simp] theorem modSp_bell (s : State) (p : Nat) (f : Spindle → Spindle) : (modSp s p f).bell = s.bell := rfl
@[simp] theorem modSp_regs (s : State) (p : Nat) (f : Spindle → Spindle) : (modSp s p f).regs = s.regs := rfl
@[simp] theorem modSp_jobs (s : State) (p : Nat) (f : Spindle → Spindle) : (modSp s p f).jobs = s.jobs := rfl
@[simp] theorem modSp_map (s : State) (p : Nat) (f : Spindle → Spindle) : (modSp s p f).map = s.map := rfl
@[simp] theorem modSp_xing (s : State) (p : Nat) (f : Spindle → Spindle) : (modSp s p f).xing = s.xing := rfl
@[simp] theorem modSp_fabric (s : State) (p : Nat) (f : Spindle → Spindle) : (modSp s p f).fabric = s.fabric := rfl
@[simp] theorem modSp_hbm (s : State) (p : Nat) (f : Spindle → Spindle) : (modSp s p f).hbm = s.hbm := rfl
@[simp] theorem modSp_ports (s : State) (p : Nat) (f : Spindle → Spindle) : (modSp s p f).ports = s.ports := rfl
@[simp] theorem modSp_hif (s : State) (p : Nat) (f : Spindle → Spindle) : (modSp s p f).hif = s.hif := rfl
@[simp] theorem modSp_lantern (s : State) (p : Nat) (f : Spindle → Spindle) : (modSp s p f).lantern = s.lantern := rfl
@[simp] theorem modSp_thermal (s : State) (p : Nat) (f : Spindle → Spindle) : (modSp s p f).thermal = s.thermal := rfl
@[simp] theorem modSp_keep (s : State) (p : Nat) (f : Spindle → Spindle) : (modSp s p f).keep = s.keep := rfl
@[simp] theorem modSp_repair (s : State) (p : Nat) (f : Spindle → Spindle) : (modSp s p f).repair = s.repair := rfl
@[simp] theorem modSp_power (s : State) (p : Nat) (f : Spindle → Spindle) : (modSp s p f).power = s.power := rfl
@[simp] theorem modSp_pins (s : State) (p : Nat) (f : Spindle → Spindle) : (modSp s p f).pins = s.pins := rfl
@[simp] theorem modSp_syncCap (s : State) (p : Nat) (f : Spindle → Spindle) : (modSp s p f).syncCap = s.syncCap := rfl
@[simp] theorem modSp_images (s : State) (p : Nat) (f : Spindle → Spindle) : (modSp s p f).images = s.images := rfl
@[simp] theorem modSp_free (s : State) (p : Nat) (f : Spindle → Spindle) : (modSp s p f).free = s.free := rfl

@[simp] theorem modJob_pending (s : State) (j : Nat) (f : Job → Job) : (modJob s j f).pending = s.pending := rfl
@[simp] theorem modJob_bell (s : State) (j : Nat) (f : Job → Job) : (modJob s j f).bell = s.bell := rfl
@[simp] theorem modJob_regs (s : State) (j : Nat) (f : Job → Job) : (modJob s j f).regs = s.regs := rfl
@[simp] theorem modJob_map (s : State) (j : Nat) (f : Job → Job) : (modJob s j f).map = s.map := rfl
@[simp] theorem modJob_xing (s : State) (j : Nat) (f : Job → Job) : (modJob s j f).xing = s.xing := rfl
@[simp] theorem modJob_spindles (s : State) (j : Nat) (f : Job → Job) : (modJob s j f).spindles = s.spindles := rfl
@[simp] theorem modJob_fabric (s : State) (j : Nat) (f : Job → Job) : (modJob s j f).fabric = s.fabric := rfl
@[simp] theorem modJob_hbm (s : State) (j : Nat) (f : Job → Job) : (modJob s j f).hbm = s.hbm := rfl
@[simp] theorem modJob_ports (s : State) (j : Nat) (f : Job → Job) : (modJob s j f).ports = s.ports := rfl
@[simp] theorem modJob_hif (s : State) (j : Nat) (f : Job → Job) : (modJob s j f).hif = s.hif := rfl
@[simp] theorem modJob_lantern (s : State) (j : Nat) (f : Job → Job) : (modJob s j f).lantern = s.lantern := rfl
@[simp] theorem modJob_thermal (s : State) (j : Nat) (f : Job → Job) : (modJob s j f).thermal = s.thermal := rfl
@[simp] theorem modJob_keep (s : State) (j : Nat) (f : Job → Job) : (modJob s j f).keep = s.keep := rfl
@[simp] theorem modJob_repair (s : State) (j : Nat) (f : Job → Job) : (modJob s j f).repair = s.repair := rfl
@[simp] theorem modJob_power (s : State) (j : Nat) (f : Job → Job) : (modJob s j f).power = s.power := rfl
@[simp] theorem modJob_pins (s : State) (j : Nat) (f : Job → Job) : (modJob s j f).pins = s.pins := rfl
@[simp] theorem modJob_syncCap (s : State) (j : Nat) (f : Job → Job) : (modJob s j f).syncCap = s.syncCap := rfl
@[simp] theorem modJob_images (s : State) (j : Nat) (f : Job → Job) : (modJob s j f).images = s.images := rfl
@[simp] theorem modJob_free (s : State) (j : Nat) (f : Job → Job) : (modJob s j f).free = s.free := rfl

@[simp] theorem modPw_pending (s : State) (p : Nat) (f : PosPower → PosPower) : (modPw s p f).pending = s.pending := rfl
@[simp] theorem modPw_bell (s : State) (p : Nat) (f : PosPower → PosPower) : (modPw s p f).bell = s.bell := rfl
@[simp] theorem modPw_regs (s : State) (p : Nat) (f : PosPower → PosPower) : (modPw s p f).regs = s.regs := rfl
@[simp] theorem modPw_jobs (s : State) (p : Nat) (f : PosPower → PosPower) : (modPw s p f).jobs = s.jobs := rfl
@[simp] theorem modPw_map (s : State) (p : Nat) (f : PosPower → PosPower) : (modPw s p f).map = s.map := rfl
@[simp] theorem modPw_xing (s : State) (p : Nat) (f : PosPower → PosPower) : (modPw s p f).xing = s.xing := rfl
@[simp] theorem modPw_spindles (s : State) (p : Nat) (f : PosPower → PosPower) : (modPw s p f).spindles = s.spindles := rfl
@[simp] theorem modPw_fabric (s : State) (p : Nat) (f : PosPower → PosPower) : (modPw s p f).fabric = s.fabric := rfl
@[simp] theorem modPw_hbm (s : State) (p : Nat) (f : PosPower → PosPower) : (modPw s p f).hbm = s.hbm := rfl
@[simp] theorem modPw_ports (s : State) (p : Nat) (f : PosPower → PosPower) : (modPw s p f).ports = s.ports := rfl
@[simp] theorem modPw_hif (s : State) (p : Nat) (f : PosPower → PosPower) : (modPw s p f).hif = s.hif := rfl
@[simp] theorem modPw_thermal (s : State) (p : Nat) (f : PosPower → PosPower) : (modPw s p f).thermal = s.thermal := rfl
@[simp] theorem modPw_keep (s : State) (p : Nat) (f : PosPower → PosPower) : (modPw s p f).keep = s.keep := rfl
@[simp] theorem modPw_repair (s : State) (p : Nat) (f : PosPower → PosPower) : (modPw s p f).repair = s.repair := rfl
@[simp] theorem modPw_power (s : State) (p : Nat) (f : PosPower → PosPower) : (modPw s p f).power = s.power := rfl
@[simp] theorem modPw_pins (s : State) (p : Nat) (f : PosPower → PosPower) : (modPw s p f).pins = s.pins := rfl
@[simp] theorem modPw_syncCap (s : State) (p : Nat) (f : PosPower → PosPower) : (modPw s p f).syncCap = s.syncCap := rfl
@[simp] theorem modPw_images (s : State) (p : Nat) (f : PosPower → PosPower) : (modPw s p f).images = s.images := rfl
@[simp] theorem modPw_free (s : State) (p : Nat) (f : PosPower → PosPower) : (modPw s p f).free = s.free := rfl

@[simp] theorem modLan_pending (s : State) (f : Lantern → Lantern) : (modLan s f).pending = s.pending := rfl
@[simp] theorem modLan_bell (s : State) (f : Lantern → Lantern) : (modLan s f).bell = s.bell := rfl
@[simp] theorem modLan_regs (s : State) (f : Lantern → Lantern) : (modLan s f).regs = s.regs := rfl
@[simp] theorem modLan_jobs (s : State) (f : Lantern → Lantern) : (modLan s f).jobs = s.jobs := rfl
@[simp] theorem modLan_map (s : State) (f : Lantern → Lantern) : (modLan s f).map = s.map := rfl
@[simp] theorem modLan_xing (s : State) (f : Lantern → Lantern) : (modLan s f).xing = s.xing := rfl
@[simp] theorem modLan_spindles (s : State) (f : Lantern → Lantern) : (modLan s f).spindles = s.spindles := rfl
@[simp] theorem modLan_fabric (s : State) (f : Lantern → Lantern) : (modLan s f).fabric = s.fabric := rfl
@[simp] theorem modLan_hbm (s : State) (f : Lantern → Lantern) : (modLan s f).hbm = s.hbm := rfl
@[simp] theorem modLan_ports (s : State) (f : Lantern → Lantern) : (modLan s f).ports = s.ports := rfl
@[simp] theorem modLan_hif (s : State) (f : Lantern → Lantern) : (modLan s f).hif = s.hif := rfl
@[simp] theorem modLan_thermal (s : State) (f : Lantern → Lantern) : (modLan s f).thermal = s.thermal := rfl
@[simp] theorem modLan_keep (s : State) (f : Lantern → Lantern) : (modLan s f).keep = s.keep := rfl
@[simp] theorem modLan_repair (s : State) (f : Lantern → Lantern) : (modLan s f).repair = s.repair := rfl
@[simp] theorem modLan_power (s : State) (f : Lantern → Lantern) : (modLan s f).power = s.power := rfl
@[simp] theorem modLan_pins (s : State) (f : Lantern → Lantern) : (modLan s f).pins = s.pins := rfl
@[simp] theorem modLan_syncCap (s : State) (f : Lantern → Lantern) : (modLan s f).syncCap = s.syncCap := rfl
@[simp] theorem modLan_images (s : State) (f : Lantern → Lantern) : (modLan s f).images = s.images := rfl
@[simp] theorem modLan_free (s : State) (f : Lantern → Lantern) : (modLan s f).free = s.free := rfl

@[simp] theorem modSpire_pending (s : State) (i : Nat) (f : SpirePower → SpirePower) : (modSpire s i f).pending = s.pending := rfl
@[simp] theorem modSpire_bell (s : State) (i : Nat) (f : SpirePower → SpirePower) : (modSpire s i f).bell = s.bell := rfl
@[simp] theorem modSpire_regs (s : State) (i : Nat) (f : SpirePower → SpirePower) : (modSpire s i f).regs = s.regs := rfl
@[simp] theorem modSpire_jobs (s : State) (i : Nat) (f : SpirePower → SpirePower) : (modSpire s i f).jobs = s.jobs := rfl
@[simp] theorem modSpire_map (s : State) (i : Nat) (f : SpirePower → SpirePower) : (modSpire s i f).map = s.map := rfl
@[simp] theorem modSpire_xing (s : State) (i : Nat) (f : SpirePower → SpirePower) : (modSpire s i f).xing = s.xing := rfl
@[simp] theorem modSpire_spindles (s : State) (i : Nat) (f : SpirePower → SpirePower) : (modSpire s i f).spindles = s.spindles := rfl
@[simp] theorem modSpire_fabric (s : State) (i : Nat) (f : SpirePower → SpirePower) : (modSpire s i f).fabric = s.fabric := rfl
@[simp] theorem modSpire_hbm (s : State) (i : Nat) (f : SpirePower → SpirePower) : (modSpire s i f).hbm = s.hbm := rfl
@[simp] theorem modSpire_ports (s : State) (i : Nat) (f : SpirePower → SpirePower) : (modSpire s i f).ports = s.ports := rfl
@[simp] theorem modSpire_hif (s : State) (i : Nat) (f : SpirePower → SpirePower) : (modSpire s i f).hif = s.hif := rfl
@[simp] theorem modSpire_thermal (s : State) (i : Nat) (f : SpirePower → SpirePower) : (modSpire s i f).thermal = s.thermal := rfl
@[simp] theorem modSpire_keep (s : State) (i : Nat) (f : SpirePower → SpirePower) : (modSpire s i f).keep = s.keep := rfl
@[simp] theorem modSpire_repair (s : State) (i : Nat) (f : SpirePower → SpirePower) : (modSpire s i f).repair = s.repair := rfl
@[simp] theorem modSpire_power (s : State) (i : Nat) (f : SpirePower → SpirePower) : (modSpire s i f).power = s.power := rfl
@[simp] theorem modSpire_pins (s : State) (i : Nat) (f : SpirePower → SpirePower) : (modSpire s i f).pins = s.pins := rfl
@[simp] theorem modSpire_syncCap (s : State) (i : Nat) (f : SpirePower → SpirePower) : (modSpire s i f).syncCap = s.syncCap := rfl
@[simp] theorem modSpire_images (s : State) (i : Nat) (f : SpirePower → SpirePower) : (modSpire s i f).images = s.images := rfl
@[simp] theorem modSpire_free (s : State) (i : Nat) (f : SpirePower → SpirePower) : (modSpire s i f).free = s.free := rfl

@[simp] theorem modSite_pending (s : State) (n : Nat) (f : Site → Site) : (modSite s n f).pending = s.pending := rfl
@[simp] theorem modSite_bell (s : State) (n : Nat) (f : Site → Site) : (modSite s n f).bell = s.bell := rfl
@[simp] theorem modSite_regs (s : State) (n : Nat) (f : Site → Site) : (modSite s n f).regs = s.regs := rfl
@[simp] theorem modSite_jobs (s : State) (n : Nat) (f : Site → Site) : (modSite s n f).jobs = s.jobs := rfl
@[simp] theorem modSite_map (s : State) (n : Nat) (f : Site → Site) : (modSite s n f).map = s.map := rfl
@[simp] theorem modSite_xing (s : State) (n : Nat) (f : Site → Site) : (modSite s n f).xing = s.xing := rfl
@[simp] theorem modSite_spindles (s : State) (n : Nat) (f : Site → Site) : (modSite s n f).spindles = s.spindles := rfl
@[simp] theorem modSite_fabric (s : State) (n : Nat) (f : Site → Site) : (modSite s n f).fabric = s.fabric := rfl
@[simp] theorem modSite_hbm (s : State) (n : Nat) (f : Site → Site) : (modSite s n f).hbm = s.hbm := rfl
@[simp] theorem modSite_ports (s : State) (n : Nat) (f : Site → Site) : (modSite s n f).ports = s.ports := rfl
@[simp] theorem modSite_hif (s : State) (n : Nat) (f : Site → Site) : (modSite s n f).hif = s.hif := rfl
@[simp] theorem modSite_lantern (s : State) (n : Nat) (f : Site → Site) : (modSite s n f).lantern = s.lantern := rfl
@[simp] theorem modSite_keep (s : State) (n : Nat) (f : Site → Site) : (modSite s n f).keep = s.keep := rfl
@[simp] theorem modSite_repair (s : State) (n : Nat) (f : Site → Site) : (modSite s n f).repair = s.repair := rfl
@[simp] theorem modSite_power (s : State) (n : Nat) (f : Site → Site) : (modSite s n f).power = s.power := rfl
@[simp] theorem modSite_pins (s : State) (n : Nat) (f : Site → Site) : (modSite s n f).pins = s.pins := rfl
@[simp] theorem modSite_syncCap (s : State) (n : Nat) (f : Site → Site) : (modSite s n f).syncCap = s.syncCap := rfl
@[simp] theorem modSite_images (s : State) (n : Nat) (f : Site → Site) : (modSite s n f).images = s.images := rfl
@[simp] theorem modSite_free (s : State) (n : Nat) (f : Site → Site) : (modSite s n f).free = s.free := rfl

@[simp] theorem modPort_pending (s : State) (n : Nat) (f : Port → Port) : (modPort s n f).pending = s.pending := rfl
@[simp] theorem modPort_bell (s : State) (n : Nat) (f : Port → Port) : (modPort s n f).bell = s.bell := rfl
@[simp] theorem modPort_regs (s : State) (n : Nat) (f : Port → Port) : (modPort s n f).regs = s.regs := rfl
@[simp] theorem modPort_jobs (s : State) (n : Nat) (f : Port → Port) : (modPort s n f).jobs = s.jobs := rfl
@[simp] theorem modPort_map (s : State) (n : Nat) (f : Port → Port) : (modPort s n f).map = s.map := rfl
@[simp] theorem modPort_xing (s : State) (n : Nat) (f : Port → Port) : (modPort s n f).xing = s.xing := rfl
@[simp] theorem modPort_spindles (s : State) (n : Nat) (f : Port → Port) : (modPort s n f).spindles = s.spindles := rfl
@[simp] theorem modPort_fabric (s : State) (n : Nat) (f : Port → Port) : (modPort s n f).fabric = s.fabric := rfl
@[simp] theorem modPort_hbm (s : State) (n : Nat) (f : Port → Port) : (modPort s n f).hbm = s.hbm := rfl
@[simp] theorem modPort_hif (s : State) (n : Nat) (f : Port → Port) : (modPort s n f).hif = s.hif := rfl
@[simp] theorem modPort_lantern (s : State) (n : Nat) (f : Port → Port) : (modPort s n f).lantern = s.lantern := rfl
@[simp] theorem modPort_thermal (s : State) (n : Nat) (f : Port → Port) : (modPort s n f).thermal = s.thermal := rfl
@[simp] theorem modPort_keep (s : State) (n : Nat) (f : Port → Port) : (modPort s n f).keep = s.keep := rfl
@[simp] theorem modPort_repair (s : State) (n : Nat) (f : Port → Port) : (modPort s n f).repair = s.repair := rfl
@[simp] theorem modPort_power (s : State) (n : Nat) (f : Port → Port) : (modPort s n f).power = s.power := rfl
@[simp] theorem modPort_pins (s : State) (n : Nat) (f : Port → Port) : (modPort s n f).pins = s.pins := rfl
@[simp] theorem modPort_syncCap (s : State) (n : Nat) (f : Port → Port) : (modPort s n f).syncCap = s.syncCap := rfl
@[simp] theorem modPort_images (s : State) (n : Nat) (f : Port → Port) : (modPort s n f).images = s.images := rfl
@[simp] theorem modPort_free (s : State) (n : Nat) (f : Port → Port) : (modPort s n f).free = s.free := rfl

@[simp] theorem modSq_pending (s : State) (r : Nat) (f : SqRing → SqRing) : (modSq s r f).pending = s.pending := rfl
@[simp] theorem modSq_bell (s : State) (r : Nat) (f : SqRing → SqRing) : (modSq s r f).bell = s.bell := rfl
@[simp] theorem modSq_regs (s : State) (r : Nat) (f : SqRing → SqRing) : (modSq s r f).regs = s.regs := rfl
@[simp] theorem modSq_jobs (s : State) (r : Nat) (f : SqRing → SqRing) : (modSq s r f).jobs = s.jobs := rfl
@[simp] theorem modSq_map (s : State) (r : Nat) (f : SqRing → SqRing) : (modSq s r f).map = s.map := rfl
@[simp] theorem modSq_xing (s : State) (r : Nat) (f : SqRing → SqRing) : (modSq s r f).xing = s.xing := rfl
@[simp] theorem modSq_spindles (s : State) (r : Nat) (f : SqRing → SqRing) : (modSq s r f).spindles = s.spindles := rfl
@[simp] theorem modSq_fabric (s : State) (r : Nat) (f : SqRing → SqRing) : (modSq s r f).fabric = s.fabric := rfl
@[simp] theorem modSq_hbm (s : State) (r : Nat) (f : SqRing → SqRing) : (modSq s r f).hbm = s.hbm := rfl
@[simp] theorem modSq_ports (s : State) (r : Nat) (f : SqRing → SqRing) : (modSq s r f).ports = s.ports := rfl
@[simp] theorem modSq_lantern (s : State) (r : Nat) (f : SqRing → SqRing) : (modSq s r f).lantern = s.lantern := rfl
@[simp] theorem modSq_thermal (s : State) (r : Nat) (f : SqRing → SqRing) : (modSq s r f).thermal = s.thermal := rfl
@[simp] theorem modSq_keep (s : State) (r : Nat) (f : SqRing → SqRing) : (modSq s r f).keep = s.keep := rfl
@[simp] theorem modSq_repair (s : State) (r : Nat) (f : SqRing → SqRing) : (modSq s r f).repair = s.repair := rfl
@[simp] theorem modSq_power (s : State) (r : Nat) (f : SqRing → SqRing) : (modSq s r f).power = s.power := rfl
@[simp] theorem modSq_pins (s : State) (r : Nat) (f : SqRing → SqRing) : (modSq s r f).pins = s.pins := rfl
@[simp] theorem modSq_syncCap (s : State) (r : Nat) (f : SqRing → SqRing) : (modSq s r f).syncCap = s.syncCap := rfl
@[simp] theorem modSq_images (s : State) (r : Nat) (f : SqRing → SqRing) : (modSq s r f).images = s.images := rfl
@[simp] theorem modSq_free (s : State) (r : Nat) (f : SqRing → SqRing) : (modSq s r f).free = s.free := rfl

@[simp] theorem modCq_pending (s : State) (j : Nat) (f : CqRing → CqRing) : (modCq s j f).pending = s.pending := rfl
@[simp] theorem modCq_bell (s : State) (j : Nat) (f : CqRing → CqRing) : (modCq s j f).bell = s.bell := rfl
@[simp] theorem modCq_regs (s : State) (j : Nat) (f : CqRing → CqRing) : (modCq s j f).regs = s.regs := rfl
@[simp] theorem modCq_jobs (s : State) (j : Nat) (f : CqRing → CqRing) : (modCq s j f).jobs = s.jobs := rfl
@[simp] theorem modCq_map (s : State) (j : Nat) (f : CqRing → CqRing) : (modCq s j f).map = s.map := rfl
@[simp] theorem modCq_xing (s : State) (j : Nat) (f : CqRing → CqRing) : (modCq s j f).xing = s.xing := rfl
@[simp] theorem modCq_spindles (s : State) (j : Nat) (f : CqRing → CqRing) : (modCq s j f).spindles = s.spindles := rfl
@[simp] theorem modCq_fabric (s : State) (j : Nat) (f : CqRing → CqRing) : (modCq s j f).fabric = s.fabric := rfl
@[simp] theorem modCq_hbm (s : State) (j : Nat) (f : CqRing → CqRing) : (modCq s j f).hbm = s.hbm := rfl
@[simp] theorem modCq_ports (s : State) (j : Nat) (f : CqRing → CqRing) : (modCq s j f).ports = s.ports := rfl
@[simp] theorem modCq_lantern (s : State) (j : Nat) (f : CqRing → CqRing) : (modCq s j f).lantern = s.lantern := rfl
@[simp] theorem modCq_thermal (s : State) (j : Nat) (f : CqRing → CqRing) : (modCq s j f).thermal = s.thermal := rfl
@[simp] theorem modCq_keep (s : State) (j : Nat) (f : CqRing → CqRing) : (modCq s j f).keep = s.keep := rfl
@[simp] theorem modCq_repair (s : State) (j : Nat) (f : CqRing → CqRing) : (modCq s j f).repair = s.repair := rfl
@[simp] theorem modCq_power (s : State) (j : Nat) (f : CqRing → CqRing) : (modCq s j f).power = s.power := rfl
@[simp] theorem modCq_pins (s : State) (j : Nat) (f : CqRing → CqRing) : (modCq s j f).pins = s.pins := rfl
@[simp] theorem modCq_syncCap (s : State) (j : Nat) (f : CqRing → CqRing) : (modCq s j f).syncCap = s.syncCap := rfl
@[simp] theorem modCq_images (s : State) (j : Nat) (f : CqRing → CqRing) : (modCq s j f).images = s.images := rfl
@[simp] theorem modCq_free (s : State) (j : Nat) (f : CqRing → CqRing) : (modCq s j f).free = s.free := rfl

@[simp] theorem modSend_pending (s : State) (n c : Nat) (f : Option ChanSide → Option ChanSide) : (modSend s n c f).pending = s.pending := rfl
@[simp] theorem modSend_bell (s : State) (n c : Nat) (f : Option ChanSide → Option ChanSide) : (modSend s n c f).bell = s.bell := rfl
@[simp] theorem modSend_regs (s : State) (n c : Nat) (f : Option ChanSide → Option ChanSide) : (modSend s n c f).regs = s.regs := rfl
@[simp] theorem modSend_jobs (s : State) (n c : Nat) (f : Option ChanSide → Option ChanSide) : (modSend s n c f).jobs = s.jobs := rfl
@[simp] theorem modSend_map (s : State) (n c : Nat) (f : Option ChanSide → Option ChanSide) : (modSend s n c f).map = s.map := rfl
@[simp] theorem modSend_xing (s : State) (n c : Nat) (f : Option ChanSide → Option ChanSide) : (modSend s n c f).xing = s.xing := rfl
@[simp] theorem modSend_spindles (s : State) (n c : Nat) (f : Option ChanSide → Option ChanSide) : (modSend s n c f).spindles = s.spindles := rfl
@[simp] theorem modSend_fabric (s : State) (n c : Nat) (f : Option ChanSide → Option ChanSide) : (modSend s n c f).fabric = s.fabric := rfl
@[simp] theorem modSend_hbm (s : State) (n c : Nat) (f : Option ChanSide → Option ChanSide) : (modSend s n c f).hbm = s.hbm := rfl
@[simp] theorem modSend_hif (s : State) (n c : Nat) (f : Option ChanSide → Option ChanSide) : (modSend s n c f).hif = s.hif := rfl
@[simp] theorem modSend_lantern (s : State) (n c : Nat) (f : Option ChanSide → Option ChanSide) : (modSend s n c f).lantern = s.lantern := rfl
@[simp] theorem modSend_thermal (s : State) (n c : Nat) (f : Option ChanSide → Option ChanSide) : (modSend s n c f).thermal = s.thermal := rfl
@[simp] theorem modSend_keep (s : State) (n c : Nat) (f : Option ChanSide → Option ChanSide) : (modSend s n c f).keep = s.keep := rfl
@[simp] theorem modSend_repair (s : State) (n c : Nat) (f : Option ChanSide → Option ChanSide) : (modSend s n c f).repair = s.repair := rfl
@[simp] theorem modSend_power (s : State) (n c : Nat) (f : Option ChanSide → Option ChanSide) : (modSend s n c f).power = s.power := rfl
@[simp] theorem modSend_pins (s : State) (n c : Nat) (f : Option ChanSide → Option ChanSide) : (modSend s n c f).pins = s.pins := rfl
@[simp] theorem modSend_syncCap (s : State) (n c : Nat) (f : Option ChanSide → Option ChanSide) : (modSend s n c f).syncCap = s.syncCap := rfl
@[simp] theorem modSend_images (s : State) (n c : Nat) (f : Option ChanSide → Option ChanSide) : (modSend s n c f).images = s.images := rfl
@[simp] theorem modSend_free (s : State) (n c : Nat) (f : Option ChanSide → Option ChanSide) : (modSend s n c f).free = s.free := rfl

@[simp] theorem modRecv_pending (s : State) (n c : Nat) (f : Option ChanSide → Option ChanSide) : (modRecv s n c f).pending = s.pending := rfl
@[simp] theorem modRecv_bell (s : State) (n c : Nat) (f : Option ChanSide → Option ChanSide) : (modRecv s n c f).bell = s.bell := rfl
@[simp] theorem modRecv_regs (s : State) (n c : Nat) (f : Option ChanSide → Option ChanSide) : (modRecv s n c f).regs = s.regs := rfl
@[simp] theorem modRecv_jobs (s : State) (n c : Nat) (f : Option ChanSide → Option ChanSide) : (modRecv s n c f).jobs = s.jobs := rfl
@[simp] theorem modRecv_map (s : State) (n c : Nat) (f : Option ChanSide → Option ChanSide) : (modRecv s n c f).map = s.map := rfl
@[simp] theorem modRecv_xing (s : State) (n c : Nat) (f : Option ChanSide → Option ChanSide) : (modRecv s n c f).xing = s.xing := rfl
@[simp] theorem modRecv_spindles (s : State) (n c : Nat) (f : Option ChanSide → Option ChanSide) : (modRecv s n c f).spindles = s.spindles := rfl
@[simp] theorem modRecv_fabric (s : State) (n c : Nat) (f : Option ChanSide → Option ChanSide) : (modRecv s n c f).fabric = s.fabric := rfl
@[simp] theorem modRecv_hbm (s : State) (n c : Nat) (f : Option ChanSide → Option ChanSide) : (modRecv s n c f).hbm = s.hbm := rfl
@[simp] theorem modRecv_hif (s : State) (n c : Nat) (f : Option ChanSide → Option ChanSide) : (modRecv s n c f).hif = s.hif := rfl
@[simp] theorem modRecv_lantern (s : State) (n c : Nat) (f : Option ChanSide → Option ChanSide) : (modRecv s n c f).lantern = s.lantern := rfl
@[simp] theorem modRecv_thermal (s : State) (n c : Nat) (f : Option ChanSide → Option ChanSide) : (modRecv s n c f).thermal = s.thermal := rfl
@[simp] theorem modRecv_keep (s : State) (n c : Nat) (f : Option ChanSide → Option ChanSide) : (modRecv s n c f).keep = s.keep := rfl
@[simp] theorem modRecv_repair (s : State) (n c : Nat) (f : Option ChanSide → Option ChanSide) : (modRecv s n c f).repair = s.repair := rfl
@[simp] theorem modRecv_power (s : State) (n c : Nat) (f : Option ChanSide → Option ChanSide) : (modRecv s n c f).power = s.power := rfl
@[simp] theorem modRecv_pins (s : State) (n c : Nat) (f : Option ChanSide → Option ChanSide) : (modRecv s n c f).pins = s.pins := rfl
@[simp] theorem modRecv_syncCap (s : State) (n c : Nat) (f : Option ChanSide → Option ChanSide) : (modRecv s n c f).syncCap = s.syncCap := rfl
@[simp] theorem modRecv_images (s : State) (n c : Nat) (f : Option ChanSide → Option ChanSide) : (modRecv s n c f).images = s.images := rfl
@[simp] theorem modRecv_free (s : State) (n c : Nat) (f : Option ChanSide → Option ChanSide) : (modRecv s n c f).free = s.free := rfl

@[simp] theorem modKeep_pending (s : State) (f : Keep → Keep) : (modKeep s f).pending = s.pending := rfl
@[simp] theorem modKeep_bell (s : State) (f : Keep → Keep) : (modKeep s f).bell = s.bell := rfl
@[simp] theorem modKeep_regs (s : State) (f : Keep → Keep) : (modKeep s f).regs = s.regs := rfl
@[simp] theorem modKeep_jobs (s : State) (f : Keep → Keep) : (modKeep s f).jobs = s.jobs := rfl
@[simp] theorem modKeep_map (s : State) (f : Keep → Keep) : (modKeep s f).map = s.map := rfl
@[simp] theorem modKeep_xing (s : State) (f : Keep → Keep) : (modKeep s f).xing = s.xing := rfl
@[simp] theorem modKeep_spindles (s : State) (f : Keep → Keep) : (modKeep s f).spindles = s.spindles := rfl
@[simp] theorem modKeep_fabric (s : State) (f : Keep → Keep) : (modKeep s f).fabric = s.fabric := rfl
@[simp] theorem modKeep_hbm (s : State) (f : Keep → Keep) : (modKeep s f).hbm = s.hbm := rfl
@[simp] theorem modKeep_ports (s : State) (f : Keep → Keep) : (modKeep s f).ports = s.ports := rfl
@[simp] theorem modKeep_hif (s : State) (f : Keep → Keep) : (modKeep s f).hif = s.hif := rfl
@[simp] theorem modKeep_lantern (s : State) (f : Keep → Keep) : (modKeep s f).lantern = s.lantern := rfl
@[simp] theorem modKeep_thermal (s : State) (f : Keep → Keep) : (modKeep s f).thermal = s.thermal := rfl
@[simp] theorem modKeep_repair (s : State) (f : Keep → Keep) : (modKeep s f).repair = s.repair := rfl
@[simp] theorem modKeep_power (s : State) (f : Keep → Keep) : (modKeep s f).power = s.power := rfl
@[simp] theorem modKeep_pins (s : State) (f : Keep → Keep) : (modKeep s f).pins = s.pins := rfl
@[simp] theorem modKeep_syncCap (s : State) (f : Keep → Keep) : (modKeep s f).syncCap = s.syncCap := rfl
@[simp] theorem modKeep_images (s : State) (f : Keep → Keep) : (modKeep s f).images = s.images := rfl
@[simp] theorem modKeep_free (s : State) (f : Keep → Keep) : (modKeep s f).free = s.free := rfl

@[simp] theorem modPower_pending (s : State) (f : Power → Power) : (modPower s f).pending = s.pending := rfl
@[simp] theorem modPower_bell (s : State) (f : Power → Power) : (modPower s f).bell = s.bell := rfl
@[simp] theorem modPower_regs (s : State) (f : Power → Power) : (modPower s f).regs = s.regs := rfl
@[simp] theorem modPower_jobs (s : State) (f : Power → Power) : (modPower s f).jobs = s.jobs := rfl
@[simp] theorem modPower_map (s : State) (f : Power → Power) : (modPower s f).map = s.map := rfl
@[simp] theorem modPower_xing (s : State) (f : Power → Power) : (modPower s f).xing = s.xing := rfl
@[simp] theorem modPower_spindles (s : State) (f : Power → Power) : (modPower s f).spindles = s.spindles := rfl
@[simp] theorem modPower_fabric (s : State) (f : Power → Power) : (modPower s f).fabric = s.fabric := rfl
@[simp] theorem modPower_hbm (s : State) (f : Power → Power) : (modPower s f).hbm = s.hbm := rfl
@[simp] theorem modPower_ports (s : State) (f : Power → Power) : (modPower s f).ports = s.ports := rfl
@[simp] theorem modPower_hif (s : State) (f : Power → Power) : (modPower s f).hif = s.hif := rfl
@[simp] theorem modPower_lantern (s : State) (f : Power → Power) : (modPower s f).lantern = s.lantern := rfl
@[simp] theorem modPower_thermal (s : State) (f : Power → Power) : (modPower s f).thermal = s.thermal := rfl
@[simp] theorem modPower_keep (s : State) (f : Power → Power) : (modPower s f).keep = s.keep := rfl
@[simp] theorem modPower_repair (s : State) (f : Power → Power) : (modPower s f).repair = s.repair := rfl
@[simp] theorem modPower_pins (s : State) (f : Power → Power) : (modPower s f).pins = s.pins := rfl
@[simp] theorem modPower_syncCap (s : State) (f : Power → Power) : (modPower s f).syncCap = s.syncCap := rfl
@[simp] theorem modPower_images (s : State) (f : Power → Power) : (modPower s f).images = s.images := rfl
@[simp] theorem modPower_free (s : State) (f : Power → Power) : (modPower s f).free = s.free := rfl

@[simp] theorem setSt_pending (s : State) (o v : Nat) : (setSt s o v).pending = s.pending := rfl
@[simp] theorem setSt_bell (s : State) (o v : Nat) : (setSt s o v).bell = s.bell := rfl
@[simp] theorem setSt_jobs (s : State) (o v : Nat) : (setSt s o v).jobs = s.jobs := rfl
@[simp] theorem setSt_map (s : State) (o v : Nat) : (setSt s o v).map = s.map := rfl
@[simp] theorem setSt_xing (s : State) (o v : Nat) : (setSt s o v).xing = s.xing := rfl
@[simp] theorem setSt_spindles (s : State) (o v : Nat) : (setSt s o v).spindles = s.spindles := rfl
@[simp] theorem setSt_fabric (s : State) (o v : Nat) : (setSt s o v).fabric = s.fabric := rfl
@[simp] theorem setSt_hbm (s : State) (o v : Nat) : (setSt s o v).hbm = s.hbm := rfl
@[simp] theorem setSt_ports (s : State) (o v : Nat) : (setSt s o v).ports = s.ports := rfl
@[simp] theorem setSt_hif (s : State) (o v : Nat) : (setSt s o v).hif = s.hif := rfl
@[simp] theorem setSt_lantern (s : State) (o v : Nat) : (setSt s o v).lantern = s.lantern := rfl
@[simp] theorem setSt_thermal (s : State) (o v : Nat) : (setSt s o v).thermal = s.thermal := rfl
@[simp] theorem setSt_keep (s : State) (o v : Nat) : (setSt s o v).keep = s.keep := rfl
@[simp] theorem setSt_repair (s : State) (o v : Nat) : (setSt s o v).repair = s.repair := rfl
@[simp] theorem setSt_power (s : State) (o v : Nat) : (setSt s o v).power = s.power := rfl
@[simp] theorem setSt_pins (s : State) (o v : Nat) : (setSt s o v).pins = s.pins := rfl
@[simp] theorem setSt_syncCap (s : State) (o v : Nat) : (setSt s o v).syncCap = s.syncCap := rfl
@[simp] theorem setSt_images (s : State) (o v : Nat) : (setSt s o v).images = s.images := rfl
@[simp] theorem setSt_free (s : State) (o v : Nat) : (setSt s o v).free = s.free := rfl

@[simp] theorem addDue_pending (s : State) (e : Entry) : (addDue s e).pending = s.pending := rfl
@[simp] theorem addDue_bell (s : State) (e : Entry) : (addDue s e).bell = s.bell := rfl
@[simp] theorem addDue_regs (s : State) (e : Entry) : (addDue s e).regs = s.regs := rfl
@[simp] theorem addDue_jobs (s : State) (e : Entry) : (addDue s e).jobs = s.jobs := rfl
@[simp] theorem addDue_map (s : State) (e : Entry) : (addDue s e).map = s.map := rfl
@[simp] theorem addDue_xing (s : State) (e : Entry) : (addDue s e).xing = s.xing := rfl
@[simp] theorem addDue_spindles (s : State) (e : Entry) : (addDue s e).spindles = s.spindles := rfl
@[simp] theorem addDue_fabric (s : State) (e : Entry) : (addDue s e).fabric = s.fabric := rfl
@[simp] theorem addDue_hbm (s : State) (e : Entry) : (addDue s e).hbm = s.hbm := rfl
@[simp] theorem addDue_ports (s : State) (e : Entry) : (addDue s e).ports = s.ports := rfl
@[simp] theorem addDue_lantern (s : State) (e : Entry) : (addDue s e).lantern = s.lantern := rfl
@[simp] theorem addDue_thermal (s : State) (e : Entry) : (addDue s e).thermal = s.thermal := rfl
@[simp] theorem addDue_keep (s : State) (e : Entry) : (addDue s e).keep = s.keep := rfl
@[simp] theorem addDue_repair (s : State) (e : Entry) : (addDue s e).repair = s.repair := rfl
@[simp] theorem addDue_power (s : State) (e : Entry) : (addDue s e).power = s.power := rfl
@[simp] theorem addDue_pins (s : State) (e : Entry) : (addDue s e).pins = s.pins := rfl
@[simp] theorem addDue_syncCap (s : State) (e : Entry) : (addDue s e).syncCap = s.syncCap := rfl
@[simp] theorem addDue_images (s : State) (e : Entry) : (addDue s e).images = s.images := rfl
@[simp] theorem addDue_free (s : State) (e : Entry) : (addDue s e).free = s.free := rfl

@[simp] theorem sendMsg_pending (s : State) (kind : Nat) (bs : List Byte) : (sendMsg s kind bs).pending = s.pending := rfl
@[simp] theorem sendMsg_bell (s : State) (kind : Nat) (bs : List Byte) : (sendMsg s kind bs).bell = s.bell := rfl
@[simp] theorem sendMsg_regs (s : State) (kind : Nat) (bs : List Byte) : (sendMsg s kind bs).regs = s.regs := rfl
@[simp] theorem sendMsg_jobs (s : State) (kind : Nat) (bs : List Byte) : (sendMsg s kind bs).jobs = s.jobs := rfl
@[simp] theorem sendMsg_map (s : State) (kind : Nat) (bs : List Byte) : (sendMsg s kind bs).map = s.map := rfl
@[simp] theorem sendMsg_xing (s : State) (kind : Nat) (bs : List Byte) : (sendMsg s kind bs).xing = s.xing := rfl
@[simp] theorem sendMsg_spindles (s : State) (kind : Nat) (bs : List Byte) : (sendMsg s kind bs).spindles = s.spindles := rfl
@[simp] theorem sendMsg_fabric (s : State) (kind : Nat) (bs : List Byte) : (sendMsg s kind bs).fabric = s.fabric := rfl
@[simp] theorem sendMsg_hbm (s : State) (kind : Nat) (bs : List Byte) : (sendMsg s kind bs).hbm = s.hbm := rfl
@[simp] theorem sendMsg_ports (s : State) (kind : Nat) (bs : List Byte) : (sendMsg s kind bs).ports = s.ports := rfl
@[simp] theorem sendMsg_lantern (s : State) (kind : Nat) (bs : List Byte) : (sendMsg s kind bs).lantern = s.lantern := rfl
@[simp] theorem sendMsg_thermal (s : State) (kind : Nat) (bs : List Byte) : (sendMsg s kind bs).thermal = s.thermal := rfl
@[simp] theorem sendMsg_keep (s : State) (kind : Nat) (bs : List Byte) : (sendMsg s kind bs).keep = s.keep := rfl
@[simp] theorem sendMsg_repair (s : State) (kind : Nat) (bs : List Byte) : (sendMsg s kind bs).repair = s.repair := rfl
@[simp] theorem sendMsg_power (s : State) (kind : Nat) (bs : List Byte) : (sendMsg s kind bs).power = s.power := rfl
@[simp] theorem sendMsg_pins (s : State) (kind : Nat) (bs : List Byte) : (sendMsg s kind bs).pins = s.pins := rfl
@[simp] theorem sendMsg_syncCap (s : State) (kind : Nat) (bs : List Byte) : (sendMsg s kind bs).syncCap = s.syncCap := rfl
@[simp] theorem sendMsg_images (s : State) (kind : Nat) (bs : List Byte) : (sendMsg s kind bs).images = s.images := rfl
@[simp] theorem sendMsg_free (s : State) (kind : Nat) (bs : List Byte) : (sendMsg s kind bs).free = s.free := rfl

@[simp] theorem faultJob_pending (s : State) (j code : Nat) (stop all : Bool) : (faultJob s j code stop all).pending = s.pending := rfl
@[simp] theorem faultJob_bell (s : State) (j code : Nat) (stop all : Bool) : (faultJob s j code stop all).bell = s.bell := rfl
@[simp] theorem faultJob_regs (s : State) (j code : Nat) (stop all : Bool) : (faultJob s j code stop all).regs = s.regs := rfl
@[simp] theorem faultJob_map (s : State) (j code : Nat) (stop all : Bool) : (faultJob s j code stop all).map = s.map := rfl
@[simp] theorem faultJob_xing (s : State) (j code : Nat) (stop all : Bool) : (faultJob s j code stop all).xing = s.xing := rfl
@[simp] theorem faultJob_spindles (s : State) (j code : Nat) (stop all : Bool) : (faultJob s j code stop all).spindles = s.spindles := rfl
@[simp] theorem faultJob_fabric (s : State) (j code : Nat) (stop all : Bool) : (faultJob s j code stop all).fabric = s.fabric := rfl
@[simp] theorem faultJob_hbm (s : State) (j code : Nat) (stop all : Bool) : (faultJob s j code stop all).hbm = s.hbm := rfl
@[simp] theorem faultJob_ports (s : State) (j code : Nat) (stop all : Bool) : (faultJob s j code stop all).ports = s.ports := rfl
@[simp] theorem faultJob_hif (s : State) (j code : Nat) (stop all : Bool) : (faultJob s j code stop all).hif = s.hif := rfl
@[simp] theorem faultJob_lantern (s : State) (j code : Nat) (stop all : Bool) : (faultJob s j code stop all).lantern = s.lantern := rfl
@[simp] theorem faultJob_thermal (s : State) (j code : Nat) (stop all : Bool) : (faultJob s j code stop all).thermal = s.thermal := rfl
@[simp] theorem faultJob_keep (s : State) (j code : Nat) (stop all : Bool) : (faultJob s j code stop all).keep = s.keep := rfl
@[simp] theorem faultJob_repair (s : State) (j code : Nat) (stop all : Bool) : (faultJob s j code stop all).repair = s.repair := rfl
@[simp] theorem faultJob_power (s : State) (j code : Nat) (stop all : Bool) : (faultJob s j code stop all).power = s.power := rfl
@[simp] theorem faultJob_pins (s : State) (j code : Nat) (stop all : Bool) : (faultJob s j code stop all).pins = s.pins := rfl
@[simp] theorem faultJob_syncCap (s : State) (j code : Nat) (stop all : Bool) : (faultJob s j code stop all).syncCap = s.syncCap := rfl
@[simp] theorem faultJob_images (s : State) (j code : Nat) (stop all : Bool) : (faultJob s j code stop all).images = s.images := rfl
@[simp] theorem faultJob_free (s : State) (j code : Nat) (stop all : Bool) : (faultJob s j code stop all).free = s.free := rfl

@[simp] theorem hbmWrite_pending (s : State) (off : Nat) (bs : List Byte) (bad : Bool) : (hbmWrite s off bs bad).pending = s.pending := rfl
@[simp] theorem hbmWrite_bell (s : State) (off : Nat) (bs : List Byte) (bad : Bool) : (hbmWrite s off bs bad).bell = s.bell := rfl
@[simp] theorem hbmWrite_regs (s : State) (off : Nat) (bs : List Byte) (bad : Bool) : (hbmWrite s off bs bad).regs = s.regs := rfl
@[simp] theorem hbmWrite_jobs (s : State) (off : Nat) (bs : List Byte) (bad : Bool) : (hbmWrite s off bs bad).jobs = s.jobs := rfl
@[simp] theorem hbmWrite_map (s : State) (off : Nat) (bs : List Byte) (bad : Bool) : (hbmWrite s off bs bad).map = s.map := rfl
@[simp] theorem hbmWrite_xing (s : State) (off : Nat) (bs : List Byte) (bad : Bool) : (hbmWrite s off bs bad).xing = s.xing := rfl
@[simp] theorem hbmWrite_spindles (s : State) (off : Nat) (bs : List Byte) (bad : Bool) : (hbmWrite s off bs bad).spindles = s.spindles := rfl
@[simp] theorem hbmWrite_fabric (s : State) (off : Nat) (bs : List Byte) (bad : Bool) : (hbmWrite s off bs bad).fabric = s.fabric := rfl
@[simp] theorem hbmWrite_ports (s : State) (off : Nat) (bs : List Byte) (bad : Bool) : (hbmWrite s off bs bad).ports = s.ports := rfl
@[simp] theorem hbmWrite_hif (s : State) (off : Nat) (bs : List Byte) (bad : Bool) : (hbmWrite s off bs bad).hif = s.hif := rfl
@[simp] theorem hbmWrite_lantern (s : State) (off : Nat) (bs : List Byte) (bad : Bool) : (hbmWrite s off bs bad).lantern = s.lantern := rfl
@[simp] theorem hbmWrite_thermal (s : State) (off : Nat) (bs : List Byte) (bad : Bool) : (hbmWrite s off bs bad).thermal = s.thermal := rfl
@[simp] theorem hbmWrite_keep (s : State) (off : Nat) (bs : List Byte) (bad : Bool) : (hbmWrite s off bs bad).keep = s.keep := rfl
@[simp] theorem hbmWrite_repair (s : State) (off : Nat) (bs : List Byte) (bad : Bool) : (hbmWrite s off bs bad).repair = s.repair := rfl
@[simp] theorem hbmWrite_power (s : State) (off : Nat) (bs : List Byte) (bad : Bool) : (hbmWrite s off bs bad).power = s.power := rfl
@[simp] theorem hbmWrite_pins (s : State) (off : Nat) (bs : List Byte) (bad : Bool) : (hbmWrite s off bs bad).pins = s.pins := rfl
@[simp] theorem hbmWrite_syncCap (s : State) (off : Nat) (bs : List Byte) (bad : Bool) : (hbmWrite s off bs bad).syncCap = s.syncCap := rfl
@[simp] theorem hbmWrite_images (s : State) (off : Nat) (bs : List Byte) (bad : Bool) : (hbmWrite s off bs bad).images = s.images := rfl
@[simp] theorem hbmWrite_free (s : State) (off : Nat) (bs : List Byte) (bad : Bool) : (hbmWrite s off bs bad).free = s.free := rfl

@[simp] theorem bgLines_pending (s : State) (h n : Nat) : (bgLines s h n).pending = s.pending := rfl
@[simp] theorem bgLines_bell (s : State) (h n : Nat) : (bgLines s h n).bell = s.bell := rfl
@[simp] theorem bgLines_regs (s : State) (h n : Nat) : (bgLines s h n).regs = s.regs := rfl
@[simp] theorem bgLines_jobs (s : State) (h n : Nat) : (bgLines s h n).jobs = s.jobs := rfl
@[simp] theorem bgLines_map (s : State) (h n : Nat) : (bgLines s h n).map = s.map := rfl
@[simp] theorem bgLines_xing (s : State) (h n : Nat) : (bgLines s h n).xing = s.xing := rfl
@[simp] theorem bgLines_spindles (s : State) (h n : Nat) : (bgLines s h n).spindles = s.spindles := rfl
@[simp] theorem bgLines_fabric (s : State) (h n : Nat) : (bgLines s h n).fabric = s.fabric := rfl
@[simp] theorem bgLines_ports (s : State) (h n : Nat) : (bgLines s h n).ports = s.ports := rfl
@[simp] theorem bgLines_hif (s : State) (h n : Nat) : (bgLines s h n).hif = s.hif := rfl
@[simp] theorem bgLines_lantern (s : State) (h n : Nat) : (bgLines s h n).lantern = s.lantern := rfl
@[simp] theorem bgLines_thermal (s : State) (h n : Nat) : (bgLines s h n).thermal = s.thermal := rfl
@[simp] theorem bgLines_keep (s : State) (h n : Nat) : (bgLines s h n).keep = s.keep := rfl
@[simp] theorem bgLines_repair (s : State) (h n : Nat) : (bgLines s h n).repair = s.repair := rfl
@[simp] theorem bgLines_power (s : State) (h n : Nat) : (bgLines s h n).power = s.power := rfl
@[simp] theorem bgLines_pins (s : State) (h n : Nat) : (bgLines s h n).pins = s.pins := rfl
@[simp] theorem bgLines_syncCap (s : State) (h n : Nat) : (bgLines s h n).syncCap = s.syncCap := rfl
@[simp] theorem bgLines_images (s : State) (h n : Nat) : (bgLines s h n).images = s.images := rfl
@[simp] theorem bgLines_free (s : State) (h n : Nat) : (bgLines s h n).free = s.free := rfl

@[simp] theorem hostWrite_pending (s : State) (a : Nat) (bs : List Byte) (bad : List Nat) : (hostWrite s a bs bad).pending = s.pending := rfl
@[simp] theorem hostWrite_bell (s : State) (a : Nat) (bs : List Byte) (bad : List Nat) : (hostWrite s a bs bad).bell = s.bell := rfl
@[simp] theorem hostWrite_regs (s : State) (a : Nat) (bs : List Byte) (bad : List Nat) : (hostWrite s a bs bad).regs = s.regs := rfl
@[simp] theorem hostWrite_jobs (s : State) (a : Nat) (bs : List Byte) (bad : List Nat) : (hostWrite s a bs bad).jobs = s.jobs := rfl
@[simp] theorem hostWrite_map (s : State) (a : Nat) (bs : List Byte) (bad : List Nat) : (hostWrite s a bs bad).map = s.map := rfl
@[simp] theorem hostWrite_xing (s : State) (a : Nat) (bs : List Byte) (bad : List Nat) : (hostWrite s a bs bad).xing = s.xing := rfl
@[simp] theorem hostWrite_spindles (s : State) (a : Nat) (bs : List Byte) (bad : List Nat) : (hostWrite s a bs bad).spindles = s.spindles := rfl
@[simp] theorem hostWrite_fabric (s : State) (a : Nat) (bs : List Byte) (bad : List Nat) : (hostWrite s a bs bad).fabric = s.fabric := rfl
@[simp] theorem hostWrite_hbm (s : State) (a : Nat) (bs : List Byte) (bad : List Nat) : (hostWrite s a bs bad).hbm = s.hbm := rfl
@[simp] theorem hostWrite_ports (s : State) (a : Nat) (bs : List Byte) (bad : List Nat) : (hostWrite s a bs bad).ports = s.ports := rfl
@[simp] theorem hostWrite_lantern (s : State) (a : Nat) (bs : List Byte) (bad : List Nat) : (hostWrite s a bs bad).lantern = s.lantern := rfl
@[simp] theorem hostWrite_thermal (s : State) (a : Nat) (bs : List Byte) (bad : List Nat) : (hostWrite s a bs bad).thermal = s.thermal := rfl
@[simp] theorem hostWrite_keep (s : State) (a : Nat) (bs : List Byte) (bad : List Nat) : (hostWrite s a bs bad).keep = s.keep := rfl
@[simp] theorem hostWrite_repair (s : State) (a : Nat) (bs : List Byte) (bad : List Nat) : (hostWrite s a bs bad).repair = s.repair := rfl
@[simp] theorem hostWrite_power (s : State) (a : Nat) (bs : List Byte) (bad : List Nat) : (hostWrite s a bs bad).power = s.power := rfl
@[simp] theorem hostWrite_pins (s : State) (a : Nat) (bs : List Byte) (bad : List Nat) : (hostWrite s a bs bad).pins = s.pins := rfl
@[simp] theorem hostWrite_syncCap (s : State) (a : Nat) (bs : List Byte) (bad : List Nat) : (hostWrite s a bs bad).syncCap = s.syncCap := rfl
@[simp] theorem hostWrite_images (s : State) (a : Nat) (bs : List Byte) (bad : List Nat) : (hostWrite s a bs bad).images = s.images := rfl
@[simp] theorem hostWrite_free (s : State) (a : Nat) (bs : List Byte) (bad : List Nat) : (hostWrite s a bs bad).free = s.free := rfl

@[simp] theorem dropXfer_pending (s : State) (x : Xfer) : (dropXfer s x).pending = s.pending := rfl
@[simp] theorem dropXfer_bell (s : State) (x : Xfer) : (dropXfer s x).bell = s.bell := rfl
@[simp] theorem dropXfer_regs (s : State) (x : Xfer) : (dropXfer s x).regs = s.regs := rfl
@[simp] theorem dropXfer_jobs (s : State) (x : Xfer) : (dropXfer s x).jobs = s.jobs := rfl
@[simp] theorem dropXfer_map (s : State) (x : Xfer) : (dropXfer s x).map = s.map := rfl
@[simp] theorem dropXfer_xing (s : State) (x : Xfer) : (dropXfer s x).xing = s.xing := rfl
@[simp] theorem dropXfer_spindles (s : State) (x : Xfer) : (dropXfer s x).spindles = s.spindles := rfl
@[simp] theorem dropXfer_fabric (s : State) (x : Xfer) : (dropXfer s x).fabric = s.fabric := rfl
@[simp] theorem dropXfer_hbm (s : State) (x : Xfer) : (dropXfer s x).hbm = s.hbm := rfl
@[simp] theorem dropXfer_ports (s : State) (x : Xfer) : (dropXfer s x).ports = s.ports := rfl
@[simp] theorem dropXfer_lantern (s : State) (x : Xfer) : (dropXfer s x).lantern = s.lantern := rfl
@[simp] theorem dropXfer_thermal (s : State) (x : Xfer) : (dropXfer s x).thermal = s.thermal := rfl
@[simp] theorem dropXfer_keep (s : State) (x : Xfer) : (dropXfer s x).keep = s.keep := rfl
@[simp] theorem dropXfer_repair (s : State) (x : Xfer) : (dropXfer s x).repair = s.repair := rfl
@[simp] theorem dropXfer_power (s : State) (x : Xfer) : (dropXfer s x).power = s.power := rfl
@[simp] theorem dropXfer_pins (s : State) (x : Xfer) : (dropXfer s x).pins = s.pins := rfl
@[simp] theorem dropXfer_syncCap (s : State) (x : Xfer) : (dropXfer s x).syncCap = s.syncCap := rfl
@[simp] theorem dropXfer_images (s : State) (x : Xfer) : (dropXfer s x).images = s.images := rfl
@[simp] theorem dropXfer_free (s : State) (x : Xfer) : (dropXfer s x).free = s.free := rfl

end Sys2Proof.Machine
end

