-- ==== Sys2Proof/Laws/Frame.lean ====
section
/-!
SUPPORT. What raising an event, closing a step of a position and issuing a word can do: said once, field by field.
-/
namespace Sys2Proof.Machine

/-! Events -/

@[simp] theorem alertFor_pending (s : State) (code body : Nat) : (alertFor s code body).pending = s.pending := by unfold alertFor; split <;> rfl
@[simp] theorem alertFor_bell (s : State) (code body : Nat) : (alertFor s code body).bell = s.bell := by unfold alertFor; split <;> rfl
@[simp] theorem alertFor_regs (s : State) (code body : Nat) : (alertFor s code body).regs = s.regs := by unfold alertFor; split <;> rfl
@[simp] theorem alertFor_jobs (s : State) (code body : Nat) : (alertFor s code body).jobs = s.jobs := by unfold alertFor; split <;> rfl
@[simp] theorem alertFor_map (s : State) (code body : Nat) : (alertFor s code body).map = s.map := by unfold alertFor; split <;> rfl
@[simp] theorem alertFor_xing (s : State) (code body : Nat) : (alertFor s code body).xing = s.xing := by unfold alertFor; split <;> rfl
@[simp] theorem alertFor_spindles (s : State) (code body : Nat) : (alertFor s code body).spindles = s.spindles := by unfold alertFor; split <;> rfl
@[simp] theorem alertFor_fabric (s : State) (code body : Nat) : (alertFor s code body).fabric = s.fabric := by unfold alertFor; split <;> rfl
@[simp] theorem alertFor_hbm (s : State) (code body : Nat) : (alertFor s code body).hbm = s.hbm := by unfold alertFor; split <;> rfl
@[simp] theorem alertFor_ports (s : State) (code body : Nat) : (alertFor s code body).ports = s.ports := by unfold alertFor; split <;> rfl
@[simp] theorem alertFor_lantern (s : State) (code body : Nat) : (alertFor s code body).lantern = s.lantern := by unfold alertFor; split <;> rfl
@[simp] theorem alertFor_thermal (s : State) (code body : Nat) : (alertFor s code body).thermal = s.thermal := by unfold alertFor; split <;> rfl
@[simp] theorem alertFor_keep (s : State) (code body : Nat) : (alertFor s code body).keep = s.keep := by unfold alertFor; split <;> rfl
@[simp] theorem alertFor_repair (s : State) (code body : Nat) : (alertFor s code body).repair = s.repair := by unfold alertFor; split <;> rfl
@[simp] theorem alertFor_power (s : State) (code body : Nat) : (alertFor s code body).power = s.power := by unfold alertFor; split <;> rfl
@[simp] theorem alertFor_syncCap (s : State) (code body : Nat) : (alertFor s code body).syncCap = s.syncCap := by unfold alertFor; split <;> rfl
@[simp] theorem alertFor_images (s : State) (code body : Nat) : (alertFor s code body).images = s.images := by unfold alertFor; split <;> rfl
@[simp] theorem alertFor_free (s : State) (code body : Nat) : (alertFor s code body).free = s.free := by unfold alertFor; split <;> rfl
@[simp] theorem alertFor_hif_sq (s : State) (code body : Nat) : (alertFor s code body).hif.sq = s.hif.sq := by unfold alertFor; split <;> rfl
@[simp] theorem alertFor_hif_cq (s : State) (code body : Nat) : (alertFor s code body).hif.cq = s.hif.cq := by unfold alertFor; split <;> rfl
@[simp] theorem alertFor_hif_turn (s : State) (code body : Nat) : (alertFor s code body).hif.turn = s.hif.turn := by unfold alertFor; split <;> rfl
@[simp] theorem alertFor_hif_fetched (s : State) (code body : Nat) : (alertFor s code body).hif.fetched = s.hif.fetched := by unfold alertFor; split <;> rfl
@[simp] theorem alertFor_hif_descs (s : State) (code body : Nat) : (alertFor s code body).hif.descs = s.hif.descs := by unfold alertFor; split <;> rfl
@[simp] theorem alertFor_hif_receipts (s : State) (code body : Nat) : (alertFor s code body).hif.receipts = s.hif.receipts := by unfold alertFor; split <;> rfl
@[simp] theorem alertFor_hif_signed (s : State) (code body : Nat) : (alertFor s code body).hif.signed = s.hif.signed := by unfold alertFor; split <;> rfl
@[simp] theorem alertFor_hif_link (s : State) (code body : Nat) : (alertFor s code body).hif.link = s.hif.link := by unfold alertFor; split <;> rfl
@[simp] theorem alertFor_hif_width (s : State) (code body : Nat) : (alertFor s code body).hif.width = s.hif.width := by unfold alertFor; split <;> rfl
@[simp] theorem alertFor_hif_fast (s : State) (code body : Nat) : (alertFor s code body).hif.fast = s.hif.fast := by unfold alertFor; split <;> rfl
@[simp] theorem alertFor_hif_perst (s : State) (code body : Nat) : (alertFor s code body).hif.perst = s.hif.perst := by unfold alertFor; split <;> rfl
@[simp] theorem alertFor_hif_host (s : State) (code body : Nat) : (alertFor s code body).hif.host = s.hif.host := by unfold alertFor; split <;> rfl
@[simp] theorem alertFor_hif_hostPoison (s : State) (code body : Nat) : (alertFor s code body).hif.hostPoison = s.hif.hostPoison := by unfold alertFor; split <;> rfl
@[simp] theorem alertFor_hif_xfers (s : State) (code body : Nat) : (alertFor s code body).hif.xfers = s.hif.xfers := by unfold alertFor; split <;> rfl
@[simp] theorem alertFor_hif_msix (s : State) (code body : Nat) : (alertFor s code body).hif.msix = s.hif.msix := by unfold alertFor; split <;> rfl
@[simp] theorem alertFor_hif_msixPend (s : State) (code body : Nat) : (alertFor s code body).hif.msixPend = s.hif.msixPend := by unfold alertFor; split <;> rfl
@[simp] theorem alertFor_hif_out (s : State) (code body : Nat) : (alertFor s code body).hif.out = s.hif.out := by unfold alertFor; split <;> rfl
@[simp] theorem alertFor_hif_evRecv (s : State) (code body : Nat) : (alertFor s code body).hif.evRecv = s.hif.evRecv := by unfold alertFor; split <;> rfl
@[simp] theorem alertFor_hif_cxlWait (s : State) (code body : Nat) : (alertFor s code body).hif.cxlWait = s.hif.cxlWait := by unfold alertFor; split <;> rfl

@[simp] theorem alertFor_due (s : State) (code body : Nat) : (alertFor s code body).hif.due = s.hif.due := by unfold alertFor; split <;> rfl

@[simp] theorem postEv_pending (s : State) (e : Ev) (j lnum p : Option Nat) : (postEv s e j lnum p).pending = s.pending := by simp [postEv, addDue]
@[simp] theorem postEv_bell (s : State) (e : Ev) (j lnum p : Option Nat) : (postEv s e j lnum p).bell = s.bell := by simp [postEv, addDue]
@[simp] theorem postEv_regs (s : State) (e : Ev) (j lnum p : Option Nat) : (postEv s e j lnum p).regs = s.regs := by simp [postEv, addDue]
@[simp] theorem postEv_jobs (s : State) (e : Ev) (j lnum p : Option Nat) : (postEv s e j lnum p).jobs = s.jobs := by simp [postEv, addDue]
@[simp] theorem postEv_map (s : State) (e : Ev) (j lnum p : Option Nat) : (postEv s e j lnum p).map = s.map := by simp [postEv, addDue]
@[simp] theorem postEv_xing (s : State) (e : Ev) (j lnum p : Option Nat) : (postEv s e j lnum p).xing = s.xing := by simp [postEv, addDue]
@[simp] theorem postEv_spindles (s : State) (e : Ev) (j lnum p : Option Nat) : (postEv s e j lnum p).spindles = s.spindles := by simp [postEv, addDue]
@[simp] theorem postEv_fabric (s : State) (e : Ev) (j lnum p : Option Nat) : (postEv s e j lnum p).fabric = s.fabric := by simp [postEv, addDue]
@[simp] theorem postEv_hbm (s : State) (e : Ev) (j lnum p : Option Nat) : (postEv s e j lnum p).hbm = s.hbm := by simp [postEv, addDue]
@[simp] theorem postEv_ports (s : State) (e : Ev) (j lnum p : Option Nat) : (postEv s e j lnum p).ports = s.ports := by simp [postEv, addDue]
@[simp] theorem postEv_lantern (s : State) (e : Ev) (j lnum p : Option Nat) : (postEv s e j lnum p).lantern = s.lantern := by simp [postEv, addDue]
@[simp] theorem postEv_thermal (s : State) (e : Ev) (j lnum p : Option Nat) : (postEv s e j lnum p).thermal = s.thermal := by simp [postEv, addDue]
@[simp] theorem postEv_keep (s : State) (e : Ev) (j lnum p : Option Nat) : (postEv s e j lnum p).keep = s.keep := by simp [postEv, addDue]
@[simp] theorem postEv_repair (s : State) (e : Ev) (j lnum p : Option Nat) : (postEv s e j lnum p).repair = s.repair := by simp [postEv, addDue]
@[simp] theorem postEv_power (s : State) (e : Ev) (j lnum p : Option Nat) : (postEv s e j lnum p).power = s.power := by simp [postEv, addDue]
@[simp] theorem postEv_syncCap (s : State) (e : Ev) (j lnum p : Option Nat) : (postEv s e j lnum p).syncCap = s.syncCap := by simp [postEv, addDue]
@[simp] theorem postEv_images (s : State) (e : Ev) (j lnum p : Option Nat) : (postEv s e j lnum p).images = s.images := by simp [postEv, addDue]
@[simp] theorem postEv_free (s : State) (e : Ev) (j lnum p : Option Nat) : (postEv s e j lnum p).free = s.free := by simp [postEv, addDue]
@[simp] theorem postEv_hif_sq (s : State) (e : Ev) (j lnum p : Option Nat) : (postEv s e j lnum p).hif.sq = s.hif.sq := by simp [postEv, addDue]
@[simp] theorem postEv_hif_cq (s : State) (e : Ev) (j lnum p : Option Nat) : (postEv s e j lnum p).hif.cq = s.hif.cq := by simp [postEv, addDue]
@[simp] theorem postEv_hif_turn (s : State) (e : Ev) (j lnum p : Option Nat) : (postEv s e j lnum p).hif.turn = s.hif.turn := by simp [postEv, addDue]
@[simp] theorem postEv_hif_fetched (s : State) (e : Ev) (j lnum p : Option Nat) : (postEv s e j lnum p).hif.fetched = s.hif.fetched := by simp [postEv, addDue]
@[simp] theorem postEv_hif_descs (s : State) (e : Ev) (j lnum p : Option Nat) : (postEv s e j lnum p).hif.descs = s.hif.descs := by simp [postEv, addDue]
@[simp] theorem postEv_hif_receipts (s : State) (e : Ev) (j lnum p : Option Nat) : (postEv s e j lnum p).hif.receipts = s.hif.receipts := by simp [postEv, addDue]
@[simp] theorem postEv_hif_signed (s : State) (e : Ev) (j lnum p : Option Nat) : (postEv s e j lnum p).hif.signed = s.hif.signed := by simp [postEv, addDue]
@[simp] theorem postEv_hif_link (s : State) (e : Ev) (j lnum p : Option Nat) : (postEv s e j lnum p).hif.link = s.hif.link := by simp [postEv, addDue]
@[simp] theorem postEv_hif_width (s : State) (e : Ev) (j lnum p : Option Nat) : (postEv s e j lnum p).hif.width = s.hif.width := by simp [postEv, addDue]
@[simp] theorem postEv_hif_fast (s : State) (e : Ev) (j lnum p : Option Nat) : (postEv s e j lnum p).hif.fast = s.hif.fast := by simp [postEv, addDue]
@[simp] theorem postEv_hif_perst (s : State) (e : Ev) (j lnum p : Option Nat) : (postEv s e j lnum p).hif.perst = s.hif.perst := by simp [postEv, addDue]
@[simp] theorem postEv_hif_host (s : State) (e : Ev) (j lnum p : Option Nat) : (postEv s e j lnum p).hif.host = s.hif.host := by simp [postEv, addDue]
@[simp] theorem postEv_hif_hostPoison (s : State) (e : Ev) (j lnum p : Option Nat) : (postEv s e j lnum p).hif.hostPoison = s.hif.hostPoison := by simp [postEv, addDue]
@[simp] theorem postEv_hif_xfers (s : State) (e : Ev) (j lnum p : Option Nat) : (postEv s e j lnum p).hif.xfers = s.hif.xfers := by simp [postEv, addDue]
@[simp] theorem postEv_hif_msix (s : State) (e : Ev) (j lnum p : Option Nat) : (postEv s e j lnum p).hif.msix = s.hif.msix := by simp [postEv, addDue]
@[simp] theorem postEv_hif_msixPend (s : State) (e : Ev) (j lnum p : Option Nat) : (postEv s e j lnum p).hif.msixPend = s.hif.msixPend := by simp [postEv, addDue]
@[simp] theorem postEv_hif_out (s : State) (e : Ev) (j lnum p : Option Nat) : (postEv s e j lnum p).hif.out = s.hif.out := by simp [postEv, addDue]
@[simp] theorem postEv_hif_evRecv (s : State) (e : Ev) (j lnum p : Option Nat) : (postEv s e j lnum p).hif.evRecv = s.hif.evRecv := by simp [postEv, addDue]
@[simp] theorem postEv_hif_cxlWait (s : State) (e : Ev) (j lnum p : Option Nat) : (postEv s e j lnum p).hif.cxlWait = s.hif.cxlWait := by simp [postEv, addDue]

/-- A posted event is the last of the entries due. -/
theorem postEv_due (s : State) (e : Ev) (j lnum p : Option Nat) :
    ∃ x, (postEv s e j lnum p).hif.due = s.hif.due ++ [x] ∧ x.code = e.code ∧ x.job = j ∧ x.frame = s.bell.count := by
  simp only [postEv, alertFor_due]; exact ⟨_, rfl, rfl, rfl, rfl⟩

@[simp] theorem raiseDev_pending (s : State) (e : Ev) : (raiseDev s e).pending = s.pending := by simp [raiseDev]
@[simp] theorem raiseDev_bell (s : State) (e : Ev) : (raiseDev s e).bell = s.bell := by simp [raiseDev]
@[simp] theorem raiseDev_regs (s : State) (e : Ev) : (raiseDev s e).regs = s.regs := by simp [raiseDev]
@[simp] theorem raiseDev_jobs (s : State) (e : Ev) : (raiseDev s e).jobs = s.jobs := by simp [raiseDev]
@[simp] theorem raiseDev_map (s : State) (e : Ev) : (raiseDev s e).map = s.map := by simp [raiseDev]
@[simp] theorem raiseDev_xing (s : State) (e : Ev) : (raiseDev s e).xing = s.xing := by simp [raiseDev]
@[simp] theorem raiseDev_spindles (s : State) (e : Ev) : (raiseDev s e).spindles = s.spindles := by simp [raiseDev]
@[simp] theorem raiseDev_fabric (s : State) (e : Ev) : (raiseDev s e).fabric = s.fabric := by simp [raiseDev]
@[simp] theorem raiseDev_hbm (s : State) (e : Ev) : (raiseDev s e).hbm = s.hbm := by simp [raiseDev]
@[simp] theorem raiseDev_ports (s : State) (e : Ev) : (raiseDev s e).ports = s.ports := by simp [raiseDev]
@[simp] theorem raiseDev_lantern (s : State) (e : Ev) : (raiseDev s e).lantern = s.lantern := by simp [raiseDev]
@[simp] theorem raiseDev_thermal (s : State) (e : Ev) : (raiseDev s e).thermal = s.thermal := by simp [raiseDev]
@[simp] theorem raiseDev_keep (s : State) (e : Ev) : (raiseDev s e).keep = s.keep := by simp [raiseDev]
@[simp] theorem raiseDev_repair (s : State) (e : Ev) : (raiseDev s e).repair = s.repair := by simp [raiseDev]
@[simp] theorem raiseDev_power (s : State) (e : Ev) : (raiseDev s e).power = s.power := by simp [raiseDev]
@[simp] theorem raiseDev_syncCap (s : State) (e : Ev) : (raiseDev s e).syncCap = s.syncCap := by simp [raiseDev]
@[simp] theorem raiseDev_images (s : State) (e : Ev) : (raiseDev s e).images = s.images := by simp [raiseDev]
@[simp] theorem raiseDev_free (s : State) (e : Ev) : (raiseDev s e).free = s.free := by simp [raiseDev]
@[simp] theorem raiseDev_hif_sq (s : State) (e : Ev) : (raiseDev s e).hif.sq = s.hif.sq := by simp [raiseDev]
@[simp] theorem raiseDev_hif_cq (s : State) (e : Ev) : (raiseDev s e).hif.cq = s.hif.cq := by simp [raiseDev]
@[simp] theorem raiseDev_hif_turn (s : State) (e : Ev) : (raiseDev s e).hif.turn = s.hif.turn := by simp [raiseDev]
@[simp] theorem raiseDev_hif_fetched (s : State) (e : Ev) : (raiseDev s e).hif.fetched = s.hif.fetched := by simp [raiseDev]
@[simp] theorem raiseDev_hif_descs (s : State) (e : Ev) : (raiseDev s e).hif.descs = s.hif.descs := by simp [raiseDev]
@[simp] theorem raiseDev_hif_receipts (s : State) (e : Ev) : (raiseDev s e).hif.receipts = s.hif.receipts := by simp [raiseDev]
@[simp] theorem raiseDev_hif_signed (s : State) (e : Ev) : (raiseDev s e).hif.signed = s.hif.signed := by simp [raiseDev]
@[simp] theorem raiseDev_hif_link (s : State) (e : Ev) : (raiseDev s e).hif.link = s.hif.link := by simp [raiseDev]
@[simp] theorem raiseDev_hif_width (s : State) (e : Ev) : (raiseDev s e).hif.width = s.hif.width := by simp [raiseDev]
@[simp] theorem raiseDev_hif_fast (s : State) (e : Ev) : (raiseDev s e).hif.fast = s.hif.fast := by simp [raiseDev]
@[simp] theorem raiseDev_hif_perst (s : State) (e : Ev) : (raiseDev s e).hif.perst = s.hif.perst := by simp [raiseDev]
@[simp] theorem raiseDev_hif_host (s : State) (e : Ev) : (raiseDev s e).hif.host = s.hif.host := by simp [raiseDev]
@[simp] theorem raiseDev_hif_hostPoison (s : State) (e : Ev) : (raiseDev s e).hif.hostPoison = s.hif.hostPoison := by simp [raiseDev]
@[simp] theorem raiseDev_hif_xfers (s : State) (e : Ev) : (raiseDev s e).hif.xfers = s.hif.xfers := by simp [raiseDev]
@[simp] theorem raiseDev_hif_msix (s : State) (e : Ev) : (raiseDev s e).hif.msix = s.hif.msix := by simp [raiseDev]
@[simp] theorem raiseDev_hif_msixPend (s : State) (e : Ev) : (raiseDev s e).hif.msixPend = s.hif.msixPend := by simp [raiseDev]
@[simp] theorem raiseDev_hif_out (s : State) (e : Ev) : (raiseDev s e).hif.out = s.hif.out := by simp [raiseDev]
@[simp] theorem raiseDev_hif_evRecv (s : State) (e : Ev) : (raiseDev s e).hif.evRecv = s.hif.evRecv := by simp [raiseDev]
@[simp] theorem raiseDev_hif_cxlWait (s : State) (e : Ev) : (raiseDev s e).hif.cxlWait = s.hif.cxlWait := by simp [raiseDev]

@[simp] theorem raiseJob_pending (s : State) (j : Nat) (e : Ev) : (raiseJob s j e).pending = s.pending := by unfold raiseJob; dsimp only; split <;> simp
@[simp] theorem raiseJob_bell (s : State) (j : Nat) (e : Ev) : (raiseJob s j e).bell = s.bell := by unfold raiseJob; dsimp only; split <;> simp
@[simp] theorem raiseJob_regs (s : State) (j : Nat) (e : Ev) : (raiseJob s j e).regs = s.regs := by unfold raiseJob; dsimp only; split <;> simp
@[simp] theorem raiseJob_map (s : State) (j : Nat) (e : Ev) : (raiseJob s j e).map = s.map := by unfold raiseJob; dsimp only; split <;> simp
@[simp] theorem raiseJob_xing (s : State) (j : Nat) (e : Ev) : (raiseJob s j e).xing = s.xing := by unfold raiseJob; dsimp only; split <;> simp
@[simp] theorem raiseJob_spindles (s : State) (j : Nat) (e : Ev) : (raiseJob s j e).spindles = s.spindles := by unfold raiseJob; dsimp only; split <;> simp
@[simp] theorem raiseJob_fabric (s : State) (j : Nat) (e : Ev) : (raiseJob s j e).fabric = s.fabric := by unfold raiseJob; dsimp only; split <;> simp
@[simp] theorem raiseJob_hbm (s : State) (j : Nat) (e : Ev) : (raiseJob s j e).hbm = s.hbm := by unfold raiseJob; dsimp only; split <;> simp
@[simp] theorem raiseJob_ports (s : State) (j : Nat) (e : Ev) : (raiseJob s j e).ports = s.ports := by unfold raiseJob; dsimp only; split <;> simp
@[simp] theorem raiseJob_lantern (s : State) (j : Nat) (e : Ev) : (raiseJob s j e).lantern = s.lantern := by unfold raiseJob; dsimp only; split <;> simp
@[simp] theorem raiseJob_thermal (s : State) (j : Nat) (e : Ev) : (raiseJob s j e).thermal = s.thermal := by unfold raiseJob; dsimp only; split <;> simp
@[simp] theorem raiseJob_keep (s : State) (j : Nat) (e : Ev) : (raiseJob s j e).keep = s.keep := by unfold raiseJob; dsimp only; split <;> simp
@[simp] theorem raiseJob_repair (s : State) (j : Nat) (e : Ev) : (raiseJob s j e).repair = s.repair := by unfold raiseJob; dsimp only; split <;> simp
@[simp] theorem raiseJob_power (s : State) (j : Nat) (e : Ev) : (raiseJob s j e).power = s.power := by unfold raiseJob; dsimp only; split <;> simp
@[simp] theorem raiseJob_syncCap (s : State) (j : Nat) (e : Ev) : (raiseJob s j e).syncCap = s.syncCap := by unfold raiseJob; dsimp only; split <;> simp
@[simp] theorem raiseJob_images (s : State) (j : Nat) (e : Ev) : (raiseJob s j e).images = s.images := by unfold raiseJob; dsimp only; split <;> simp
@[simp] theorem raiseJob_free (s : State) (j : Nat) (e : Ev) : (raiseJob s j e).free = s.free := by unfold raiseJob; dsimp only; split <;> simp
@[simp] theorem raiseJob_hif_sq (s : State) (j : Nat) (e : Ev) : (raiseJob s j e).hif.sq = s.hif.sq := by unfold raiseJob; dsimp only; split <;> simp
@[simp] theorem raiseJob_hif_cq (s : State) (j : Nat) (e : Ev) : (raiseJob s j e).hif.cq = s.hif.cq := by unfold raiseJob; dsimp only; split <;> simp
@[simp] theorem raiseJob_hif_turn (s : State) (j : Nat) (e : Ev) : (raiseJob s j e).hif.turn = s.hif.turn := by unfold raiseJob; dsimp only; split <;> simp
@[simp] theorem raiseJob_hif_fetched (s : State) (j : Nat) (e : Ev) : (raiseJob s j e).hif.fetched = s.hif.fetched := by unfold raiseJob; dsimp only; split <;> simp
@[simp] theorem raiseJob_hif_descs (s : State) (j : Nat) (e : Ev) : (raiseJob s j e).hif.descs = s.hif.descs := by unfold raiseJob; dsimp only; split <;> simp
@[simp] theorem raiseJob_hif_receipts (s : State) (j : Nat) (e : Ev) : (raiseJob s j e).hif.receipts = s.hif.receipts := by unfold raiseJob; dsimp only; split <;> simp
@[simp] theorem raiseJob_hif_signed (s : State) (j : Nat) (e : Ev) : (raiseJob s j e).hif.signed = s.hif.signed := by unfold raiseJob; dsimp only; split <;> simp
@[simp] theorem raiseJob_hif_link (s : State) (j : Nat) (e : Ev) : (raiseJob s j e).hif.link = s.hif.link := by unfold raiseJob; dsimp only; split <;> simp
@[simp] theorem raiseJob_hif_width (s : State) (j : Nat) (e : Ev) : (raiseJob s j e).hif.width = s.hif.width := by unfold raiseJob; dsimp only; split <;> simp
@[simp] theorem raiseJob_hif_fast (s : State) (j : Nat) (e : Ev) : (raiseJob s j e).hif.fast = s.hif.fast := by unfold raiseJob; dsimp only; split <;> simp
@[simp] theorem raiseJob_hif_perst (s : State) (j : Nat) (e : Ev) : (raiseJob s j e).hif.perst = s.hif.perst := by unfold raiseJob; dsimp only; split <;> simp
@[simp] theorem raiseJob_hif_host (s : State) (j : Nat) (e : Ev) : (raiseJob s j e).hif.host = s.hif.host := by unfold raiseJob; dsimp only; split <;> simp
@[simp] theorem raiseJob_hif_hostPoison (s : State) (j : Nat) (e : Ev) : (raiseJob s j e).hif.hostPoison = s.hif.hostPoison := by unfold raiseJob; dsimp only; split <;> simp
@[simp] theorem raiseJob_hif_xfers (s : State) (j : Nat) (e : Ev) : (raiseJob s j e).hif.xfers = s.hif.xfers := by unfold raiseJob; dsimp only; split <;> simp
@[simp] theorem raiseJob_hif_msix (s : State) (j : Nat) (e : Ev) : (raiseJob s j e).hif.msix = s.hif.msix := by unfold raiseJob; dsimp only; split <;> simp
@[simp] theorem raiseJob_hif_msixPend (s : State) (j : Nat) (e : Ev) : (raiseJob s j e).hif.msixPend = s.hif.msixPend := by unfold raiseJob; dsimp only; split <;> simp
@[simp] theorem raiseJob_hif_out (s : State) (j : Nat) (e : Ev) : (raiseJob s j e).hif.out = s.hif.out := by unfold raiseJob; dsimp only; split <;> simp
@[simp] theorem raiseJob_hif_evRecv (s : State) (j : Nat) (e : Ev) : (raiseJob s j e).hif.evRecv = s.hif.evRecv := by unfold raiseJob; dsimp only; split <;> simp
@[simp] theorem raiseJob_hif_cxlWait (s : State) (j : Nat) (e : Ev) : (raiseJob s j e).hif.cxlWait = s.hif.cxlWait := by unfold raiseJob; dsimp only; split <;> simp

@[simp] theorem raiseAt_pending (s : State) (p : Nat) (e : Ev) : (raiseAt s p e).pending = s.pending := by unfold raiseAt; dsimp only; (repeat' split) <;> simp
@[simp] theorem raiseAt_bell (s : State) (p : Nat) (e : Ev) : (raiseAt s p e).bell = s.bell := by unfold raiseAt; dsimp only; (repeat' split) <;> simp
@[simp] theorem raiseAt_regs (s : State) (p : Nat) (e : Ev) : (raiseAt s p e).regs = s.regs := by unfold raiseAt; dsimp only; (repeat' split) <;> simp
@[simp] theorem raiseAt_map (s : State) (p : Nat) (e : Ev) : (raiseAt s p e).map = s.map := by unfold raiseAt; dsimp only; (repeat' split) <;> simp
@[simp] theorem raiseAt_xing (s : State) (p : Nat) (e : Ev) : (raiseAt s p e).xing = s.xing := by unfold raiseAt; dsimp only; (repeat' split) <;> simp
@[simp] theorem raiseAt_spindles (s : State) (p : Nat) (e : Ev) : (raiseAt s p e).spindles = s.spindles := by unfold raiseAt; dsimp only; (repeat' split) <;> simp
@[simp] theorem raiseAt_fabric (s : State) (p : Nat) (e : Ev) : (raiseAt s p e).fabric = s.fabric := by unfold raiseAt; dsimp only; (repeat' split) <;> simp
@[simp] theorem raiseAt_hbm (s : State) (p : Nat) (e : Ev) : (raiseAt s p e).hbm = s.hbm := by unfold raiseAt; dsimp only; (repeat' split) <;> simp
@[simp] theorem raiseAt_ports (s : State) (p : Nat) (e : Ev) : (raiseAt s p e).ports = s.ports := by unfold raiseAt; dsimp only; (repeat' split) <;> simp
@[simp] theorem raiseAt_lantern (s : State) (p : Nat) (e : Ev) : (raiseAt s p e).lantern = s.lantern := by unfold raiseAt; dsimp only; (repeat' split) <;> simp
@[simp] theorem raiseAt_thermal (s : State) (p : Nat) (e : Ev) : (raiseAt s p e).thermal = s.thermal := by unfold raiseAt; dsimp only; (repeat' split) <;> simp
@[simp] theorem raiseAt_keep (s : State) (p : Nat) (e : Ev) : (raiseAt s p e).keep = s.keep := by unfold raiseAt; dsimp only; (repeat' split) <;> simp
@[simp] theorem raiseAt_repair (s : State) (p : Nat) (e : Ev) : (raiseAt s p e).repair = s.repair := by unfold raiseAt; dsimp only; (repeat' split) <;> simp
@[simp] theorem raiseAt_power (s : State) (p : Nat) (e : Ev) : (raiseAt s p e).power = s.power := by unfold raiseAt; dsimp only; (repeat' split) <;> simp
@[simp] theorem raiseAt_syncCap (s : State) (p : Nat) (e : Ev) : (raiseAt s p e).syncCap = s.syncCap := by unfold raiseAt; dsimp only; (repeat' split) <;> simp
@[simp] theorem raiseAt_images (s : State) (p : Nat) (e : Ev) : (raiseAt s p e).images = s.images := by unfold raiseAt; dsimp only; (repeat' split) <;> simp
@[simp] theorem raiseAt_free (s : State) (p : Nat) (e : Ev) : (raiseAt s p e).free = s.free := by unfold raiseAt; dsimp only; (repeat' split) <;> simp
@[simp] theorem raiseAt_hif_sq (s : State) (p : Nat) (e : Ev) : (raiseAt s p e).hif.sq = s.hif.sq := by unfold raiseAt; dsimp only; (repeat' split) <;> simp
@[simp] theorem raiseAt_hif_cq (s : State) (p : Nat) (e : Ev) : (raiseAt s p e).hif.cq = s.hif.cq := by unfold raiseAt; dsimp only; (repeat' split) <;> simp
@[simp] theorem raiseAt_hif_turn (s : State) (p : Nat) (e : Ev) : (raiseAt s p e).hif.turn = s.hif.turn := by unfold raiseAt; dsimp only; (repeat' split) <;> simp
@[simp] theorem raiseAt_hif_fetched (s : State) (p : Nat) (e : Ev) : (raiseAt s p e).hif.fetched = s.hif.fetched := by unfold raiseAt; dsimp only; (repeat' split) <;> simp
@[simp] theorem raiseAt_hif_descs (s : State) (p : Nat) (e : Ev) : (raiseAt s p e).hif.descs = s.hif.descs := by unfold raiseAt; dsimp only; (repeat' split) <;> simp
@[simp] theorem raiseAt_hif_receipts (s : State) (p : Nat) (e : Ev) : (raiseAt s p e).hif.receipts = s.hif.receipts := by unfold raiseAt; dsimp only; (repeat' split) <;> simp
@[simp] theorem raiseAt_hif_signed (s : State) (p : Nat) (e : Ev) : (raiseAt s p e).hif.signed = s.hif.signed := by unfold raiseAt; dsimp only; (repeat' split) <;> simp
@[simp] theorem raiseAt_hif_link (s : State) (p : Nat) (e : Ev) : (raiseAt s p e).hif.link = s.hif.link := by unfold raiseAt; dsimp only; (repeat' split) <;> simp
@[simp] theorem raiseAt_hif_width (s : State) (p : Nat) (e : Ev) : (raiseAt s p e).hif.width = s.hif.width := by unfold raiseAt; dsimp only; (repeat' split) <;> simp
@[simp] theorem raiseAt_hif_fast (s : State) (p : Nat) (e : Ev) : (raiseAt s p e).hif.fast = s.hif.fast := by unfold raiseAt; dsimp only; (repeat' split) <;> simp
@[simp] theorem raiseAt_hif_perst (s : State) (p : Nat) (e : Ev) : (raiseAt s p e).hif.perst = s.hif.perst := by unfold raiseAt; dsimp only; (repeat' split) <;> simp
@[simp] theorem raiseAt_hif_host (s : State) (p : Nat) (e : Ev) : (raiseAt s p e).hif.host = s.hif.host := by unfold raiseAt; dsimp only; (repeat' split) <;> simp
@[simp] theorem raiseAt_hif_hostPoison (s : State) (p : Nat) (e : Ev) : (raiseAt s p e).hif.hostPoison = s.hif.hostPoison := by unfold raiseAt; dsimp only; (repeat' split) <;> simp
@[simp] theorem raiseAt_hif_xfers (s : State) (p : Nat) (e : Ev) : (raiseAt s p e).hif.xfers = s.hif.xfers := by unfold raiseAt; dsimp only; (repeat' split) <;> simp
@[simp] theorem raiseAt_hif_msix (s : State) (p : Nat) (e : Ev) : (raiseAt s p e).hif.msix = s.hif.msix := by unfold raiseAt; dsimp only; (repeat' split) <;> simp
@[simp] theorem raiseAt_hif_msixPend (s : State) (p : Nat) (e : Ev) : (raiseAt s p e).hif.msixPend = s.hif.msixPend := by unfold raiseAt; dsimp only; (repeat' split) <;> simp
@[simp] theorem raiseAt_hif_out (s : State) (p : Nat) (e : Ev) : (raiseAt s p e).hif.out = s.hif.out := by unfold raiseAt; dsimp only; (repeat' split) <;> simp
@[simp] theorem raiseAt_hif_evRecv (s : State) (p : Nat) (e : Ev) : (raiseAt s p e).hif.evRecv = s.hif.evRecv := by unfold raiseAt; dsimp only; (repeat' split) <;> simp
@[simp] theorem raiseAt_hif_cxlWait (s : State) (p : Nat) (e : Ev) : (raiseAt s p e).hif.cxlWait = s.hif.cxlWait := by unfold raiseAt; dsimp only; (repeat' split) <;> simp

/-- An event raised is among the entries due. -/
theorem raiseDev_due (s : State) (e : Ev) : ∃ x, (raiseDev s e).hif.due = s.hif.due ++ [x] ∧ x.code = e.code ∧ x.job = none ∧ x.frame = s.bell.count :=
  postEv_due s e none none none

theorem raiseJob_due (s : State) (j : Nat) (e : Ev) :
    ∃ x, (raiseJob s j e).hif.due = s.hif.due ++ [x] ∧ x.code = e.code ∧ x.job = some j ∧ x.frame = s.bell.count := by
  unfold raiseJob; dsimp only; split
  · exact postEv_due s e _ _ _
  · rw [faultJob_hif]; exact postEv_due s e _ _ _

theorem raiseAt_due (s : State) (p : Nat) (e : Ev) :
    ∃ x, (raiseAt s p e).hif.due = s.hif.due ++ [x] ∧ x.code = e.code ∧ x.job = jobAt s p ∧ x.frame = s.bell.count := by
  unfold raiseAt; dsimp only; repeat' split
  · exact postEv_due s e _ _ _
  · rw [faultJob_hif]; exact postEv_due s e _ _ _
  · exact postEv_due s e _ _ _

/-! Jobs and the readers of the state that events leave alone -/

/-- A job after a fault is noted: only its fault and its stop may differ. -/
theorem faultJob_jobOf (s : State) (j code : Nat) (stop all : Bool) (k : Nat) :
    jobOf (faultJob s j code stop all) k =
      if j = k ∧ k < s.jobs.length then
        { jobOf s k with
            fault := (jobOf s k).fault <|> some (code, s.bell.count), stop := (jobOf s k).stop || stop, stopAll := (jobOf s k).stopAll || all,
            stopAt := if stop && !(jobOf s k).stop then lastTime s else (jobOf s k).stopAt }
      else jobOf s k := by
  simp only [faultJob, modJob, jobOf, modAt_getD]; rfl


@[simp] theorem setNf_pending (s : State) (p : Nat) : (setNf s p).pending = s.pending := by unfold setNf; split <;> rfl
@[simp] theorem setNf_bell (s : State) (p : Nat) : (setNf s p).bell = s.bell := by unfold setNf; split <;> rfl
@[simp] theorem setNf_regs (s : State) (p : Nat) : (setNf s p).regs = s.regs := by unfold setNf; split <;> rfl
@[simp] theorem setNf_map (s : State) (p : Nat) : (setNf s p).map = s.map := by unfold setNf; split <;> rfl
@[simp] theorem setNf_xing (s : State) (p : Nat) : (setNf s p).xing = s.xing := by unfold setNf; split <;> rfl
@[simp] theorem setNf_spindles (s : State) (p : Nat) : (setNf s p).spindles = s.spindles := by unfold setNf; split <;> rfl
@[simp] theorem setNf_fabric (s : State) (p : Nat) : (setNf s p).fabric = s.fabric := by unfold setNf; split <;> rfl
@[simp] theorem setNf_hbm (s : State) (p : Nat) : (setNf s p).hbm = s.hbm := by unfold setNf; split <;> rfl
@[simp] theorem setNf_ports (s : State) (p : Nat) : (setNf s p).ports = s.ports := by unfold setNf; split <;> rfl
@[simp] theorem setNf_hif (s : State) (p : Nat) : (setNf s p).hif = s.hif := by unfold setNf; split <;> rfl
@[simp] theorem setNf_lantern (s : State) (p : Nat) : (setNf s p).lantern = s.lantern := by unfold setNf; split <;> rfl
@[simp] theorem setNf_thermal (s : State) (p : Nat) : (setNf s p).thermal = s.thermal := by unfold setNf; split <;> rfl
@[simp] theorem setNf_keep (s : State) (p : Nat) : (setNf s p).keep = s.keep := by unfold setNf; split <;> rfl
@[simp] theorem setNf_repair (s : State) (p : Nat) : (setNf s p).repair = s.repair := by unfold setNf; split <;> rfl
@[simp] theorem setNf_power (s : State) (p : Nat) : (setNf s p).power = s.power := by unfold setNf; split <;> rfl
@[simp] theorem setNf_pins (s : State) (p : Nat) : (setNf s p).pins = s.pins := by unfold setNf; split <;> rfl
@[simp] theorem setNf_syncCap (s : State) (p : Nat) : (setNf s p).syncCap = s.syncCap := by unfold setNf; split <;> rfl
@[simp] theorem setNf_images (s : State) (p : Nat) : (setNf s p).images = s.images := by unfold setNf; split <;> rfl
@[simp] theorem setNf_free (s : State) (p : Nat) : (setNf s p).free = s.free := by unfold setNf; split <;> rfl

/-! A step of a position -/

@[simp] theorem tallyChan_pending (s : State) (p : Nat) (l : Loc) : (tallyChan s p l).pending = s.pending := by unfold tallyChan; dsimp only; (repeat' split) <;> rfl
@[simp] theorem tallyChan_bell (s : State) (p : Nat) (l : Loc) : (tallyChan s p l).bell = s.bell := by unfold tallyChan; dsimp only; (repeat' split) <;> rfl
@[simp] theorem tallyChan_regs (s : State) (p : Nat) (l : Loc) : (tallyChan s p l).regs = s.regs := by unfold tallyChan; dsimp only; (repeat' split) <;> rfl
@[simp] theorem tallyChan_jobs (s : State) (p : Nat) (l : Loc) : (tallyChan s p l).jobs = s.jobs := by unfold tallyChan; dsimp only; (repeat' split) <;> rfl
@[simp] theorem tallyChan_map (s : State) (p : Nat) (l : Loc) : (tallyChan s p l).map = s.map := by unfold tallyChan; dsimp only; (repeat' split) <;> rfl
@[simp] theorem tallyChan_xing (s : State) (p : Nat) (l : Loc) : (tallyChan s p l).xing = s.xing := by unfold tallyChan; dsimp only; (repeat' split) <;> rfl
@[simp] theorem tallyChan_spindles (s : State) (p : Nat) (l : Loc) : (tallyChan s p l).spindles = s.spindles := by unfold tallyChan; dsimp only; (repeat' split) <;> rfl
@[simp] theorem tallyChan_fabric (s : State) (p : Nat) (l : Loc) : (tallyChan s p l).fabric = s.fabric := by unfold tallyChan; dsimp only; (repeat' split) <;> rfl
@[simp] theorem tallyChan_hbm (s : State) (p : Nat) (l : Loc) : (tallyChan s p l).hbm = s.hbm := by unfold tallyChan; dsimp only; (repeat' split) <;> rfl
@[simp] theorem tallyChan_hif (s : State) (p : Nat) (l : Loc) : (tallyChan s p l).hif = s.hif := by unfold tallyChan; dsimp only; (repeat' split) <;> rfl
@[simp] theorem tallyChan_lantern (s : State) (p : Nat) (l : Loc) : (tallyChan s p l).lantern = s.lantern := by unfold tallyChan; dsimp only; (repeat' split) <;> rfl
@[simp] theorem tallyChan_thermal (s : State) (p : Nat) (l : Loc) : (tallyChan s p l).thermal = s.thermal := by unfold tallyChan; dsimp only; (repeat' split) <;> rfl
@[simp] theorem tallyChan_keep (s : State) (p : Nat) (l : Loc) : (tallyChan s p l).keep = s.keep := by unfold tallyChan; dsimp only; (repeat' split) <;> rfl
@[simp] theorem tallyChan_repair (s : State) (p : Nat) (l : Loc) : (tallyChan s p l).repair = s.repair := by unfold tallyChan; dsimp only; (repeat' split) <;> rfl
@[simp] theorem tallyChan_power (s : State) (p : Nat) (l : Loc) : (tallyChan s p l).power = s.power := by unfold tallyChan; dsimp only; (repeat' split) <;> rfl
@[simp] theorem tallyChan_pins (s : State) (p : Nat) (l : Loc) : (tallyChan s p l).pins = s.pins := by unfold tallyChan; dsimp only; (repeat' split) <;> rfl
@[simp] theorem tallyChan_syncCap (s : State) (p : Nat) (l : Loc) : (tallyChan s p l).syncCap = s.syncCap := by unfold tallyChan; dsimp only; (repeat' split) <;> rfl
@[simp] theorem tallyChan_images (s : State) (p : Nat) (l : Loc) : (tallyChan s p l).images = s.images := by unfold tallyChan; dsimp only; (repeat' split) <;> rfl
@[simp] theorem tallyChan_free (s : State) (p : Nat) (l : Loc) : (tallyChan s p l).free = s.free := by unfold tallyChan; dsimp only; (repeat' split) <;> rfl

/-- The ports are as before but for counts of PLY_CH_STALL where stream C waits for a credit. -/
theorem tallyChan_ports (s : State) (p : Nat) (l : Loc) (h : chanWait (spAt s p) = none) : tallyChan s p l = s := by
  unfold tallyChan; rw [h]

@[simp] theorem foldl_raiseAt_pending (es : List Ev) (s : State) (p : Nat) : (es.foldl (fun t e => raiseAt t p e) s).pending = s.pending := by
  induction es generalizing s with
  | nil => rfl
  | cons e es ih => simp [ih]
@[simp] theorem foldl_raiseAt_bell (es : List Ev) (s : State) (p : Nat) : (es.foldl (fun t e => raiseAt t p e) s).bell = s.bell := by
  induction es generalizing s with
  | nil => rfl
  | cons e es ih => simp [ih]
@[simp] theorem foldl_raiseAt_regs (es : List Ev) (s : State) (p : Nat) : (es.foldl (fun t e => raiseAt t p e) s).regs = s.regs := by
  induction es generalizing s with
  | nil => rfl
  | cons e es ih => simp [ih]
@[simp] theorem foldl_raiseAt_map (es : List Ev) (s : State) (p : Nat) : (es.foldl (fun t e => raiseAt t p e) s).map = s.map := by
  induction es generalizing s with
  | nil => rfl
  | cons e es ih => simp [ih]
@[simp] theorem foldl_raiseAt_xing (es : List Ev) (s : State) (p : Nat) : (es.foldl (fun t e => raiseAt t p e) s).xing = s.xing := by
  induction es generalizing s with
  | nil => rfl
  | cons e es ih => simp [ih]
@[simp] theorem foldl_raiseAt_spindles (es : List Ev) (s : State) (p : Nat) : (es.foldl (fun t e => raiseAt t p e) s).spindles = s.spindles := by
  induction es generalizing s with
  | nil => rfl
  | cons e es ih => simp [ih]
@[simp] theorem foldl_raiseAt_fabric (es : List Ev) (s : State) (p : Nat) : (es.foldl (fun t e => raiseAt t p e) s).fabric = s.fabric := by
  induction es generalizing s with
  | nil => rfl
  | cons e es ih => simp [ih]
@[simp] theorem foldl_raiseAt_hbm (es : List Ev) (s : State) (p : Nat) : (es.foldl (fun t e => raiseAt t p e) s).hbm = s.hbm := by
  induction es generalizing s with
  | nil => rfl
  | cons e es ih => simp [ih]
@[simp] theorem foldl_raiseAt_ports (es : List Ev) (s : State) (p : Nat) : (es.foldl (fun t e => raiseAt t p e) s).ports = s.ports := by
  induction es generalizing s with
  | nil => rfl
  | cons e es ih => simp [ih]
@[simp] theorem foldl_raiseAt_lantern (es : List Ev) (s : State) (p : Nat) : (es.foldl (fun t e => raiseAt t p e) s).lantern = s.lantern := by
  induction es generalizing s with
  | nil => rfl
  | cons e es ih => simp [ih]
@[simp] theorem foldl_raiseAt_thermal (es : List Ev) (s : State) (p : Nat) : (es.foldl (fun t e => raiseAt t p e) s).thermal = s.thermal := by
  induction es generalizing s with
  | nil => rfl
  | cons e es ih => simp [ih]
@[simp] theorem foldl_raiseAt_keep (es : List Ev) (s : State) (p : Nat) : (es.foldl (fun t e => raiseAt t p e) s).keep = s.keep := by
  induction es generalizing s with
  | nil => rfl
  | cons e es ih => simp [ih]
@[simp] theorem foldl_raiseAt_repair (es : List Ev) (s : State) (p : Nat) : (es.foldl (fun t e => raiseAt t p e) s).repair = s.repair := by
  induction es generalizing s with
  | nil => rfl
  | cons e es ih => simp [ih]
@[simp] theorem foldl_raiseAt_power (es : List Ev) (s : State) (p : Nat) : (es.foldl (fun t e => raiseAt t p e) s).power = s.power := by
  induction es generalizing s with
  | nil => rfl
  | cons e es ih => simp [ih]
@[simp] theorem foldl_raiseAt_syncCap (es : List Ev) (s : State) (p : Nat) : (es.foldl (fun t e => raiseAt t p e) s).syncCap = s.syncCap := by
  induction es generalizing s with
  | nil => rfl
  | cons e es ih => simp [ih]
@[simp] theorem foldl_raiseAt_images (es : List Ev) (s : State) (p : Nat) : (es.foldl (fun t e => raiseAt t p e) s).images = s.images := by
  induction es generalizing s with
  | nil => rfl
  | cons e es ih => simp [ih]
@[simp] theorem foldl_raiseAt_free (es : List Ev) (s : State) (p : Nat) : (es.foldl (fun t e => raiseAt t p e) s).free = s.free := by
  induction es generalizing s with
  | nil => rfl
  | cons e es ih => simp [ih]
@[simp] theorem foldl_raiseAt_hif_sq (es : List Ev) (s : State) (p : Nat) : (es.foldl (fun t e => raiseAt t p e) s).hif.sq = s.hif.sq := by
  induction es generalizing s with
  | nil => rfl
  | cons e es ih => simp [ih]
@[simp] theorem foldl_raiseAt_hif_cq (es : List Ev) (s : State) (p : Nat) : (es.foldl (fun t e => raiseAt t p e) s).hif.cq = s.hif.cq := by
  induction es generalizing s with
  | nil => rfl
  | cons e es ih => simp [ih]
@[simp] theorem foldl_raiseAt_hif_turn (es : List Ev) (s : State) (p : Nat) : (es.foldl (fun t e => raiseAt t p e) s).hif.turn = s.hif.turn := by
  induction es generalizing s with
  | nil => rfl
  | cons e es ih => simp [ih]
@[simp] theorem foldl_raiseAt_hif_fetched (es : List Ev) (s : State) (p : Nat) : (es.foldl (fun t e => raiseAt t p e) s).hif.fetched = s.hif.fetched := by
  induction es generalizing s with
  | nil => rfl
  | cons e es ih => simp [ih]
@[simp] theorem foldl_raiseAt_hif_descs (es : List Ev) (s : State) (p : Nat) : (es.foldl (fun t e => raiseAt t p e) s).hif.descs = s.hif.descs := by
  induction es generalizing s with
  | nil => rfl
  | cons e es ih => simp [ih]
@[simp] theorem foldl_raiseAt_hif_receipts (es : List Ev) (s : State) (p : Nat) : (es.foldl (fun t e => raiseAt t p e) s).hif.receipts = s.hif.receipts := by
  induction es generalizing s with
  | nil => rfl
  | cons e es ih => simp [ih]
@[simp] theorem foldl_raiseAt_hif_signed (es : List Ev) (s : State) (p : Nat) : (es.foldl (fun t e => raiseAt t p e) s).hif.signed = s.hif.signed := by
  induction es generalizing s with
  | nil => rfl
  | cons e es ih => simp [ih]
@[simp] theorem foldl_raiseAt_hif_link (es : List Ev) (s : State) (p : Nat) : (es.foldl (fun t e => raiseAt t p e) s).hif.link = s.hif.link := by
  induction es generalizing s with
  | nil => rfl
  | cons e es ih => simp [ih]
@[simp] theorem foldl_raiseAt_hif_width (es : List Ev) (s : State) (p : Nat) : (es.foldl (fun t e => raiseAt t p e) s).hif.width = s.hif.width := by
  induction es generalizing s with
  | nil => rfl
  | cons e es ih => simp [ih]
@[simp] theorem foldl_raiseAt_hif_fast (es : List Ev) (s : State) (p : Nat) : (es.foldl (fun t e => raiseAt t p e) s).hif.fast = s.hif.fast := by
  induction es generalizing s with
  | nil => rfl
  | cons e es ih => simp [ih]
@[simp] theorem foldl_raiseAt_hif_perst (es : List Ev) (s : State) (p : Nat) : (es.foldl (fun t e => raiseAt t p e) s).hif.perst = s.hif.perst := by
  induction es generalizing s with
  | nil => rfl
  | cons e es ih => simp [ih]
@[simp] theorem foldl_raiseAt_hif_host (es : List Ev) (s : State) (p : Nat) : (es.foldl (fun t e => raiseAt t p e) s).hif.host = s.hif.host := by
  induction es generalizing s with
  | nil => rfl
  | cons e es ih => simp [ih]
@[simp] theorem foldl_raiseAt_hif_hostPoison (es : List Ev) (s : State) (p : Nat) : (es.foldl (fun t e => raiseAt t p e) s).hif.hostPoison = s.hif.hostPoison := by
  induction es generalizing s with
  | nil => rfl
  | cons e es ih => simp [ih]
@[simp] theorem foldl_raiseAt_hif_xfers (es : List Ev) (s : State) (p : Nat) : (es.foldl (fun t e => raiseAt t p e) s).hif.xfers = s.hif.xfers := by
  induction es generalizing s with
  | nil => rfl
  | cons e es ih => simp [ih]
@[simp] theorem foldl_raiseAt_hif_msix (es : List Ev) (s : State) (p : Nat) : (es.foldl (fun t e => raiseAt t p e) s).hif.msix = s.hif.msix := by
  induction es generalizing s with
  | nil => rfl
  | cons e es ih => simp [ih]
@[simp] theorem foldl_raiseAt_hif_msixPend (es : List Ev) (s : State) (p : Nat) : (es.foldl (fun t e => raiseAt t p e) s).hif.msixPend = s.hif.msixPend := by
  induction es generalizing s with
  | nil => rfl
  | cons e es ih => simp [ih]
@[simp] theorem foldl_raiseAt_hif_out (es : List Ev) (s : State) (p : Nat) : (es.foldl (fun t e => raiseAt t p e) s).hif.out = s.hif.out := by
  induction es generalizing s with
  | nil => rfl
  | cons e es ih => simp [ih]
@[simp] theorem foldl_raiseAt_hif_evRecv (es : List Ev) (s : State) (p : Nat) : (es.foldl (fun t e => raiseAt t p e) s).hif.evRecv = s.hif.evRecv := by
  induction es generalizing s with
  | nil => rfl
  | cons e es ih => simp [ih]
@[simp] theorem foldl_raiseAt_hif_cxlWait (es : List Ev) (s : State) (p : Nat) : (es.foldl (fun t e => raiseAt t p e) s).hif.cxlWait = s.hif.cxlWait := by
  induction es generalizing s with
  | nil => rfl
  | cons e es ih => simp [ih]

@[simp] theorem closePos_pending (s : State) (p : Nat) (l : Loc) : (closePos s p l).pending = s.pending := by unfold closePos; dsimp only; split <;> simp
@[simp] theorem closePos_bell (s : State) (p : Nat) (l : Loc) : (closePos s p l).bell = s.bell := by unfold closePos; dsimp only; split <;> simp
@[simp] theorem closePos_regs (s : State) (p : Nat) (l : Loc) : (closePos s p l).regs = s.regs := by unfold closePos; dsimp only; split <;> simp
@[simp] theorem closePos_map (s : State) (p : Nat) (l : Loc) : (closePos s p l).map = s.map := by unfold closePos; dsimp only; split <;> simp
@[simp] theorem closePos_xing (s : State) (p : Nat) (l : Loc) : (closePos s p l).xing = s.xing := by unfold closePos; dsimp only; split <;> simp
@[simp] theorem closePos_fabric (s : State) (p : Nat) (l : Loc) : (closePos s p l).fabric = s.fabric := by unfold closePos; dsimp only; split <;> simp
@[simp] theorem closePos_hbm (s : State) (p : Nat) (l : Loc) : (closePos s p l).hbm = s.hbm := by unfold closePos; dsimp only; split <;> simp
@[simp] theorem closePos_lantern (s : State) (p : Nat) (l : Loc) : (closePos s p l).lantern = s.lantern := by unfold closePos; dsimp only; split <;> simp
@[simp] theorem closePos_thermal (s : State) (p : Nat) (l : Loc) : (closePos s p l).thermal = s.thermal := by unfold closePos; dsimp only; split <;> simp
@[simp] theorem closePos_keep (s : State) (p : Nat) (l : Loc) : (closePos s p l).keep = s.keep := by unfold closePos; dsimp only; split <;> simp
@[simp] theorem closePos_repair (s : State) (p : Nat) (l : Loc) : (closePos s p l).repair = s.repair := by unfold closePos; dsimp only; split <;> simp
@[simp] theorem closePos_power (s : State) (p : Nat) (l : Loc) : (closePos s p l).power = s.power := by unfold closePos; dsimp only; split <;> simp
@[simp] theorem closePos_syncCap (s : State) (p : Nat) (l : Loc) : (closePos s p l).syncCap = s.syncCap := by unfold closePos; dsimp only; split <;> simp
@[simp] theorem closePos_images (s : State) (p : Nat) (l : Loc) : (closePos s p l).images = s.images := by unfold closePos; dsimp only; split <;> simp
@[simp] theorem closePos_hif_sq (s : State) (p : Nat) (l : Loc) : (closePos s p l).hif.sq = s.hif.sq := by unfold closePos; dsimp only; split <;> simp
@[simp] theorem closePos_hif_cq (s : State) (p : Nat) (l : Loc) : (closePos s p l).hif.cq = s.hif.cq := by unfold closePos; dsimp only; split <;> simp
@[simp] theorem closePos_hif_turn (s : State) (p : Nat) (l : Loc) : (closePos s p l).hif.turn = s.hif.turn := by unfold closePos; dsimp only; split <;> simp
@[simp] theorem closePos_hif_fetched (s : State) (p : Nat) (l : Loc) : (closePos s p l).hif.fetched = s.hif.fetched := by unfold closePos; dsimp only; split <;> simp
@[simp] theorem closePos_hif_descs (s : State) (p : Nat) (l : Loc) : (closePos s p l).hif.descs = s.hif.descs := by unfold closePos; dsimp only; split <;> simp
@[simp] theorem closePos_hif_receipts (s : State) (p : Nat) (l : Loc) : (closePos s p l).hif.receipts = s.hif.receipts := by unfold closePos; dsimp only; split <;> simp
@[simp] theorem closePos_hif_signed (s : State) (p : Nat) (l : Loc) : (closePos s p l).hif.signed = s.hif.signed := by unfold closePos; dsimp only; split <;> simp
@[simp] theorem closePos_hif_link (s : State) (p : Nat) (l : Loc) : (closePos s p l).hif.link = s.hif.link := by unfold closePos; dsimp only; split <;> simp
@[simp] theorem closePos_hif_width (s : State) (p : Nat) (l : Loc) : (closePos s p l).hif.width = s.hif.width := by unfold closePos; dsimp only; split <;> simp
@[simp] theorem closePos_hif_fast (s : State) (p : Nat) (l : Loc) : (closePos s p l).hif.fast = s.hif.fast := by unfold closePos; dsimp only; split <;> simp
@[simp] theorem closePos_hif_perst (s : State) (p : Nat) (l : Loc) : (closePos s p l).hif.perst = s.hif.perst := by unfold closePos; dsimp only; split <;> simp
@[simp] theorem closePos_hif_host (s : State) (p : Nat) (l : Loc) : (closePos s p l).hif.host = s.hif.host := by unfold closePos; dsimp only; split <;> simp
@[simp] theorem closePos_hif_hostPoison (s : State) (p : Nat) (l : Loc) : (closePos s p l).hif.hostPoison = s.hif.hostPoison := by unfold closePos; dsimp only; split <;> simp
@[simp] theorem closePos_hif_xfers (s : State) (p : Nat) (l : Loc) : (closePos s p l).hif.xfers = s.hif.xfers := by unfold closePos; dsimp only; split <;> simp
@[simp] theorem closePos_hif_msix (s : State) (p : Nat) (l : Loc) : (closePos s p l).hif.msix = s.hif.msix := by unfold closePos; dsimp only; split <;> simp
@[simp] theorem closePos_hif_msixPend (s : State) (p : Nat) (l : Loc) : (closePos s p l).hif.msixPend = s.hif.msixPend := by unfold closePos; dsimp only; split <;> simp
@[simp] theorem closePos_hif_out (s : State) (p : Nat) (l : Loc) : (closePos s p l).hif.out = s.hif.out := by unfold closePos; dsimp only; split <;> simp
@[simp] theorem closePos_hif_evRecv (s : State) (p : Nat) (l : Loc) : (closePos s p l).hif.evRecv = s.hif.evRecv := by unfold closePos; dsimp only; split <;> simp
@[simp] theorem closePos_hif_cxlWait (s : State) (p : Nat) (l : Loc) : (closePos s p l).hif.cxlWait = s.hif.cxlWait := by unfold closePos; dsimp only; split <;> simp
@[simp] theorem closePos_spindles (s : State) (p : Nat) (l : Loc) : (closePos s p l).spindles = modAt s.spindles p fun _ => l.sp := by
  unfold closePos; dsimp only; split <;> simp [modSp]
/-- A closed step leaves the ports alone where stream C waits for no credit. -/
theorem closePos_ports (s : State) (p : Nat) (l : Loc) (h : chanWait (spAt s p) = none) : (closePos s p l).ports = s.ports := by
  unfold closePos; rw [tallyChan_ports s p l h]; dsimp only; split <;> simp

@[simp] theorem closePos_free (s : State) (p : Nat) (l : Loc) : (closePos s p l).free = l.free := by unfold closePos; dsimp only; split <;> simp

@[simp] theorem runPos_pending (s : State) (p : Nat) (f : Loc → Loc) : (runPos s p f).pending = s.pending := by simp [runPos]
@[simp] theorem runPos_bell (s : State) (p : Nat) (f : Loc → Loc) : (runPos s p f).bell = s.bell := by simp [runPos]
@[simp] theorem runPos_regs (s : State) (p : Nat) (f : Loc → Loc) : (runPos s p f).regs = s.regs := by simp [runPos]
@[simp] theorem runPos_map (s : State) (p : Nat) (f : Loc → Loc) : (runPos s p f).map = s.map := by simp [runPos]
@[simp] theorem runPos_xing (s : State) (p : Nat) (f : Loc → Loc) : (runPos s p f).xing = s.xing := by simp [runPos]
@[simp] theorem runPos_fabric (s : State) (p : Nat) (f : Loc → Loc) : (runPos s p f).fabric = s.fabric := by simp [runPos]
@[simp] theorem runPos_hbm (s : State) (p : Nat) (f : Loc → Loc) : (runPos s p f).hbm = s.hbm := by simp [runPos]
@[simp] theorem runPos_lantern (s : State) (p : Nat) (f : Loc → Loc) : (runPos s p f).lantern = s.lantern := by simp [runPos]
@[simp] theorem runPos_thermal (s : State) (p : Nat) (f : Loc → Loc) : (runPos s p f).thermal = s.thermal := by simp [runPos]
@[simp] theorem runPos_keep (s : State) (p : Nat) (f : Loc → Loc) : (runPos s p f).keep = s.keep := by simp [runPos]
@[simp] theorem runPos_repair (s : State) (p : Nat) (f : Loc → Loc) : (runPos s p f).repair = s.repair := by simp [runPos]
@[simp] theorem runPos_power (s : State) (p : Nat) (f : Loc → Loc) : (runPos s p f).power = s.power := by simp [runPos]
@[simp] theorem runPos_syncCap (s : State) (p : Nat) (f : Loc → Loc) : (runPos s p f).syncCap = s.syncCap := by simp [runPos]
@[simp] theorem runPos_images (s : State) (p : Nat) (f : Loc → Loc) : (runPos s p f).images = s.images := by simp [runPos]
@[simp] theorem runPos_hif_sq (s : State) (p : Nat) (f : Loc → Loc) : (runPos s p f).hif.sq = s.hif.sq := by simp [runPos]
@[simp] theorem runPos_hif_cq (s : State) (p : Nat) (f : Loc → Loc) : (runPos s p f).hif.cq = s.hif.cq := by simp [runPos]
@[simp] theorem runPos_hif_turn (s : State) (p : Nat) (f : Loc → Loc) : (runPos s p f).hif.turn = s.hif.turn := by simp [runPos]
@[simp] theorem runPos_hif_fetched (s : State) (p : Nat) (f : Loc → Loc) : (runPos s p f).hif.fetched = s.hif.fetched := by simp [runPos]
@[simp] theorem runPos_hif_descs (s : State) (p : Nat) (f : Loc → Loc) : (runPos s p f).hif.descs = s.hif.descs := by simp [runPos]
@[simp] theorem runPos_hif_receipts (s : State) (p : Nat) (f : Loc → Loc) : (runPos s p f).hif.receipts = s.hif.receipts := by simp [runPos]
@[simp] theorem runPos_hif_signed (s : State) (p : Nat) (f : Loc → Loc) : (runPos s p f).hif.signed = s.hif.signed := by simp [runPos]
@[simp] theorem runPos_hif_link (s : State) (p : Nat) (f : Loc → Loc) : (runPos s p f).hif.link = s.hif.link := by simp [runPos]
@[simp] theorem runPos_hif_width (s : State) (p : Nat) (f : Loc → Loc) : (runPos s p f).hif.width = s.hif.width := by simp [runPos]
@[simp] theorem runPos_hif_fast (s : State) (p : Nat) (f : Loc → Loc) : (runPos s p f).hif.fast = s.hif.fast := by simp [runPos]
@[simp] theorem runPos_hif_perst (s : State) (p : Nat) (f : Loc → Loc) : (runPos s p f).hif.perst = s.hif.perst := by simp [runPos]
@[simp] theorem runPos_hif_host (s : State) (p : Nat) (f : Loc → Loc) : (runPos s p f).hif.host = s.hif.host := by simp [runPos]
@[simp] theorem runPos_hif_hostPoison (s : State) (p : Nat) (f : Loc → Loc) : (runPos s p f).hif.hostPoison = s.hif.hostPoison := by simp [runPos]
@[simp] theorem runPos_hif_xfers (s : State) (p : Nat) (f : Loc → Loc) : (runPos s p f).hif.xfers = s.hif.xfers := by simp [runPos]
@[simp] theorem runPos_hif_msix (s : State) (p : Nat) (f : Loc → Loc) : (runPos s p f).hif.msix = s.hif.msix := by simp [runPos]
@[simp] theorem runPos_hif_msixPend (s : State) (p : Nat) (f : Loc → Loc) : (runPos s p f).hif.msixPend = s.hif.msixPend := by simp [runPos]
@[simp] theorem runPos_hif_out (s : State) (p : Nat) (f : Loc → Loc) : (runPos s p f).hif.out = s.hif.out := by simp [runPos]
@[simp] theorem runPos_hif_evRecv (s : State) (p : Nat) (f : Loc → Loc) : (runPos s p f).hif.evRecv = s.hif.evRecv := by simp [runPos]
@[simp] theorem runPos_hif_cxlWait (s : State) (p : Nat) (f : Loc → Loc) : (runPos s p f).hif.cxlWait = s.hif.cxlWait := by simp [runPos]
@[simp] theorem runPos_spindles (s : State) (p : Nat) (f : Loc → Loc) : (runPos s p f).spindles = modAt s.spindles p fun _ => (f (openPos s p)).sp := by
  simp [runPos]

/-- The spindle of the position that a step closes. -/
theorem closePos_spAt (s : State) (p : Nat) (l : Loc) (h : p < s.spindles.length) : spAt (closePos s p l) p = l.sp := by
  simp only [spAt, closePos_spindles]; exact modAt_getD_self _ _ _ _ h

/-- Another position's spindle. -/
theorem closePos_spAt_ne (s : State) (p x : Nat) (l : Loc) (h : x ≠ p) : spAt (closePos s p l) x = spAt s x := by
  simp only [spAt, closePos_spindles]; exact modAt_getD_ne _ _ _ _ _ (Ne.symm h)

/-- A position that the block does not have keeps its reading. -/
theorem closePos_spAt_out (s : State) (p x : Nat) (l : Loc) (h : s.spindles.length ≤ p) : spAt (closePos s p l) x = spAt s x := by
  simp only [spAt, closePos_spindles, modAt_getD]
  split
  · omega
  · rfl

theorem runPos_spAt (s : State) (p : Nat) (f : Loc → Loc) (h : p < s.spindles.length) : spAt (runPos s p f) p = (f (openPos s p)).sp :=
  closePos_spAt s p _ h

theorem runPos_spAt_ne (s : State) (p x : Nat) (f : Loc → Loc) (h : x ≠ p) : spAt (runPos s p f) x = spAt s x := closePos_spAt_ne s p x _ h

/-- A step that changes nothing of the position. -/
theorem modAt_same {α : Type} (l : List α) (i : Nat) (d : α) : modAt l i (fun _ => l.getD i d) = l := by
  refine List.ext_getElem? fun k => ?_
  rw [modAt_getElem?]
  split
  · next h => subst h; cases h : l[i]? <;> simp [List.getD, h]
  · rfl

/-- A wait that a stop fault ends counts no further than the clock moves. -/
theorem Loc.waitsTo_le (l : Loc) (k t : Nat) : l.waitsTo k t ≤ max l.sp.clock.lc t := by unfold Loc.waitsTo; grind

theorem openPos_waits (s : State) (p k : Nat) : (openPos s p).waitsTo k (spAt s p).clock.lc - (spAt s p).clock.lc = 0 := by
  have := (openPos s p).waitsTo_le k (spAt s p).clock.lc
  have : (openPos s p).sp.clock.lc = (spAt s p).clock.lc := rfl
  omega

theorem closePos_open (s : State) (p : Nat) : closePos s p (openPos s p) = s := by
  have h : tallyChan s p (openPos s p) = s := by
    unfold tallyChan; split
    · exact if_pos (openPos_waits s p 4)
    · rfl
  simp only [closePos, h]; simp only [openPos, modSp, spAt, modAt_same]; rfl

theorem runPos_id (s : State) (p : Nat) : runPos s p (fun l => l) = s := closePos_open s p

theorem onPos_lt (s : State) (p : Nat) (f : Loc → Loc) (h : p < 624) : onPos s p f = .next (runPos s p f) := if_pos h

theorem onUnit_lt (kind : String) (n i : Nat) (r : State) (h : i < n) : onUnit kind n i r = .next r := if_pos h

end Sys2Proof.Machine
end

