-- ==== Sys2Proof/Laws/Issue.lean ====
section
/-!
SUPPORT. What the issue of a word does: said once for every meaning that goes through it.
-/
namespace Sys2Proof.Machine

/-! A word that is ready -/

/-- A ready word of the wanted kind has the effect that its meaning gives, or waits. -/
theorem issueW_ready {s : State} {p k : Nat} {q : QEntry} (h : Ready s p k q) {want : KWord → Bool} (hw : want q.word = true)
    (body : QEntry → Loc → Option Loc) :
    issueW s p k want body = .next (((body q (issuePos s p k)).map (closePos s p)).getD s) := by
  obtain ⟨hp, hk, hq, hm, hn⟩ := h
  rw [issueW, if_pos hk, if_pos hp]
  cases hs : (strmOf (spAt s p) k).queue with
  | nil => simp [hs] at hq
  | cons a as =>
    simp only [hs, List.head?_cons, Option.some.injEq] at hq
    subst hq
    simp only [hm, hn, hw, Option.isNone_none, Bool.and_self, if_true]

/-- The same for a word that never waits. -/
theorem issue_ready {s : State} {p k : Nat} {q : QEntry} (h : Ready s p k q) {want : KWord → Bool} (hw : want q.word = true)
    (body : QEntry → Loc → Loc) : issue s p k want body = .next (closePos s p (body q (issuePos s p k))) :=
  issueW_ready h hw _

/-- The same for a meaning that acts on the whole state. -/
theorem issueS_ready {s : State} {p k : Nat} {q : QEntry} (h : Ready s p k q) {want : KWord → Bool} (hw : want q.word = true)
    (body : QEntry → Loc → State) : issueS s p k want body = .next (body q (issuePos s p k)) := by
  obtain ⟨hp, hk, hq, hm, hn⟩ := h
  rw [issueS, if_pos hp]
  cases hs : (strmOf (spAt s p) k).queue with
  | nil => simp [hs] at hq
  | cons a as =>
    simp only [hs, List.head?_cons, Option.some.injEq] at hq
    subst hq
    simp only [hm, hn, hw, Option.isNone_none, Bool.and_self, if_true]

/-! All that an issue can do -/

/-- The head word of stream k may issue and is one that `want` selects. -/
def Heads (s : State) (p k : Nat) (want : KWord → Bool) (q : QEntry) : Prop :=
  (strmOf (spAt s p) k).queue.head? = some q ∧ mayIssue s p k = true ∧ q.marker = none ∧ want q.word = true

/-- An issue changes nothing, or has the effect that the meaning gives the head word. -/
theorem issueW_next {s t : State} {p k : Nat} {want : KWord → Bool} {body : QEntry → Loc → Option Loc} (h : issueW s p k want body = .next t) :
    t = s ∨ ∃ q l, Heads s p k want q ∧ body q (issuePos s p k) = some l ∧ t = closePos s p l := by
  unfold issueW at h
  split at h
  · split at h
    · split at h
      · next q _ hq =>
        rw [Host.Outcome.next.injEq] at h
        split at h
        · next hc =>
          simp only [Bool.and_eq_true, Option.isNone_iff_eq_none] at hc
          cases hb : body q (issuePos s p k) with
          | none => left; rw [← h, hb]; rfl
          | some l => right; exact ⟨q, l, ⟨by simp [hq], hc.1.1, hc.1.2, hc.2⟩, hb, by rw [← h, hb]; rfl⟩
        · exact .inl h.symm
      · rw [Host.Outcome.next.injEq] at h; exact .inl h.symm
    · cases h
  · cases h

theorem issue_next {s t : State} {p k : Nat} {want : KWord → Bool} {body : QEntry → Loc → Loc} (h : issue s p k want body = .next t) :
    t = s ∨ ∃ q, Heads s p k want q ∧ t = closePos s p (body q (issuePos s p k)) := by
  obtain h | ⟨q, l, hq, hb, ht⟩ := issueW_next h
  · exact .inl h
  · rw [Option.some.injEq] at hb
    exact .inr ⟨q, hq, by rw [ht, ← hb]⟩

theorem issueS_next {s t : State} {p k : Nat} {want : KWord → Bool} {body : QEntry → Loc → State} (h : issueS s p k want body = .next t) :
    t = s ∨ ∃ q, Heads s p k want q ∧ t = body q (issuePos s p k) := by
  unfold issueS at h
  split at h
  · split at h
    · next q _ hq =>
      split at h
      · next hc =>
        rw [Host.Outcome.next.injEq] at h
        simp only [Bool.and_eq_true, Option.isNone_iff_eq_none] at hc
        exact .inr ⟨q, ⟨by simp [hq], hc.1.1, hc.1.2, hc.2⟩, h.symm⟩
      · rw [Host.Outcome.next.injEq] at h; exact .inl h.symm
    · rw [Host.Outcome.next.injEq] at h; exact .inl h.symm
  · cases h

/-- A word of another kind, or none, at the head of the stream: the command changes nothing. -/
theorem issueW_other {s : State} {p k : Nat} (hp : p < 624) (hk : k < 6) {want : KWord → Bool} (body : QEntry → Loc → Option Loc)
    (h : ∀ q, ¬ Heads s p k want q) : issueW s p k want body = .next s := by
  rw [issueW, if_pos hk, if_pos hp]
  cases hq : (strmOf (spAt s p) k).queue with
  | nil => rfl
  | cons a as =>
    dsimp only
    rw [if_neg]
    intro hc
    simp only [Bool.and_eq_true, Option.isNone_iff_eq_none] at hc
    exact h a ⟨by simp [hq], hc.1.1, hc.1.2, hc.2⟩

theorem issue_other {s : State} {p k : Nat} (hp : p < 624) (hk : k < 6) {want : KWord → Bool} (body : QEntry → Loc → Loc)
    (h : ∀ q, ¬ Heads s p k want q) : issue s p k want body = .next s :=
  issueW_other hp hk _ h

/-! Waits that do not arise -/

/-- A drive whose step has nothing to do is over. -/
theorem drive_none {f : Loc → Option Loc} {l : Loc} (h : f l = none) : ∀ n, drive f n l = l
  | 0 => rfl
  | n + 1 => by rw [drive, h]

/-- Where what it waits for is there already, a word waits for nothing. -/
theorem pumpWhile_not {s : State} {p h : Nat} {c : Half → Bool} {l : Loc} (hc : c (halfOf l.sp h) = false) : pumpWhile s p h c l = l :=
  drive_none (by rw [hc]; rfl) _

/-- An operation of the flyer whose sources hold no poison does its work. -/
theorem flyRun_clean {l : Loc} {s : State} {p : Nat} {q : QEntry} {occ late : Nat} {rs : List (Nat × Nat)} {f : Loc → Loc}
    (h : Loc.clean l occ late rs = true) : l.flyRun s p q occ late rs f = l.flyDo occ late rs f := by
  unfold Loc.flyRun
  rw [Loc.clean, Option.isNone_iff_eq_none] at h
  rw [h]

end Sys2Proof.Machine
end

