-- ==== Sys2Proof/Laws/Memory.lean ====
section
/-!
SUPPORT. The laws of a byte memory: a read after a write, frames, and the canonical form.
-/
namespace Sys2Proof.Machine

theorem Memory.wf_tail {k : Nat} {c : Byte} {m : Mem} (h : Memory.wf ((k, c) :: m) = true) : Memory.wf m = true := by
  cases m with
  | nil => rfl
  | cons a m => simp only [Memory.wf, Bool.and_eq_true] at h; exact h.2

/-- An address below the first entry reads as an unlisted one. -/
theorem memGet_below {m : Mem} {k : Nat} {c : Byte} (h : Memory.wf ((k, c) :: m) = true) {x : Nat} (hx : x < k) :
    memGet ((k, c) :: m) x = 0#8 := by
  induction m generalizing k c with
  | nil => simp [memGet, Nat.ne_of_lt hx]
  | cons a m ih =>
    simp only [Memory.wf, Bool.and_eq_true, decide_eq_true_eq] at h
    rw [memGet, if_neg (Nat.ne_of_lt hx)]
    exact ih h.2 (by omega)

/-- The address of an entry reads as an unlisted one in the entries behind it. -/
theorem memGet_tail {m : Mem} {k : Nat} {c : Byte} (h : Memory.wf ((k, c) :: m) = true) {x : Nat} (hx : x ≤ k) : memGet m x = 0#8 := by
  cases m with
  | nil => rfl
  | cons a m =>
    simp only [Memory.wf, Bool.and_eq_true, decide_eq_true_eq] at h
    exact memGet_below h.2 (by omega)

/-- A read after a put: the byte put, or the byte that was there. -/
theorem memGet_memPut (m : Mem) (a x : Nat) (b : Byte) (h : Memory.wf m = true) :
    memGet (memPut m a b) x = if x = a then b else memGet m x := by
  induction m with
  | nil => by_cases hb : b = 0#8 <;> simp [memPut, memGet, hb]
  | cons kc m ih =>
    obtain ⟨k, c⟩ := kc
    have ih := ih (Memory.wf_tail h)
    simp only [memPut]
    split
    · split
      · next hb => split
                   · next hx => rw [memGet_below h (by omega), hb]
                   · rfl
      · rw [memGet]
    · split
      · next ha => split
                   · next hb => split
                                · next hx => rw [memGet_tail h (by omega), hb]
                                · next hx => rw [memGet, if_neg (by omega)]
                   · rw [memGet]; split
                     · rfl
                     · rw [memGet, if_neg (by omega)]
      · simp only [memGet, ih]
        split
        · rw [if_neg (by omega)]
        · rfl

/-- Putting at an address above the first keeps the first entry. -/
theorem Memory.wf_cons {k : Nat} {c : Byte} {m : Mem} :
    Memory.wf ((k, c) :: m) = true ↔ c ≠ 0#8 ∧ Memory.wf m = true ∧ ∀ k' c' m', m = (k', c') :: m' → k < k' := by
  cases m with
  | nil => simp [Memory.wf]
  | cons a m =>
    obtain ⟨k', c'⟩ := a
    simp only [Memory.wf, Bool.and_eq_true, decide_eq_true_eq, bne_iff_ne, List.cons.injEq, Prod.mk.injEq]
    constructor
    · rintro ⟨⟨h1, h2⟩, h3⟩; exact ⟨h1, h3, by rintro k'' c'' m'' ⟨⟨rfl, rfl⟩, rfl⟩; exact h2⟩
    · rintro ⟨h1, h2, h3⟩; exact ⟨⟨h1, h3 _ _ _ ⟨⟨rfl, rfl⟩, rfl⟩⟩, h2⟩

/-- A put keeps the canonical form, and puts nothing below an address below both. -/
theorem Memory.wf_memPut_lt (m : Mem) (a : Nat) (b : Byte) (h : Memory.wf m = true) :
    Memory.wf (memPut m a b) = true ∧
      ∀ n, n < a → (∀ k c m', m = (k, c) :: m' → n < k) → ∀ k c m', memPut m a b = (k, c) :: m' → n < k := by
  induction m with
  | nil => by_cases hb : b = 0#8 <;> simp [memPut, hb, Memory.wf]; grind
  | cons kc m ih =>
    obtain ⟨k, c⟩ := kc
    have hw := Memory.wf_cons.mp h
    have ih := ih hw.2.1
    simp only [memPut]
    split
    · split
      · exact ⟨h, fun n _ hn => hn⟩
      · next hb =>
        refine ⟨Memory.wf_cons.mpr ⟨hb, h, ?_⟩, ?_⟩ <;> grind
    · split
      · split
        · refine ⟨hw.2.1, ?_⟩
          intro n hn hk k' c' m' hm
          have := hw.2.2 _ _ _ hm
          grind
        · next hb => exact ⟨Memory.wf_cons.mpr ⟨hb, hw.2.1, by grind⟩, by grind⟩
      · exact ⟨Memory.wf_cons.mpr ⟨hw.1, ih.1, ih.2 k (by omega) hw.2.2⟩, by grind⟩

/-- A put keeps the canonical form. -/
theorem Memory.wf_memPut {m : Mem} (h : Memory.wf m = true) (a : Nat) (b : Byte) : Memory.wf (memPut m a b) = true :=
  (Memory.wf_memPut_lt m a b h).1

/-- A write of bytes keeps the canonical form. -/
theorem Memory.wf_memWrite {m : Mem} (h : Memory.wf m = true) (a : Nat) (bs : List Byte) : Memory.wf (memWrite m a bs) = true := by
  induction bs generalizing m a with
  | nil => exact h
  | cons b bs ih => exact ih (Memory.wf_memPut h a b) (a + 1)

/-- A byte read after a write of bytes: the byte written there, or the byte that was there. -/
theorem memGet_memWrite {m : Mem} (h : Memory.wf m = true) (a : Nat) (bs : List Byte) (x : Nat) :
    memGet (memWrite m a bs) x = if a ≤ x ∧ x < a + bs.length then bs.getD (x - a) 0#8 else memGet m x := by
  induction bs generalizing m a with
  | nil => rw [if_neg (by simp only [List.length_nil]; omega)]; rfl
  | cons b bs ih =>
    rw [memWrite, ih (Memory.wf_memPut h a b), memGet_memPut m a x b h]
    simp only [List.length_cons]
    by_cases hx : x = a
    · subst hx
      rw [if_neg (by omega), if_pos rfl, if_pos (by omega), Nat.sub_self]; rfl
    · by_cases h1 : a + 1 ≤ x ∧ x < a + 1 + bs.length
      · rw [if_pos h1, if_pos (by omega)]
        obtain ⟨n, hn⟩ : ∃ n, x - a = n + 1 := ⟨x - a - 1, by omega⟩
        rw [hn, show x - (a + 1) = n by omega]; rfl
      · rw [if_neg h1, if_neg hx, if_neg (by omega)]

/-- A byte outside the written range is as before. -/
theorem memGet_memWrite_outside {m : Mem} (h : Memory.wf m = true) (a : Nat) (bs : List Byte) (x : Nat) (hx : x < a ∨ a + bs.length ≤ x) :
    memGet (memWrite m a bs) x = memGet m x := by
  rw [memGet_memWrite h, if_neg (by omega)]

theorem memRead_length (m : Mem) (a n : Nat) : (memRead m a n).length = n := by
  induction n generalizing a with
  | zero => rfl
  | succ n ih => simp [memRead, ih]

/-- Byte i of a read. -/
theorem memRead_getElem? (m : Mem) (a n i : Nat) : (memRead m a n)[i]? = if i < n then some (memGet m (a + i)) else none := by
  induction n generalizing a i with
  | zero => simp [memRead]
  | succ n ih =>
    cases i with
    | zero => simp [memRead]
    | succ i => simp only [memRead, List.getElem?_cons_succ, ih]; simp [Nat.add_assoc, Nat.add_comm 1 i]

/-- A read after a write of as many bytes gives the bytes. -/
theorem memRead_memWrite {m : Mem} (h : Memory.wf m = true) (a : Nat) (bs : List Byte) : memRead (memWrite m a bs) a bs.length = bs := by
  refine List.ext_getElem? fun i => ?_
  rw [memRead_getElem?]
  split
  · next hi => rw [memGet_memWrite h, if_pos (by omega)]; simp [hi]
  · next hi => rw [List.getElem?_eq_none (by omega)]

end Sys2Proof.Machine
end

