-- ==== Sys2Proof/Tests/Slice0.lean ====
section
/-!
SUPPORT. Tests of the model: for each statement with hypotheses a witness that meets those of each of its clauses, the checks of WellFormed,
and the decoder of table words.
-/
namespace Sys2Proof.Tests

open Sys2Proof.Machine

set_option Elab.async false
set_option linter.unusedVariables false

/-! States and words for the witnesses -/

/-- Job 0 runs on logical spindle 0, which stands at position 0; the device serves, with its link up. -/
def tB : State :=
  { State.reset with
    bell := { BellGen.reset with fired := true, count := 5 }
    regs := { State.reset.regs with eff := [(0x32040, 1)] }
    jobs := { Job.reset with state := 2 } :: List.replicate 7 Job.reset
    power := { State.reset.power with step := 14, reset := false }
    pins := { State.reset.pins with trstHigh := true }
    hif := { State.reset.hif with link := true, perst := false } }

/-- That state with another spindle at position 0. -/
def tAt (f : Spindle → Spindle) : State := modSp tB 0 f

/-- A word of class c with fields given as (value, lowest bit). -/
def tW (c : Nat) (fs : List (Nat × Nat)) : KWord := BitVec.ofNat 128 (fs.foldl (fun w f => w + put f.1 f.2) (put c 122))

/-- The entry of a word at the head of a stream. -/
def tE (w : KWord) : QEntry := { woff := 0, word := w, marker := none }

/-- Stream k is enabled and holds w. -/
def tQ (k : Nat) (w : KWord) (sp : Spindle) : Spindle :=
  { sp with streams := modAt sp.streams k fun x => { x with en := true, len := 8, queue := [tE w] } }

/-- Job 0 runs and w stands at the head of stream k of position 0. -/
def tI (k : Nat) (w : KWord) : State := tAt (tQ k w)

/-- The distaff holds v, little-endian in n bytes, at a. -/
def tM (a n v : Nat) (sp : Spindle) : Spindle := { sp with distaff := { sp.distaff with mem := memWrite sp.distaff.mem a (leBytes n v) } }

/-- The same, and the distaff holds a record or header of 64 bytes. -/
def tR (k : Nat) (w : KWord) (a v : Nat) : State := tAt fun sp => tQ k w (tM a 64 v sp)

/-- Fields of a record or header, as (value, lowest bit). -/
def tF (fs : List (Nat × Nat)) : Nat := fs.foldl (fun w f => w + put f.1 f.2) 0

/-- Half 0 of the whorl of a spindle. -/
def tH (h : Half) (sp : Spindle) : Spindle := { sp with whorl := { sp.whorl with halves := modAt sp.whorl.halves 0 fun _ => h } }

/-- An access. -/
def tAcc : Access :=
  { kind := .getLine, src := 0, via := none, tag := 0, inst := 0, woff := 0, addr := 0x1000, len := 8, local_ := 0x2000, data := [], poison := [],
    fmt := 0, elem := 0, vals := [], wide := [], blen := 0, oslot := 0, tscale := one32, cfe := none, final := false, loft := false, lat := 0, at_ := 0 }

/-- A CFE of operation op. -/
def tCfe (op : Nat) : Access := { tAcc with kind := .cfe, cfe := some ⟨op, true, 1, 9, 0⟩ }

/-- A reply to an access of position 0. -/
def tRep (a : Access) : Reply := { dst := 0, at_ := 4, near := true, acc := a, data := leBytes 8 5, poison := [], timeout := false, ack := true }

/-- An HBM line access. -/
def tHb : HbmAcc := { pos := 0, job := 0, acc := tAcc, write := false, off := 0, data := [], poison := false, errs := 0, at_ := 0 }

/-- A side of a channel, bound to position 0. -/
def tSide : ChanSide := { spd := 0, entries := 4, lines := 1, ring := 0x4000, linked := true, credits := 1, tail := 0, sent := 0 }

/-- Port 0 is up and belongs to job 0; w stands at the head of stream 4 of position 0. -/
def tU (w : KWord) (f : Port → Port) : State :=
  { tI 4 w with
    ports := modAt tB.ports 0 fun x => f { x with state := 2 }
    jobs := { Job.reset with state := 2, ports := 1 } :: List.replicate 7 Job.reset }

/-- A transfer of position 0. -/
def tX (late : Bool) : Xfer := ⟨0, 0, 0, false, false, 0, 1, 0x1000, 0x40, 3, late⟩

/-- Transfers in flight. -/
def tXs (l : List Xfer) : State := { tB with hif := { tB.hif with xfers := l } }

/-- An entry of the hank. -/
def tHe : HankEntry := ⟨0, 5, 1, 0, none⟩

/-- A hank at position 0, and w at the head of stream 4. -/
def tK (w : KWord) (f : Hank → Hank) : State :=
  tAt fun sp => tQ 4 w { sp with hank := f { Hank.reset with record := { HankRec.reset with base := 0x4000, size := 0x400, cellar := hbmBase, csize := 0x4000, lpf := 8 } } }

/-- The reeler of position 0. -/
def tL (f : Reeler → Reeler) : State := tAt fun sp => { sp with reeler := f sp.reeler }

/-- A transaction of a partner. -/
def tT : Trans :=
  { final := false, fmt := 0, blen := 0, oslot := 0, count := 1, flag := false, aux := 0, addr := 0x1000, src := 0, tag := 0, elem := 0, span := 1, lat := 0,
    payload := [7#8] }

/-- A frame of a partner. -/
def tG : Frame :=
  { decodes := true, seq := 1, paceN := 0, paceLag := 0, paceThr := false, err := false, down := false, mreq := false, mapseq := 0, mapsp := 31, mapw := 0, types := [1],
    corrected := [] }

/-- Job 0 runs, with these registers staged into effect beside its set. -/
def tEff (eff : List (Nat × Nat)) : State := { tB with regs := { tB.regs with eff := eff ++ tB.regs.eff } }

/-- The first descriptor of ring 0 that may start: operation op of job 0 with more fields. -/
def tD (op : Nat) (fs : List (Nat × Nat)) : Desc :=
  { ring := 0, idx := 0, word := tF ((op, 0) :: fs), record := [], accepted := some (3, 0), started := false, result := none, done := false,
    energy := [], job := 0, held := false }

/-- The device holds a descriptor. -/
def tDs (d : Desc) (s : State) : State := { s with hif := { s.hif with descs := [d] } }

/-- Job 0 is idle and its completion ring is enabled. -/
def tIdle : State := { tEff [(0x32008, 25)] with jobs := List.replicate 8 Job.reset }

/-- A power-up that meets no failure. -/
def tPu : PowerUp :=
  { vinOk := true, edgeFail := [], pllFail := none, pufOk := true, readFail := [], writeFail := [], phaseFail := [], sramFail := [], xing := [],
    ageing := [], hbmFail := [], strap := 0, slept := 0, rc := 0, inlet := 200, outlet := 240 }

/-- A change of the power state of position 0. -/
def tPw (f : PosPower → PosPower) : State := modPw tB 0 f

/-- The belfry serves the endpoint. -/
def tBel : State := { tB with keep := { tB.keep with stage := 7 } }

/-- Operation n of the keep is at work. -/
def tOp (n : Nat) : State := { tB with keep := { tB.keep with opState := 1, op := n } }

/-- A thermal site. -/
def tSite (n : Nat) (x : Site) : State := { tB with thermal := { tB.thermal with sites := modAt tB.thermal.sites n fun _ => x } }

/-- The power state after a sleep or at a step. -/
def tPower (step sleep : Nat) (s : State) : State := { s with power := { s.power with step := step, sleep := sleep } }

/-- A mirror record whose first range covers the distaff. -/
def tMir : List Byte := leBytes 64 (tF [(0x10000000000, 0), (distSize, 96)])

/-- A refill of logical spindle 0 of job 0 runs, with that mirror record. -/
def tRefill : State :=
  { tB with
    repair := { tB.repair with queue := [(0, 0)], active := true }
    jobs := [{ Job.reset with state := 2, ckptArea := 0x10002000000, mirrors := [(0, tMir)] }] }

theorem tIdle_unfinished : anyUnfinished tIdle = false := by
  have hj (j : Nat) : (jobOf tIdle j).state = 0 := by
    unfold jobOf tIdle
    simp only [List.getD_eq_getElem?_getD, List.getElem?_replicate]
    split <;> rfl
  have hu (p k : Nat) : unfinished tIdle p k = false := by
    unfold unfinished
    cases jobAt tIdle p <;> simp [hj]
  simp [anyUnfinished, hu]

/-- The same device, in a light sleep that a wake cause is about to end. -/
def tWake : State := { tIdle with power := { tIdle.power with sleep := 1, wakeDue := true } }

theorem tWake_unfinished : anyUnfinished tWake = false := by
  have hj (j : Nat) : (jobOf tWake j).state = 0 := by
    unfold jobOf tWake tIdle
    simp only [List.getD_eq_getElem?_getD, List.getElem?_replicate]
    split <;> rfl
  have hu (p k : Nat) : unfinished tWake p k = false := by
    unfold unfinished
    cases jobAt tWake p <;> simp [hj]
  simp [anyUnfinished, hu]

/-! The witnesses -/

/-- The premises of `EmptyQueueIdles` can be met. -/
theorem witness_EmptyQueueIdles :
    (∃ (s : State), s.pending = []) := by
  refine ⟨tB, ?_⟩
  all_goals first | decide +kernel

/-- The premises of `StepKeepsMemory` can be met. -/
theorem witness_StepKeepsMemory :
    (∃ (s t : State), MemOk s ∧ step s = .next t) := by
  refine ⟨(tI 0 (tW 0 [(5, 32)])), _, ?_, rfl⟩
  all_goals first | decide +kernel | (unfold MemOk; decide +kernel)

/-- The premises of `StepKeepsControl` can be met. -/
theorem witness_StepKeepsControl :
    (∃ (s t : State), ControlOk s ∧ step s = .next t) := by
  refine ⟨(tI 0 (tW 0 [(5, 32)])), _, ?_, rfl⟩
  all_goals first | decide +kernel | (unfold ControlOk; decide +kernel)

/-- The premises of `LocalCommandsStayConfined` can be met. -/
theorem witness_LocalCommandsStayConfined :
    (∃ (c : Instr) (p : Nat) (s t : State), localPos c = some p ∧ exec c s = .next t) := by
  refine ⟨(.dly 0 0), 0, (tI 0 (tW 0 [(5, 32)])), _, ?_, rfl⟩
  all_goals first | decide +kernel

/-- The premises of `StorelessCommandsKeepTheDistaff` can be met. -/
theorem witness_StorelessCommandsKeepTheDistaff :
    (∃ (c : Instr) (p : Nat) (s t : State) (a : Nat), MemOk s ∧ storelessPos c = some p ∧ exec c s = .next t) := by
  refine ⟨(.dly 0 0), 0, (tI 0 (tW 0 [(5, 32)])), _, 0, ?_, ?_, rfl⟩
  all_goals first | decide +kernel | (unfold MemOk; decide +kernel)

/-- The premises of `MemoryReadsWhatWasWritten` can be met. -/
theorem witness_MemoryReadsWhatWasWritten :
    (∃ (m : Mem) (a : Nat) (bs : List Byte), Memory.wf m = true) ∧
    (∃ (m m' : Mem), Memory.wf m = true ∧ Memory.wf m' = true ∧ (∀ a, memGet m a = memGet m' a)) := by
  refine ⟨⟨[(5, 1#8)], 4, [0#8, 7#8], ?_⟩,
    ⟨[(5, 1#8)], [(5, 1#8)], ?_, ?_, fun _ => rfl⟩⟩
  all_goals first | decide +kernel

/-- The premises of `TreadleCompletes` can be met. -/
theorem witness_TreadleCompletes :
    (∃ (s : State) (p k t : Nat) (q : QEntry) (l : Loc), Ready s p k q ∧ isCls 0 q.word = true ∧ reservedClear q.word [(127, 122), (63, 32)] = true ∧
      fld q.word 63 32 ≠ 0 ∧ t = issueAt (issuePos s p k) k ∧ l = pumped s p k t (issuePos s p k) ∧ (strmOf l.sp k).dead = false) ∧
    (∃ (s : State) (p k : Nat) (q : QEntry) (l : Loc), Ready s p k q ∧ isCls 3 q.word = true ∧ l = pumpAll s p k (openPos s p) ∧
      reservedClear q.word [(127, 122), (7, 0)] = true ∧ engineIdle l.sp k = true ∧ (strmOf l.sp k).dead = false ∧
      clockKnown s p (fenceAt l k) = true) ∧
    (∃ (s : State) (p k : Nat) (q : QEntry) (l : Loc), Ready s p k q ∧ isCls 6 q.word = true ∧ l = pumpAll s p k (openPos s p) ∧
      reservedClear q.word [(127, 122), (7, 0)] = true ∧ engineIdle l.sp k = true ∧ (strmOf l.sp k).dead = false ∧
      clockKnown s p (fenceAt l k) = true) ∧
    (∃ (s : State) (p k code : Nat) (q : QEntry), p < 624 ∧ k < 6 ∧ (strmOf (spAt s p) k).queue.head? = some q ∧ mayIssue s p k = true ∧
      (q.marker <|> illegalHead (spAt s p).whorl.split k q.word) = some code) ∧
    (∃ (s : State) (p k : Nat), p < 624 ∧ chooseStream s p (spAt s p) = some k ∧ (strmOf (spAt s p) k).next < (strmOf (spAt s p) k).len) ∧
    (∃ (s : State) (p k : Nat) (f : Fetch) (fs : List Fetch), p < 624 ∧ k < 6 ∧ (strmOf (spAt s p) k).flights = f :: fs ∧
      (strmOf (spAt s p) k).ctrl = [] ∧ f.poison = none) := by
  refine ⟨⟨(tI 0 (tW 0 [(5, 32)])), 0, 0, _, (tE (tW 0 [(5, 32)])), _, ?_, ?_, ?_, ?_, rfl, rfl, ?_⟩,
    ⟨(tI 0 (tW 3 [])), 0, 0, (tE (tW 3 [])), _, ?_, ?_, rfl, ?_, ?_, ?_, ?_⟩,
    ⟨(tI 5 (tW 6 [(255, 0)])), 0, 5, (tE (tW 6 [(255, 0)])), _, ?_, ?_, rfl, ?_, ?_, ?_, ?_⟩,
    ⟨(tI 0 (tW 63 [])), 0, 0, 0xA20, (tE (tW 63 [])), ?_, ?_, ?_, ?_, ?_⟩,
    ⟨(tI 0 (tW 0 [])), 0, 0, ?_, ?_, ?_⟩,
    ⟨(tAt fun sp => { sp with streams := modAt sp.streams 2 fun x => { x with flights := [⟨0, 5, [tW 0 []], none⟩] } }), 0, 2, ⟨0, 5, [tW 0 []],
      none⟩, [], ?_, ?_, ?_, ?_, ?_⟩⟩
  all_goals first | decide +kernel | (unfold Ready; decide +kernel)

/-- The premises of `JumpsRedirect` can be met. -/
theorem witness_JumpsRedirect :
    (∃ (s : State) (p k : Nat) (q : QEntry) (rest : List QEntry), p < 624 ∧ k < 6 ∧ treadleFetches s p k = true ∧
      (strmOf (spAt s p) k).ctrl = q :: rest ∧ clsOf q.word = 1 ∧ reservedClear q.word [(127, 122), (95, 64)] = true ∧
      targetIn (strmOf (spAt s p) k) q = true) ∧
    (∃ (s : State) (p k c v : Nat) (armed : Bool) (q : QEntry) (rest : List QEntry), p < 624 ∧ k < 6 ∧ treadleFetches s p k = true ∧
      (strmOf (spAt s p) k).ctrl = q :: rest ∧ clsOf q.word = 2 ∧ reservedClear q.word [(127, 122), (121, 119), (95, 64), (63, 40)] = true ∧
      fld q.word 63 40 = c ∧ c ≠ 0 ∧ targetIn (strmOf (spAt s p) k) q = true ∧ (strmOf (spAt s p) k).loops[fld q.word 121 119]? = some ⟨v, armed⟩) := by
  refine ⟨⟨(tAt fun sp => { sp with streams := modAt sp.streams 1 fun x => { x with len := 8, ctrl := [tE (tW 1 [(7, 64)])] } }), 0, 1, (tE (tW 1 [(7,
      64)])), [], ?_, ?_, ?_, ?_, ?_, ?_, ?_⟩,
    ⟨(tAt fun sp => { sp with streams := modAt sp.streams 1 fun x => { x with len := 8, ctrl := [tE (tW 2 [(1, 64), (3, 40)])] } }), 0, 1, 3, 0,
      false, (tE (tW 2 [(1, 64), (3, 40)])), [], ?_, ?_, ?_, ?_, ?_, ?_, ?_, ?_, ?_, ?_⟩⟩
  all_goals first | decide +kernel

/-- The premises of `SemaphoresComplete` can be met. -/
theorem witness_SemaphoresComplete :
    (∃ (s : State) (p k t : Nat) (q : QEntry) (l : Loc), Ready s p k q ∧ isCls 4 q.word = true ∧ swaitBad q.word = false ∧
      t = issueAt (issuePos s p k) k ∧ ((issuePos s p k).sp.sigs.any fun g => g.sem == semF q.word && decide (g.at_ ≤ t)) = false ∧
      lowerWait s p k (semF q.word) t (issuePos s p k) = false ∧ l = pumped s p k t (issuePos s p k) ∧ (strmOf l.sp k).dead = false ∧
      semCount q.word ≤ semOf l.sp (semF q.word)) ∧
    (∃ (s : State) (p k t : Nat) (q : QEntry) (l : Loc), Ready s p k q ∧ isCls 4 q.word = true ∧ swaitBad q.word = false ∧
      t = issueAt (issuePos s p k) k ∧ ((issuePos s p k).sp.sigs.any fun g => g.sem == semF q.word && decide (g.at_ ≤ t)) = false ∧
      lowerWait s p k (semF q.word) t (issuePos s p k) = false ∧ l = pumped s p k t (issuePos s p k) ∧ (strmOf l.sp k).dead = false ∧
      semOf l.sp (semF q.word) < semCount q.word ∧ semMode q.word = 2) ∧
    (∃ (s : State) (p k t : Nat) (q : QEntry) (l : Loc), Ready s p k q ∧ isCls 4 q.word = true ∧ swaitBad q.word = false ∧
      t = issueAt (issuePos s p k) k ∧ ((issuePos s p k).sp.sigs.any fun g => g.sem == semF q.word && decide (g.at_ ≤ t)) = false ∧
      lowerWait s p k (semF q.word) t (issuePos s p k) = false ∧ l = pumped s p k t (issuePos s p k) ∧ (strmOf l.sp k).dead = false ∧
      semOf l.sp (semF q.word) < semCount q.word ∧ semMode q.word ≠ 2) ∧
    (∃ (s : State) (p k t0 t : Nat) (q : QEntry) (l : Loc), p < 624 ∧ k < 6 ∧ (strmOf (spAt s p) k).waitSince = some t0 ∧
      (strmOf (spAt s p) k).queue.head? = some q ∧ isCls 4 q.word = true ∧ treadleRuns s p k = true ∧ t = t0 + fld q.word 63 32 ∧
      (∀ g ∈ (spAt s p).sigs, g.sem = semF q.word → t < g.at_) ∧ l = pumped s p k t (openPos s p) ∧ (strmOf l.sp k).dead = false) ∧
    (∃ (s : State) (p k : Nat) (q : QEntry) (l : Loc), Ready s p k q ∧ isCls 5 q.word = true ∧ ssigBad q.word = false ∧
      l = pumpAll s p k (issuePos s p k) ∧ (strmOf l.sp k).dead = false ∧ engineIdle l.sp k = true ∧ ssigFree s p k (semScope q.word) l = true) ∧
    (∃ (s : State) (p : Nat) (g : Sig) (rest : List Sig), p < 624 ∧ live s p = true ∧
      pluckMin (fun _ => true) (fun g => 8 * g.at_ + g.stream) (spAt s p).sigs = some (g, rest)) ∧
    (∃ (s : State) (p : Nat) (g : Sig) (rest : List Sig), p < 624 ∧ live s p = true ∧
      pluckMin (fun _ => true) (fun g => 8 * g.at_ + g.stream) (spAt s p).sigs = some (g, rest) ∧ 65535 < semOf (spAt s p) g.sem + g.count) := by
  refine ⟨⟨(tAt fun sp => tQ 0 (tW 4 [(1, 97), (9, 32)]) { sp with sems := modAt sp.sems 0 fun _ => 1 }), 0, 0, _, (tE (tW 4 [(1, 97), (9, 32)])), _, ?_,
      ?_, ?_, rfl, ?_, ?_, rfl, ?_, ?_⟩,
    ⟨(tI 0 (tW 4 [(2, 116), (1, 97), (9, 32)])), 0, 0, _, (tE (tW 4 [(2, 116), (1, 97), (9, 32)])), _, ?_, ?_, ?_, rfl, ?_, ?_, rfl, ?_, ?_, ?_⟩,
    ⟨(tI 0 (tW 4 [(1, 97), (9, 32)])), 0, 0, _, (tE (tW 4 [(1, 97), (9, 32)])), _, ?_, ?_, ?_, rfl, ?_, ?_, rfl, ?_, ?_, ?_⟩,
    ⟨(tAt fun sp => let x := tQ 0 (tW 4 [(1, 97), (9, 32)]) sp; { x with streams := modAt x.streams 0 fun y => { y with waitSince := some 3 } }), 0,
      0, 3, _, (tE (tW 4 [(1, 97), (9, 32)])), _, ?_, ?_, ?_, ?_, ?_, ?_, rfl, ?_, rfl, ?_⟩,
    ⟨(tI 4 (tW 5 [(1, 97)])), 0, 4, (tE (tW 5 [(1, 97)])), _, ?_, ?_, ?_, rfl, ?_, ?_, ?_⟩,
    ⟨(tAt fun sp => { sp with sigs := [⟨2, 0, 1, 0, 0⟩], sems := modAt sp.sems 0 fun _ => 65534 }), 0, ⟨2, 0, 1, 0, 0⟩, [], ?_, ?_, ?_⟩,
    ⟨(tAt fun sp => { sp with sigs := [⟨2, 0, 1, 0, 0⟩], sems := modAt sp.sems 0 fun _ => 65535 }), 0, ⟨2, 0, 1, 0, 0⟩, [], ?_, ?_, ?_, ?_⟩⟩
  all_goals first | decide +kernel | (unfold Ready; decide +kernel)

/-- The premises of `SignalAddsItsCount` can be met. -/
theorem witness_SignalAddsItsCount :
    (∃ (s : State) (p : Nat) (g : Sig) (rest : List Sig), p < 624 ∧ live s p = true ∧
      pluckMin (fun _ => true) (fun g => 8 * g.at_ + g.stream) (spAt s p).sigs = some (g, rest) ∧ g.sem < (spAt s p).sems.length ∧
      semOf (spAt s p) g.sem + g.count ≤ 65535 ∧ (∀ k, k < 6 → ∀ q,
      (strmOf (spAt s p) k).queue.head? = some q → semF q.word = g.sem → isCls 4 q.word = false)) := by
  refine ⟨(tAt fun sp => { sp with sigs := [⟨2, 0, 1, 0, 0⟩] }), 0, ⟨2, 0, 1, 0, 0⟩, [], ?_, ?_, ?_, ?_, ?_,
      fun k hk q h => absurd (((by decide +kernel : ∀ k < 6,
      (strmOf (spAt (tAt fun sp => { sp with sigs := [⟨2, 0, 1, 0, 0⟩] }) 0) k).queue.head? = none) k hk).symm.trans h) (by simp)⟩
  all_goals first | decide +kernel

/-- The premises of `WhorlIssueCompletes` can be met. -/
theorem witness_WhorlIssueCompletes :
    (∃ (s : State) (p k : Nat) (q : QEntry) (l0 l : Loc), Ready s p k q ∧ isCls 0x08 q.word = true ∧ inWhorl s p k = true ∧
      mloadBad (issuePos s p k) k q.word = false ∧ l0 = pumpWhile s p k (mloadWaits q.word) (issuePos s p k) ∧
      mloadWaits q.word (halfOf l0.sp k) = false ∧ l = pumpTo s p k (mloadAt l0 k q.word) l0 ∧ (strmOf l.sp k).dead = false ∧
      mloadWaits q.word (halfOf l.sp k) = false) ∧
    (∃ (s : State) (p k t row : Nat) (q : QEntry) (l : Loc), Ready s p k q ∧ isCls 0x09 q.word = true ∧ inWhorl s p k = true ∧
      mstreamBad q.word = false ∧ l = planeReady s p k q.word (pathReady s p k (issuePos s p k)) ∧ (strmOf l.sp k).dead = false ∧
      (halfOf l.sp k).strm = none ∧ mstreamAt l k q.word = some (t, row)) ∧
    (∃ (s : State) (p k t row : Nat) (q : QEntry) (l0 l : Loc), Ready s p k q ∧ isCls 0x0A q.word = true ∧ inWhorl s p k = true ∧
      mshapeBad (issuePos s p k) k q.word = false ∧ l0 = pathReady s p k (issuePos s p k) ∧ (strmOf l0.sp k).dead = false ∧
      (halfOf l0.sp k).strm = none ∧ mshapeAt l0 k q.word = some (t, row) ∧ l = pumped s p k t l0 ∧ (strmOf l.sp k).dead = false) ∧
    (∃ (s : State) (p t : Nat) (q : QEntry) (l : Loc), Ready s p 0 q ∧ isCls 0x0B q.word = true ∧ reservedClear q.word [(127, 121)] = true ∧
      l = msplitPump s p (bitOf q.word 121) (issuePos s p 0) ∧ (strmOf l.sp 0).dead = false ∧ msplitFree (bitOf q.word 121) l = true ∧
      t = msplitAt l (bitOf q.word 121)) := by
  refine ⟨⟨(tI 0 (tW 8 [(1, 118), (16, 80), (16, 64)])), 0, 0, (tE (tW 8 [(1, 118), (16, 80), (16, 64)])), _, _, ?_, ?_, ?_, ?_, rfl, ?_, rfl, ?_, ?_⟩,
    ⟨(tAt fun sp => tQ 0 (tW 9 [(1, 118), (4,
      80)]) (tH { Half.reset with planes := [{ Plane.reset with valid := true, fmt := 1, kr := 16, nc := 16 }] } sp)), 0, 0, 0, 0, (tE (tW 9 [(1,
      118), (4, 80)])), _, ?_, ?_, ?_, ?_, rfl, ?_, ?_, ?_⟩,
    ⟨(tI 0 (tW 10 [(1, 118), (1, 114), (16, 80)])), 0, 0, 0, 0, (tE (tW 10 [(1, 118), (1, 114), (16, 80)])), _, _, ?_, ?_, ?_, ?_, rfl, ?_, ?_, ?_,
      rfl, ?_⟩,
    ⟨(tI 0 (tW 11 [(1, 121)])), 0, _, (tE (tW 11 [(1, 121)])), _, ?_, ?_, ?_, rfl, ?_, ?_, rfl⟩⟩
  all_goals first | decide +kernel | (unfold Ready; decide +kernel)

/-- The premises of `SplitSetsTheMode` can be met. -/
theorem witness_SplitSetsTheMode :
    (∃ (s : State) (p : Nat) (q : QEntry), Ready s p 0 q ∧ isCls 0x0B q.word = true ∧ reservedClear q.word [(127, 121)] = true ∧
      engineIdle (spAt s p) 0 = true ∧ engineIdle (spAt s p) 1 = true) := by
  refine ⟨(tI 0 (tW 11 [(1, 121)])), 0, (tE (tW 11 [(1, 121)])), ?_, ?_, ?_, ?_, ?_⟩
  all_goals first | decide +kernel | (unfold Ready; decide +kernel)

/-- The premises of `BobbinCompletes` can be met. -/
theorem witness_BobbinCompletes :
    (∃ (s : State) (p k : Nat) (q : QEntry) (l : Loc), Ready s p k q ∧ isOp 0x0C 121 119 0 q.word = true ∧ inWhorl s p k = true ∧
      setupBad (spAt s p).whorl.split q.word = false ∧ l = pumpAll s p k (issuePos s p k) ∧ (strmOf l.sp k).dead = false ∧ engineIdle l.sp k = true) ∧
    (∃ (s : State) (p k t : Nat) (q : QEntry) (l m : Loc), Ready s p k q ∧ isOp 0x0C 121 119 1 q.word = true ∧ inWhorl s p k = true ∧
      l = issuePos s p k ∧ drainClear q.word = true ∧ bankFree (halfOf l.sp k) (1 - (halfOf l.sp k).layout.live) (issueAt l k) = some t ∧
      m = pumped s p k t l ∧ (strmOf m.sp k).dead = false) ∧
    (∃ (s : State) (p k t1 t2 : Nat) (q : QEntry) (l m : Loc), Ready s p k q ∧ isOp 0x0C 121 119 2 q.word = true ∧ inWhorl s p k = true ∧
      l = issuePos s p k ∧ drainBad l.sp.whorl.split 2 (halfOf l.sp k).layout q.word = false ∧
      (bobRow l.sp.whorl.split k (halfOf l.sp k).layout (fld q.word 73 64) (drainNr q.word)).isSome = true ∧
      pathFree (halfOf l.sp k) (issueAt l k) = some t1 ∧
      (if bitOf q.word 118 then bankFree (halfOf l.sp k) (1 - (halfOf l.sp k).layout.live) (issueAt l k) else some (issueAt l k)) = some t2 ∧
      m = pumped s p k (max t1 t2) l ∧ (strmOf m.sp k).dead = false) ∧
    (∃ (s : State) (p k t1 t2 : Nat) (q : QEntry) (l m : Loc), Ready s p k q ∧ isOp 0x0C 121 119 3 q.word = true ∧ inWhorl s p k = true ∧
      l = issuePos s p k ∧ drainBad l.sp.whorl.split 3 (halfOf l.sp k).layout q.word = false ∧
      (bobRow l.sp.whorl.split k (halfOf l.sp k).layout (fld q.word 73 64) (drainNr q.word)).isSome = true ∧
      pathFree (halfOf l.sp k) (issueAt l k) = some t1 ∧
      (if bitOf q.word 118 then bankFree (halfOf l.sp k) (1 - (halfOf l.sp k).layout.live) (issueAt l k) else some (issueAt l k)) = some t2 ∧
      m = pumped s p k (max t1 t2) l ∧ (strmOf m.sp k).dead = false) ∧
    (∃ (s : State) (p k t1 t2 : Nat) (q : QEntry) (l m : Loc), Ready s p k q ∧ isOp 0x0C 121 119 4 q.word = true ∧ inWhorl s p k = true ∧
      l = issuePos s p k ∧ drainBad l.sp.whorl.split 4 (halfOf l.sp k).layout q.word = false ∧
      (bobRow l.sp.whorl.split k (halfOf l.sp k).layout (fld q.word 73 64) (drainNr q.word)).isSome = true ∧
      pathFree (halfOf l.sp k) (issueAt l k) = some t1 ∧ t2 = issueAt l k ∧ m = pumped s p k (max t1 t2) l ∧ (strmOf m.sp k).dead = false) ∧
    (∃ (s : State) (p h : Nat) (d : DataOp), p < 624 ∧ h < 2 ∧ powered s p = true ∧ (halfOf (spAt s p) h).drain.find? (·.doneAt.isNone) = some d ∧
      (halfOf (spAt s p) h).handed.any (·.bank == d.bank) = false ∧ (∀ o, (halfOf (spAt s p) h).strm = some o → o.bank ≠ d.bank)) ∧
    (∃ (s : State) (p h : Nat) (g : Handed) (rest : List Handed), p < 624 ∧ h < 2 ∧ powered s p = true ∧
      pluckMin (fun _ => true) (·.at_) (halfOf (spAt s p) h).handed = some (g, rest)) := by
  refine ⟨⟨(tI 0 (tW 12 [(3, 109)])), 0, 0, (tE (tW 12 [(3, 109)])), _, ?_, ?_, ?_, ?_, rfl, ?_, ?_⟩,
    ⟨(tI 0 (tW 12 [(1, 119)])), 0, 0, 0, (tE (tW 12 [(1, 119)])), _, _, ?_, ?_, ?_, rfl, ?_, ?_, rfl, ?_⟩,
    ⟨(tI 0 (tW 12 [(2, 119), (4, 88), (1, 74), (16, 8)])), 0, 0, 0, 0, (tE (tW 12 [(2, 119), (4, 88), (1, 74), (16, 8)])), _, _, ?_, ?_, ?_, rfl, ?_,
      ?_, ?_, ?_, rfl, ?_⟩,
    ⟨(tI 0 (tW 12 [(3, 119), (4, 88), (1, 74), (64, 32)])), 0, 0, 0, 0, (tE (tW 12 [(3, 119), (4, 88), (1, 74), (64, 32)])), _, _, ?_, ?_, ?_, rfl,
      ?_, ?_, ?_, ?_, rfl, ?_⟩,
    ⟨(tI 0 (tW 12 [(4, 119), (4, 88), (1, 74), (64, 32)])), 0, 0, 0, _, (tE (tW 12 [(4, 119), (4, 88), (1, 74), (64, 32)])), _, _, ?_, ?_, ?_, rfl,
      ?_, ?_, ?_, rfl, rfl, ?_⟩,
    ⟨(tAt (tH { Half.reset with drain := [{ q := tE 0#128, issued := 0, bank := 0, layout := Layout.reset, doneAt := none }] })), 0, 0,
      { q := tE 0#128, issued := 0, bank := 0, layout := Layout.reset, doneAt := none }, ?_, ?_, ?_, ?_, ?_,
      fun o h => by cases (show (none : Option WOp) = some o from h)⟩,
    ⟨(tAt (tH { Half.reset with handed := [{ at_ := 2, bank := 0, row := 0, vals := [], frozen := [], begin_ := false, ltag := 0, pc := 0, issued := 0 }] })),
      0, 0, { at_ := 2, bank := 0, row := 0, vals := [], frozen := [], begin_ := false, ltag := 0, pc := 0, issued := 0 }, [], ?_, ?_, ?_, ?_⟩⟩
  all_goals first | decide +kernel | (unfold Ready; decide +kernel)

/-- The premises of `SetupClearsThePartition` can be met. -/
theorem witness_SetupClearsThePartition :
    (∃ (s : State) (p k : Nat) (q : QEntry), Ready s p k q ∧ isOp 0x0C 121 119 0 q.word = true ∧ inWhorl s p k = true ∧
      setupBad (spAt s p).whorl.split q.word = false ∧ engineIdle (spAt s p) k = true ∧ k < (spAt s p).whorl.halves.length) := by
  refine ⟨(tI 0 (tW 12 [(3, 109)])), 0, 0, (tE (tW 12 [(3, 109)])), ?_, ?_, ?_, ?_, ?_, ?_⟩
  all_goals first | decide +kernel | (unfold Ready; decide +kernel)

/-- The premises of `TwisterCompletes` can be met. -/
theorem witness_TwisterCompletes :
    (∃ (s : State) (p : Nat) (q : QEntry) (l : Loc), Ready s p 2 q ∧ isCls 0x10 q.word = true ∧ l = feedPumped s p (tPort q.word) (issuePos s p 2) ∧
      (strmOf l.sp 2).dead = false ∧ portDead l (tPort q.word) = false ∧ tfeedBad q.word = false ∧ chanRoom l (tPort q.word) = true ∧
      fld q.word 119 116 = 1 ∧ inDist (tPtr q.word) (2 * tfLast q.word) = true ∧ shadowBad l q.word = false) ∧
    (∃ (s : State) (p : Nat) (q : QEntry) (l : Loc) (l1 : Loc), Ready s p 2 q ∧ isCls 0x10 q.word = true ∧
      l = feedPumped s p (tPort q.word) (issuePos s p 2) ∧ (strmOf l.sp 2).dead = false ∧ portDead l (tPort q.word) = false ∧
      tfeedBad q.word = false ∧ chanRoom l (tPort q.word) = true ∧ fld q.word 119 116 ≠ 1 ∧ l1 = l.scrub (tPtr q.word) 64 ∧
      tfeedFault (lnum s p) (readHeader l1 (tPtr q.word)) q.word = none ∧ shadowBad l1 q.word = false) ∧
    (∃ (s : State) (p : Nat) (q : QEntry) (l : Loc), Ready s p 2 q ∧ isOp 0x11 119 119 0 q.word = true ∧ l = issuePos s p 2 ∧
      ttransBad q.word = false ∧ chanRoom l (tPort q.word) = true ∧ ttFmt q.word = 1 ∧ inDist (tPtr q.word) (2 * ttLast q.word) = true) ∧
    (∃ (s : State) (p : Nat) (q : QEntry) (l : Loc) (l1 : Loc), Ready s p 2 q ∧ isOp 0x11 119 119 0 q.word = true ∧ l = issuePos s p 2 ∧
      ttransBad q.word = false ∧ chanRoom l (tPort q.word) = true ∧ ttFmt q.word ≠ 1 ∧ l1 = l.scrub (tPtr q.word) 64 ∧
      l1.poisonIn (tPtr q.word) 64 = none ∧ ttransFault (lnum s p) (readHeader l1 (tPtr q.word)) q.word = none) ∧
    (∃ (s : State) (p : Nat) (q : QEntry) (l : Loc), Ready s p 2 q ∧ isOp 0x11 119 119 1 q.word = true ∧ l = issuePos s p 2 ∧
      fmaskBad q.word = false ∧ chanRoom l (tPort q.word) = true) ∧
    (∃ (s : State) (p : Nat) (q : QEntry) (l l1 : Loc) (r : RotRec) (ho h : Header), Ready s p 2 q ∧ isCls 0x12 q.word = true ∧
      trotBad q.word = false ∧ l = rotOpen q.word (issuePos s p 2) ∧ l.anyPoison [(rotPar q.word, 32), (rotDst q.word, 64)] = none ∧
      r = rotRec (l.rdN (rotPar q.word) 32) ∧ ho = readHeader l (rotDst q.word) ∧ r.bad = false ∧ ho.ok = true ∧ rotFormBad q.word r ho = false ∧
      chanRoom l (tPort q.word) = true ∧ l1 = (if rotSfmt q.word = 0 then l.scrub (rotSrc q.word) 64 else l) ∧ h = readHeader l1 (rotSrc q.word) ∧
      (rotSfmt q.word = 0 → l1.poisonIn (rotSrc q.word) 64 = none ∧ rotFault (lnum s p) h r = none)) ∧
    (∃ (s : State) (p : Nat) (q : QEntry) (l : Loc), Ready s p 2 q ∧ isCls 0x13 q.word = true ∧ l = issuePos s p 2 ∧ tsampleBad q.word = false) ∧
    (∃ (s : State) (p port : Nat) (it : FeedItem) (rest : List FeedItem), p < 624 ∧ port < 4 ∧ live s p = true ∧
      (portOf (spAt s p) port).chan = it :: rest ∧ it.kind ≠ .fmask ∧ (portOf (spAt s p) port).fifo.length < 64) ∧
    (∃ (s : State) (p port : Nat) (it : FeedItem) (rest : List FeedItem), p < 624 ∧ port < 4 ∧ live s p = true ∧
      (portOf (spAt s p) port).chan = it :: rest ∧ it.kind = .fmask) := by
  refine ⟨⟨(tI 2 (tW 16 [(1, 116), (16, 107), (1, 91), (1, 64), (0x100, 32)])), 0, (tE (tW 16 [(1, 116), (16, 107), (1, 91), (1, 64), (0x100, 32)])), _,
      ?_, ?_, rfl, ?_, ?_, ?_, ?_, ?_, ?_, ?_⟩,
    ⟨(tR 2 (tW 16 [(2, 116), (16, 107), (1, 91), (16, 64)]) 0 (tF [(2, 0), (4, 64), (0x1000, 128), (0x2000, 192)])), 0, (tE (tW 16 [(2, 116), (16,
      107), (1, 91), (16, 64)])), _, _, ?_, ?_, rfl, ?_, ?_, ?_, ?_, ?_, rfl, ?_, ?_⟩,
    ⟨(tI 2 (tW 17 [(1, 115), (16, 106), (1, 97), (16, 64), (0x100, 32)])), 0, (tE (tW 17 [(1, 115), (16, 106), (1, 97), (16, 64), (0x100, 32)])), _,
      ?_, ?_, rfl, ?_, ?_, ?_, ?_⟩,
    ⟨(tR 2 (tW 17 [(2, 115), (2, 106), (1, 97), (16, 64)]) 0 (tF [(2, 0), (4, 64), (0x1000, 128), (0x2000, 192)])), 0, (tE (tW 17 [(2, 115), (2,
      106), (1, 97), (16, 64)])), _, _, ?_, ?_, rfl, ?_, ?_, ?_, rfl, ?_, ?_⟩,
    ⟨(tI 2 (tW 17 [(1, 119)])), 0, (tE (tW 17 [(1, 119)])), _, ?_, ?_, rfl, ?_, ?_⟩,
    ⟨(tAt fun sp => tQ 2 (tW 18 [(1, 118), (0x1000, 64), (64, 0)]) (tM 64 32 (tF [(16, 32), (1, 64), (1, 96), (1, 128)]) (tM 0 64 (tF [(2, 0), (4,
      64), (0x1000, 128), (0x2000, 192)]) sp))), 0, (tE (tW 18 [(1, 118), (0x1000, 64), (64, 0)])), _, _, _, _, _, ?_, ?_, ?_, rfl, ?_, rfl, rfl, ?_,
      ?_, ?_, ?_, rfl, rfl, ?_⟩,
    ⟨(tI 2 (tW 19 [(4, 32)])), 0, (tE (tW 19 [(4, 32)])), _, ?_, ?_, rfl, ?_⟩,
    ⟨(tAt fun sp => { sp with whorl := { sp.whorl with ports := [{ FeedPort.reset with chan := [⟨.feed, 0#128, 0, 0, 0, none, [], []⟩] }] } }), 0, 0,
      ⟨.feed, 0#128, 0, 0, 0, none, [], []⟩, [], ?_, ?_, ?_, ?_, ?_, ?_⟩,
    ⟨(tAt fun sp => { sp with whorl := { sp.whorl with ports := [{ FeedPort.reset with chan := [⟨.fmask, 0#128, 0, 0, 0, none, [], []⟩] }] } }), 0,
      0, ⟨.fmask, 0#128, 0, 0, 0, none, [], []⟩, [], ?_, ?_, ?_, ?_, ?_⟩⟩
  all_goals first | decide +kernel | (unfold Ready; decide +kernel)

/-- The premises of `ShadowWaitsAtItsPort` can be met. -/
theorem witness_ShadowWaitsAtItsPort :
    (∃ (s : State) (p : Nat) (q : QEntry), Ready s p 2 q ∧ isCls 0x13 q.word = true ∧ tsampleBad q.word = false ∧
      tPort q.word < (spAt s p).whorl.ports.length) := by
  refine ⟨(tI 2 (tW 19 [(3, 120), (4, 32)])), 0, (tE (tW 19 [(3, 120), (4, 32)])), ?_, ?_, ?_, ?_⟩
  all_goals first | decide +kernel | (unfold Ready; decide +kernel)

/-- The premises of `ElementwiseCompletes` can be met. -/
theorem witness_ElementwiseCompletes :
    (∃ (s : State) (p : Nat) (q : QEntry) (l : Loc), Ready s p 3 q ∧ isOp 0x18 121 118 0 q.word = true ∧ l = issuePos s p 3 ∧
      vopIllegal 1 q.word = false ∧ Loc.clean l (cdiv (vopN q.word) 64) 16 (vopIns 0 1 q.word) = true) ∧
    (∃ (s : State) (p : Nat) (q : QEntry) (l : Loc), Ready s p 3 q ∧ isOp 0x18 121 118 1 q.word = true ∧ l = issuePos s p 3 ∧
      vopIllegal 1 q.word = false ∧ Loc.clean l (cdiv (vopN q.word) 64) 16 (vopIns 1 1 q.word) = true) ∧
    (∃ (s : State) (p : Nat) (q : QEntry) (l : Loc), Ready s p 3 q ∧ isOp 0x18 121 118 2 q.word = true ∧ l = issuePos s p 3 ∧
      vopIllegal 1 q.word = false ∧ Loc.clean l (cdiv (vopN q.word) 64) 16 (vopIns 2 1 q.word) = true) ∧
    (∃ (s : State) (p : Nat) (q : QEntry) (l : Loc), Ready s p 3 q ∧ isOp 0x18 121 118 3 q.word = true ∧ l = issuePos s p 3 ∧
      vopIllegal 2 q.word = false ∧ Loc.clean l (cdiv (vopN q.word) 64) 16 (vopIns 3 2 q.word) = true) ∧
    (∃ (s : State) (p : Nat) (q : QEntry) (l : Loc), Ready s p 3 q ∧ isOp 0x18 121 118 4 q.word = true ∧ l = issuePos s p 3 ∧
      vopIllegal 0 q.word = false ∧ Loc.clean l (cdiv (vopN q.word) 64) 16 (vopIns 4 0 q.word) = true) ∧
    (∃ (s : State) (p : Nat) (q : QEntry) (l : Loc), Ready s p 3 q ∧ isOp 0x18 121 118 5 q.word = true ∧ l = issuePos s p 3 ∧
      vopIllegal 0 q.word = false ∧ Loc.clean l (cdiv (vopN q.word) 32) 16 (vopIns 5 0 q.word) = true) ∧
    (∃ (s : State) (p : Nat) (q : QEntry) (l : Loc), Ready s p 3 q ∧ isOp 0x18 121 118 6 q.word = true ∧ l = issuePos s p 3 ∧
      vopIllegal 0 q.word = false ∧ Loc.clean l (cdiv (vopN q.word) 32) 16 (vopIns 6 0 q.word) = true) ∧
    (∃ (s : State) (p : Nat) (q : QEntry) (l : Loc), Ready s p 3 q ∧ isOp 0x18 121 118 7 q.word = true ∧ l = issuePos s p 3 ∧
      reservedClear q.word [(127, 118)] = true ∧ l.sp.marked = false) := by
  refine ⟨⟨(tI 3 (tW 24 [(0, 118), (4, 96), (0x100, 64), (0x200, 32), (0x300, 0)])), 0, (tE (tW 24 [(0, 118), (4, 96), (0x100, 64), (0x200, 32), (0x300,
      0)])), _, ?_, ?_, rfl, ?_, ?_⟩,
    ⟨(tI 3 (tW 24 [(1, 118), (4, 96), (0x100, 64), (0x200, 32), (0x300, 0)])), 0, (tE (tW 24 [(1, 118), (4, 96), (0x100, 64), (0x200, 32), (0x300,
      0)])), _, ?_, ?_, rfl, ?_, ?_⟩,
    ⟨(tI 3 (tW 24 [(2, 118), (4, 96), (0x100, 64), (0x200, 32), (0x300, 0)])), 0, (tE (tW 24 [(2, 118), (4, 96), (0x100, 64), (0x200, 32), (0x300,
      0)])), _, ?_, ?_, rfl, ?_, ?_⟩,
    ⟨(tI 3 (tW 24 [(3, 118), (4, 96), (0x100, 64), (0x200, 32), (0x300, 0)])), 0, (tE (tW 24 [(3, 118), (4, 96), (0x100, 64), (0x200, 32), (0x300,
      0)])), _, ?_, ?_, rfl, ?_, ?_⟩,
    ⟨(tI 3 (tW 24 [(4, 118), (4, 96), (0x100, 64), (0, 32), (0x300, 0)])), 0, (tE (tW 24 [(4, 118), (4, 96), (0x100, 64), (0, 32), (0x300, 0)])), _,
      ?_, ?_, rfl, ?_, ?_⟩,
    ⟨(tI 3 (tW 24 [(5, 118), (4, 96), (0x100, 64), (0, 32), (0x300, 0)])), 0, (tE (tW 24 [(5, 118), (4, 96), (0x100, 64), (0, 32), (0x300, 0)])), _,
      ?_, ?_, rfl, ?_, ?_⟩,
    ⟨(tI 3 (tW 24 [(6, 118), (4, 96), (0x100, 64), (0, 32), (0x300, 0)])), 0, (tE (tW 24 [(6, 118), (4, 96), (0x100, 64), (0, 32), (0x300, 0)])), _,
      ?_, ?_, rfl, ?_, ?_⟩,
    ⟨(tI 3 (tW 24 [(7, 118)])), 0, (tE (tW 24 [(7, 118)])), _, ?_, ?_, rfl, ?_, ?_⟩⟩
  all_goals first | decide +kernel | (unfold Ready; decide +kernel)

/-- The premises of `NormAndSoftmaxComplete` can be met. -/
theorem witness_NormAndSoftmaxComplete :
    (∃ (s : State) (p : Nat) (q : QEntry) (l0 : Loc), Ready s p 3 q ∧ isOp 0x19 121 121 0 q.word = true ∧ vnormBad q.word = false ∧
      l0 = (issuePos s p 3).scrub (flyPar q.word) 32 ∧ l0.poisonIn (flyPar q.word) 32 = none ∧
      normRecBad false q.word (normRec (l0.rdN (flyPar q.word) 32)) = false ∧
      Loc.clean l0 (cdiv ((normRec (l0.rdN (flyPar q.word) 32)).nr * (normRec (l0.rdN (flyPar q.word) 32)).nc) 32) 24 (normIns false q.word (normRec (l0.rdN (flyPar q.word) 32))) = true) ∧
    (∃ (s : State) (p : Nat) (q : QEntry) (l0 : Loc), Ready s p 3 q ∧ isOp 0x19 121 121 1 q.word = true ∧ vnormBad q.word = false ∧
      l0 = (issuePos s p 3).scrub (flyPar q.word) 32 ∧ l0.poisonIn (flyPar q.word) 32 = none ∧
      normRecBad true q.word (normRec (l0.rdN (flyPar q.word) 32)) = false ∧
      Loc.clean l0 (cdiv ((normRec (l0.rdN (flyPar q.word) 32)).nr * (normRec (l0.rdN (flyPar q.word) 32)).nc) 32) 24 (normIns true q.word (normRec (l0.rdN (flyPar q.word) 32))) = true) ∧
    (∃ (s : State) (p : Nat) (q : QEntry) (l0 l1 : Loc) (r : SmaxRec) (h : Header), Ready s p 3 q ∧ isOp 0x1A 121 120 0 q.word = true ∧
      vsmaxBad q.word = false ∧ l0 = (issuePos s p 3).scrub (flyPar q.word) 64 ∧ l0.poisonIn (flyPar q.word) 64 = none ∧
      r = smaxRec (l0.rdN (flyPar q.word) 64) ∧ r.ok = true ∧ l1 = l0.scrub r.phdr 64 ∧ h = readHeader l1 r.phdr ∧ scoreBad r = false ∧
      scoreFault (lnum s p) h r = false ∧ scoreFormBad q.word h r = false ∧ Loc.clean l1 (cdiv (r.nr * r.nc) 32) 24 (scoreIns r ++ [(r.phdr,
      64)]) = true) ∧
    (∃ (s : State) (p : Nat) (q : QEntry) (l0 : Loc), Ready s p 3 q ∧ isOp 0x1A 121 120 1 q.word = true ∧ vsmaxBad q.word = false ∧
      l0 = (issuePos s p 3).scrub (flyPar q.word) 64 ∧ l0.poisonIn (flyPar q.word) 64 = none ∧ (smaxRec (l0.rdN (flyPar q.word) 64)).ok = true ∧
      (mergeIns (smaxRec (l0.rdN (flyPar q.word) 64))).all (fun x => inDist x.1 x.2) = true ∧
      Loc.clean l0 (cdiv ((smaxRec (l0.rdN (flyPar q.word) 64)).nr * (smaxRec (l0.rdN (flyPar q.word) 64)).dv) 64) 16 (mergeIns (smaxRec (l0.rdN (flyPar q.word) 64))) = true) ∧
    (∃ (s : State) (p : Nat) (q : QEntry) (l0 : Loc), Ready s p 3 q ∧ isOp 0x1A 121 120 2 q.word = true ∧ vsmaxBad q.word = false ∧
      l0 = (issuePos s p 3).scrub (flyPar q.word) 64 ∧ l0.poisonIn (flyPar q.word) 64 = none ∧ (smaxRec (l0.rdN (flyPar q.word) 64)).ok = true ∧
      (finalIns (smaxRec (l0.rdN (flyPar q.word) 64)) ++ [((smaxRec (l0.rdN (flyPar q.word) 64)).dst,
      (smaxRec (l0.rdN (flyPar q.word) 64)).nr * (smaxRec (l0.rdN (flyPar q.word) 64)).dv * esz (bitOf q.word 118))]).all (fun x => inDist x.1 x.2) = true ∧
      Loc.clean l0 (cdiv ((smaxRec (l0.rdN (flyPar q.word) 64)).nr * (smaxRec (l0.rdN (flyPar q.word) 64)).dv) 64) 24 (finalIns (smaxRec (l0.rdN (flyPar q.word) 64))) = true) := by
  refine ⟨⟨(tR 3 (tW 25 [(64, 0)]) 64 (tF [(0x1000, 0), (0x2000, 32), (0x3000, 64), (0x4000, 96), (1, 160), (4, 176)])), 0, (tE (tW 25 [(64, 0)])), _, ?_,
      ?_, ?_, rfl, ?_, ?_, ?_⟩,
    ⟨(tR 3 (tW 25 [(1, 121), (64, 0)]) 64 (tF [(0x1000, 0), (0x2000, 32), (0x3000, 64), (0x4000, 96), (1, 160), (4, 176)])), 0, (tE (tW 25 [(1, 121),
      (64, 0)])), _, ?_, ?_, ?_, rfl, ?_, ?_, ?_⟩,
    ⟨(tAt fun sp => tQ 3 (tW 26 [(64, 0)]) (tM 128 64 (tF [(2, 0), (1, 64), (0x6000, 128), (0x7000, 192)]) (tM 64 64 (tF [(0x1000, 0), (128, 32),
      (0x2000, 64), (0x3000, 96), (0x4000, 128), (0x5000, 160), (1, 192), (16, 208), (1, 224)]) sp))), 0, (tE (tW 26 [(64, 0)])), _, _, _, _, ?_, ?_,
      ?_, rfl, ?_, rfl, ?_, rfl, rfl, ?_, ?_, ?_, ?_⟩,
    ⟨(tR 3 (tW 26 [(1, 120), (64, 0)]) 64 (tF [(0x1000, 0), (128, 32), (0x2000, 64), (0x3000, 96), (0x4000, 128), (0x5000, 160), (1, 192), (16, 208),
      (1, 224)])), 0, (tE (tW 26 [(1, 120), (64, 0)])), _, ?_, ?_, ?_, rfl, ?_, ?_, ?_, ?_⟩,
    ⟨(tR 3 (tW 26 [(2, 120), (64, 0)]) 64 (tF [(0x1000, 0), (128, 32), (0x2000, 64), (0x3000, 96), (0x4000, 128), (0x5000, 160), (1, 192), (16, 208),
      (1, 224)])), 0, (tE (tW 26 [(2, 120), (64, 0)])), _, ?_, ?_, ?_, rfl, ?_, ?_, ?_, ?_⟩⟩
  all_goals first | decide +kernel | (unfold Ready; decide +kernel)

/-- The premises of `QuantiseAndDrawComplete` can be met. -/
theorem witness_QuantiseAndDrawComplete :
    (∃ (s : State) (p : Nat) (q : QEntry) (l0 m : Loc) (h : Header), Ready s p 3 q ∧ isCls 0x1B q.word = true ∧ vquantBad q.word = false ∧
      l0 = (issuePos s p 3).scrub (vqHdr q.word) 64 ∧ h = readHeader l0 (vqHdr q.word) ∧ (h.fmt = 7 → bitOf q.word 119 = true) ∧ h.ok = true ∧
      inDist (vqSrc q.word) (vqBytes h q.word) = true ∧ vquantFault s p h q.word = false ∧ m = (l0.fly (vqOcc h q.word) 18).reading [(vqHdr q.word,
      64), (vqSrc q.word, vqBytes h q.word)] ∧ m.poisonIn (vqHdr q.word) 64 = none ∧ vqPoison h q.word (issueAt l0 3) m = none) ∧
    (∃ (s : State) (p : Nat) (q : QEntry) (l0 : Loc), Ready s p 3 q ∧ isOp 0x1C 121 121 0 q.word = true ∧ vrandBad q.word = false ∧
      l0 = (issuePos s p 3).scrub (flyPar q.word) 64 ∧ l0.poisonIn (flyPar q.word) 64 = none ∧
      randRecBad 0 q.word (randRec (l0.rdN (flyPar q.word) 64)) = false ∧
      Loc.clean l0 (cdiv ((randRec (l0.rdN (flyPar q.word) 64)).nr * (randRec (l0.rdN (flyPar q.word) 64)).nc) (if fld q.word 120 120 = 0 then 128 else 16)) 24 (randIns 0 q.word (randRec (l0.rdN (flyPar q.word) 64))) = true) ∧
    (∃ (s : State) (p : Nat) (q : QEntry) (l0 : Loc), Ready s p 3 q ∧ isOp 0x1C 121 121 1 q.word = true ∧ vrandBad q.word = false ∧
      l0 = (issuePos s p 3).scrub (flyPar q.word) 64 ∧ l0.poisonIn (flyPar q.word) 64 = none ∧
      randRecBad 1 q.word (randRec (l0.rdN (flyPar q.word) 64)) = false ∧
      Loc.clean l0 (cdiv ((randRec (l0.rdN (flyPar q.word) 64)).nr * (randRec (l0.rdN (flyPar q.word) 64)).nc) (if fld q.word 120 120 = 0 then 128 else 16)) 24 (randIns 1 q.word (randRec (l0.rdN (flyPar q.word) 64))) = true) := by
  refine ⟨⟨(tR 3 (tW 27 [(0x4000, 64), (64, 32), (1, 16)]) 64 (tF [(2, 0), (4, 64), (0x1000, 128), (0x2000, 192)])), 0, (tE (tW 27 [(0x4000, 64), (64, 32),
      (1, 16)])), _, _, _, ?_, ?_, ?_, rfl, rfl, ?_, ?_, ?_, ?_, rfl, ?_, ?_⟩,
    ⟨(tR 3 (tW 28 [(0x1000, 64), (0x2000, 32), (64, 0)]) 64 (tF [(1, 96), (4, 112), (4, 128), (4, 160), (0xFFFEFF, 16)])), 0, (tE (tW 28 [(0x1000,
      64), (0x2000, 32), (64, 0)])), _, ?_, ?_, ?_, rfl, ?_, ?_, ?_⟩,
    ⟨(tR 3 (tW 28 [(1, 121), (0x2000, 32), (64, 0)]) 64 (tF [(1, 96), (4, 112), (4, 128), (4, 160), (0xFFFEFF, 16)])), 0, (tE (tW 28 [(1, 121),
      (0x2000, 32), (64, 0)])), _, ?_, ?_, ?_, rfl, ?_, ?_, ?_⟩⟩
  all_goals first | decide +kernel | (unfold Ready; decide +kernel)

/-- The premises of `OptimizerAndLossComplete` can be met. -/
theorem witness_OptimizerAndLossComplete :
    (∃ (s : State) (p : Nat) (q : QEntry) (l0 : Loc) (rc : OptRec) (h : Header), Ready s p 3 q ∧ isOp 0x1D 121 121 0 q.word = true ∧
      voptBad q.word = false ∧ l0 = (issuePos s p 3).scrub (voPar q.word) 64 ∧ l0.poisonIn (voPar q.word) 64 = none ∧
      rc = optRec (l0.rdN (voPar q.word) 64) ∧ h = readHeader l0 (voHdr q.word) ∧ (voBf q.word = false → h.fmt = 7 → bitOf q.word 120 = true) ∧
      voptFault (lnum s p) h q.word = false ∧ optRecBad s p true rc h q.word = false) ∧
    (∃ (s : State) (p : Nat) (q : QEntry) (l0 : Loc) (rc : OptRec) (h : Header), Ready s p 3 q ∧ isOp 0x1D 121 121 1 q.word = true ∧
      voptBad q.word = false ∧ l0 = (issuePos s p 3).scrub (voPar q.word) 64 ∧ l0.poisonIn (voPar q.word) 64 = none ∧
      rc = optRec (l0.rdN (voPar q.word) 64) ∧ h = readHeader l0 (voHdr q.word) ∧ (voBf q.word = false → h.fmt = 7 → bitOf q.word 120 = true) ∧
      voptFault (lnum s p) h q.word = false ∧ optRecBad s p false rc h q.word = false) ∧
    (∃ (s : State) (p : Nat) (q : QEntry) (l0 : Loc), Ready s p 3 q ∧ isCls 0x1E q.word = true ∧ vlossBad q.word = false ∧
      l0 = (issuePos s p 3).scrub (flyPar q.word) 64 ∧ l0.poisonIn (flyPar q.word) 64 = none ∧
      lossRecBad q.word (lossRec (l0.rdN (flyPar q.word) 64)) = false ∧
      Loc.clean l0 (cdiv ((lossRec (l0.rdN (flyPar q.word) 64)).nr * (lossRec (l0.rdN (flyPar q.word) 64)).v) 16) 32 (lossIns (lossRec (l0.rdN (flyPar q.word) 64))) = true) ∧
    (∃ (s : State) (p : Nat) (q : QEntry) (l : Loc) (t : Nat) (c : Check), Ready s p 3 q ∧ isCls 0x1F q.word = true ∧ l = issuePos s p 3 ∧
      vcheckBad q.word = false ∧ pendingOf l.sp (vcHalf q.word) = some c ∧ c.ready = some t) ∧
    (∃ (s : State) (p : Nat) (q : QEntry) (l : Loc), Ready s p 3 q ∧ isCls 0x1F q.word = true ∧ l = issuePos s p 3 ∧ vcheckBad q.word = false ∧
      pendingOf l.sp (vcHalf q.word) = none) := by
  refine ⟨⟨(tR 3 (tW 29 [(1, 118), (0x8000, 64), (64, 32), (1, 16)]) 64 (tF [(0x1000, 0), (0x2000, 32), (0x3000, 64), (0x4000, 96), (0x5000, 128), (0x6000,
      160)])), 0, (tE (tW 29 [(1, 118), (0x8000, 64), (64, 32), (1, 16)])), _, _, _, ?_, ?_, ?_, rfl, ?_, rfl, rfl, ?_, ?_, ?_⟩,
    ⟨(tR 3 (tW 29 [(1, 121), (1, 118), (0x8000, 64), (64, 32), (1, 16)]) 64 (tF [(0x1000, 0), (0x2000, 32), (0x3000, 64), (0x4000, 96), (0x5000,
      128), (0x6000, 160)])), 0, (tE (tW 29 [(1, 121), (1, 118), (0x8000, 64), (64, 32), (1, 16)])), _, _, _, ?_, ?_, ?_, rfl, ?_, rfl, rfl, ?_, ?_,
      ?_⟩,
    ⟨(tR 3 (tW 30 [(64, 0)]) 64 (tF [(0x1000, 0), (0x2000, 32), (0x3000, 64), (0x4000, 96), (0x5000, 128), (1, 160), (4, 192), (0x3F800000, 224)])),
      0, (tE (tW 30 [(64, 0)])), _, ?_, ?_, ?_, rfl, ?_, ?_, ?_⟩,
    ⟨(tAt fun sp => tQ 3 (tW 31 []) (tH { Half.reset with check := some ⟨0, 0, [], [], [], [], some 9, none⟩ } sp)), 0, (tE (tW 31 [])), _, 9, ⟨0, 0,
      [], [], [], [], some 9, none⟩, ?_, ?_, rfl, ?_, ?_, ?_⟩,
    ⟨(tI 3 (tW 31 [])), 0, (tE (tW 31 [])), _, ?_, ?_, rfl, ?_, ?_⟩⟩
  all_goals first | decide +kernel | (unfold Ready; decide +kernel)

/-- The premises of `ElementwiseStoresOnlyItsArray` can be met. -/
theorem witness_ElementwiseStoresOnlyItsArray :
    (∃ (c : Instr) (s t : State) (p : Nat) (q : QEntry), MemOk s ∧ c ∈ [Instr.vopAdd p, .vopMul p, .vopFma p, .vopScale p, .vopCopy p, .vopExp p,
      .vopSilu p] ∧ (strmOf (spAt s p) 3).queue.head? = some q ∧ exec c s = .next t) := by
  refine ⟨(.vopCopy 0), (tI 3 (tW 24 [(4, 118), (4, 96), (0x100, 64), (0x300, 0)])), _, 0, (tE (tW 24 [(4, 118), (4, 96), (0x100, 64), (0x300, 0)])), ?_,
      by simp, ?_, rfl⟩
  all_goals first | decide +kernel | (unfold MemOk; decide +kernel)

/-- The premises of `RowsStoreOnlyTheirOutputs` can be met. -/
theorem witness_RowsStoreOnlyTheirOutputs :
    (∃ (s t : State) (p : Nat) (q : QEntry) (rn : NormRec) (rs : SmaxRec), MemOk s ∧ (strmOf (spAt s p) 3).queue.head? = some q ∧
      rn = normRec ((issuePos s p 3).rdN (flyPar q.word) 32) ∧ rs = smaxRec ((issuePos s p 3).rdN (flyPar q.word) 64)) := by
  refine ⟨(tI 3 (tW 25 [(64, 0)])), tB, 0, (tE (tW 25 [(64, 0)])), _, _, ?_, ?_, rfl, rfl⟩
  all_goals first | decide +kernel | (unfold MemOk; decide +kernel)

/-- The premises of `VopWritesTheResult` can be met. -/
theorem witness_VopWritesTheResult :
    (∃ (s : State) (p op : Nat) (c : Instr) (q : QEntry) (f : F32 → F32 → F32 → F32), (op, c, f) ∈ [(0, Instr.vopAdd p, fun a b _ => fadd a b), (1,
      Instr.vopMul p, fun a b _ => fmul a b), (4, Instr.vopCopy p, fun a _ _ => a)] ∧ MemOk s ∧ Ready s p 3 q ∧ isOp 0x18 121 118 op q.word = true ∧
      vopIllegal (if op = 4 then 0 else 1) q.word = false ∧
      Loc.clean (issuePos s p 3) (cdiv (vopN q.word) 64) 16 (vopIns op (if op = 4 then 0 else 1) q.word) = true ∧ (∀ e ∈ (spAt s p).pend,
      e.off + e.data.length ≤ vopD q.word ∨ vopD q.word + vopN q.word * esz (bitOf q.word 117) ≤ e.off)) := by
  refine ⟨(tI 3 (tW 24 [(0, 118), (4, 96), (0x100, 64), (0x200, 32), (0x300, 0)])), 0, 0, (.vopAdd 0), (tE (tW 24 [(0, 118), (4, 96), (0x100, 64), (0x200,
      32), (0x300, 0)])), (fun a b _ => fadd a b), List.mem_cons_self, ?_, ?_, ?_, ?_, ?_, ?_⟩
  all_goals first | decide +kernel | (unfold MemOk; decide +kernel) | (unfold Ready; decide +kernel)

/-- The premises of `CmoveCompletes` can be met. -/
theorem witness_CmoveCompletes :
    (∃ (s : State) (p : Nat) (q : QEntry) (l : Loc), Ready s p 4 q ∧ isOp 0x20 121 120 0 q.word = true ∧ l = issuePos s p 4 ∧ moveOk q.word = true ∧
      rangeEvent s p (cmAddr q.word) (cmLen q.word) = none ∧ isOwn s p (cmAddr q.word) = true ∧ ownClash s p false q.word = false) ∧
    (∃ (s : State) (p : Nat) (q : QEntry) (l : Loc), Ready s p 4 q ∧ isOp 0x20 121 120 0 q.word = true ∧ l = issuePos s p 4 ∧ moveOk q.word = true ∧
      rangeEvent s p (cmAddr q.word) (cmLen q.word) = none ∧ isOwn s p (cmAddr q.word) = false) ∧
    (∃ (s : State) (p : Nat) (q : QEntry) (l : Loc), Ready s p 4 q ∧ isOp 0x20 121 120 1 q.word = true ∧ l = issuePos s p 4 ∧ moveOk q.word = true ∧
      rangeEvent s p (cmAddr q.word) (cmLen q.word) = none ∧ isOwn s p (cmAddr q.word) = true ∧ ownClash s p true q.word = false ∧
      ownFinal true q.word = true) ∧
    (∃ (s : State) (p : Nat) (q : QEntry) (l : Loc) (u : Nat), Ready s p 4 q ∧ isOp 0x20 121 120 1 q.word = true ∧ l = issuePos s p 4 ∧
      moveOk q.word = true ∧ rangeEvent s p (cmAddr q.word) (cmLen q.word) = none ∧ isOwn s p (cmAddr q.word) = true ∧
      ownClash s p true q.word = false ∧ u = ownLast s p true q.word (issueAt l 4) ∧ ownFinal true q.word = false) ∧
    (∃ (s : State) (p : Nat) (q : QEntry) (l : Loc), Ready s p 4 q ∧ isOp 0x20 121 120 1 q.word = true ∧ l = issuePos s p 4 ∧ moveOk q.word = true ∧
      rangeEvent s p (cmAddr q.word) (cmLen q.word) = none ∧ isOwn s p (cmAddr q.word) = false) ∧
    (∃ (s : State) (p : Nat) (q : QEntry) (l : Loc), Ready s p 4 q ∧ isOp 0x20 121 120 2 q.word = true ∧ l = issuePos s p 4 ∧ addBad q.word = false ∧
      addEvent s p (cmAddr q.word) = none ∧ cmFmt q.word ≤ 1) ∧
    (∃ (s : State) (p : Nat) (q : QEntry) (l : Loc) (h : Header) (m : Loc), Ready s p 4 q ∧ isOp 0x20 121 120 2 q.word = true ∧ l = issuePos s p 4 ∧
      addBad q.word = false ∧ addEvent s p (cmAddr q.word) = none ∧ 2 ≤ cmFmt q.word ∧ m = l.scrub (cmLocal q.word) 64 ∧
      h = readHeader m (cmLocal q.word) ∧ addFault (lnum s p) h q.word = none) := by
  refine ⟨⟨(tI 4 (tW 32 [(0, 120), (0x2000, 89), (8, 64), (0x1000, 0)])), 0, (tE (tW 32 [(0, 120), (0x2000, 89), (8, 64), (0x1000, 0)])), _, ?_, ?_, rfl,
      ?_, ?_, ?_, ?_⟩,
    ⟨(tI 4 (tW 32 [(0, 120), (0x2000, 89), (8, 64), (0x10000000000, 0)])), 0, (tE (tW 32 [(0, 120), (0x2000, 89), (8, 64), (0x10000000000, 0)])), _,
      ?_, ?_, rfl, ?_, ?_, ?_⟩,
    ⟨(tI 4 (tW 32 [(1, 120), (0x2000, 89), (8, 64), (0x1000, 0), (1, 118)])), 0, (tE (tW 32 [(1, 120), (0x2000, 89), (8, 64), (0x1000, 0), (1,
      118)])), _, ?_, ?_, rfl, ?_, ?_, ?_, ?_, ?_⟩,
    ⟨(tI 4 (tW 32 [(1, 120), (0x2000, 89), (8, 64), (0x1000, 0)])), 0, (tE (tW 32 [(1, 120), (0x2000, 89), (8, 64), (0x1000, 0)])), _, _, ?_, ?_,
      rfl, ?_, ?_, ?_, ?_, rfl, ?_⟩,
    ⟨(tI 4 (tW 32 [(1, 120), (0x2000, 89), (8, 64), (0x10000000000, 0)])), 0, (tE (tW 32 [(1, 120), (0x2000, 89), (8, 64), (0x10000000000, 0)])), _,
      ?_, ?_, rfl, ?_, ?_, ?_⟩,
    ⟨(tI 4 (tW 32 [(2, 120), (0x2000, 89), (8, 64), (0x1000, 0)])), 0, (tE (tW 32 [(2, 120), (0x2000, 89), (8, 64), (0x1000, 0)])), _, ?_, ?_, rfl,
      ?_, ?_, ?_⟩,
    ⟨(tR 4 (tW 32 [(2, 120), (2, 114), (1, 64), (0x3000, 0)]) 0 (tF [(2, 0), (4, 64), (0x1000, 128), (0x2000, 192)])), 0, (tE (tW 32 [(2, 120), (2,
      114), (1, 64), (0x3000, 0)])), _, _, _, ?_, ?_, rfl, ?_, ?_, ?_, rfl, rfl, ?_⟩⟩
  all_goals first | decide +kernel | (unfold Ready; decide +kernel)

/-- The premises of `OwnMoveCopies` can be met. -/
theorem witness_OwnMoveCopies :
    (∃ (s : State) (p : Nat) (q : QEntry), MemOk s ∧ Ready s p 4 q ∧ isOp 0x20 121 120 0 q.word = true ∧ moveOk q.word = true ∧
      rangeEvent s p (cmAddr q.word) (cmLen q.word) = none ∧ isOwn s p (cmAddr q.word) = true ∧ ownClash s p false q.word = false ∧
      (∀ e ∈ (spAt s p).pend, e.off + e.data.length ≤ cmLocal q.word ∨ cmLocal q.word + cmLen q.word ≤ e.off)) := by
  refine ⟨(tI 4 (tW 32 [(0, 120), (0x2000, 89), (8, 64), (0x1000, 0)])), 0, (tE (tW 32 [(0, 120), (0x2000, 89), (8, 64), (0x1000, 0)])), ?_, ?_, ?_, ?_,
      ?_, ?_, ?_, ?_⟩
  all_goals first | decide +kernel | (unfold MemOk; decide +kernel) | (unfold Ready; decide +kernel)

/-- The premises of `FabricCompletes` can be met. -/
theorem witness_FabricCompletes :
    (∃ (s0 s : State) (p t : Nat) (a : Access) (rest : List Access) (l : Loc) (x : Loc × List Reply), p < 624 ∧
      (spAt s0 p).carder.present = a :: rest ∧ t = presentAt s0 p a ∧ s = settleBy s0 (portTime s0 p t 0) ∧ live s p = true ∧
      clockKnown s p t = true ∧ presentWaits s p a = false ∧ lowerFirst s p t = false ∧ l = (openPos s0 p).at_ t ∧ a.loft = true ∧
      loftMiss l a = false ∧ x = loftHit p t a (l.card fun c => { c with present := rest })) ∧
    (∃ (s0 s : State) (p t : Nat) (a : Access) (rest : List Access) (l out : Loc), p < 624 ∧ (spAt s0 p).carder.present = a :: rest ∧
      t = presentAt s0 p a ∧ s = settleBy s0 (portTime s0 p t 0) ∧ live s p = true ∧ clockKnown s p t = true ∧ presentWaits s p a = false ∧
      lowerFirst s p t = false ∧ l = (openPos s0 p).at_ t ∧ (a.loft = true → loftMiss l a = true) ∧
      (isHbm a.addr = true → slotsFor s ((jobAt s p).getD 8) (hbmOff a.addr) ≠ 0) ∧ (flitsFor s p t a).all (fits s.fabric.flits) = true ∧
      out = l.card (fun c => { c with present := rest })) ∧
    (∃ (s0 s : State) (p t : Nat) (a : Access) (rest : List Access) (l : Loc), p < 624 ∧ (spAt s0 p).carder.present = a :: rest ∧
      t = presentAt s0 p a ∧ s = settleBy s0 (portTime s0 p t 0) ∧ live s p = true ∧ clockKnown s p t = true ∧ presentWaits s p a = false ∧
      lowerFirst s p t = false ∧ l = (openPos s0 p).at_ t ∧ (a.loft = true → loftMiss l a = true) ∧
      (isHbm a.addr = true → slotsFor s ((jobAt s p).getD 8) (hbmOff a.addr) ≠ 0) ∧ (flitsFor s p t a).all (fits s.fabric.flits) = false) ∧
    (∃ (s s' : State) (p t : Nat) (r : Reply), p < 624 ∧ takeReply s p (fun r => r.acc.kind == .getLine) = some (r, t, s')) ∧
    (∃ (s s' : State) (p t : Nat) (r : Reply), p < 624 ∧ takeReply s p (fun r => r.ack && r.acc.kind != .cfe) = some (r, t, s')) := by
  refine ⟨⟨(tAt fun sp => { sp with carder := { sp.carder with present := [{ tAcc with loft := true }], loft := [⟨0x1000, true, [], [], 0, 0⟩] } }), _, 0,
      _, { tAcc with loft := true }, [], _, _, ?_, ?_, rfl, rfl, ?_, ?_, ?_, ?_, rfl, ?_, ?_, rfl⟩,
    ⟨(tAt fun sp => { sp with carder := { sp.carder with present := [tAcc] } }), _, 0, _, tAcc, [], _, _, ?_, ?_, rfl, rfl, ?_, ?_, ?_, ?_, rfl, ?_,
      ?_, ?_, rfl⟩,
    ⟨(let s := (tAt fun sp => { sp with carder := { sp.carder with present := [{ tAcc with addr := 0x2001000 }] } }); { s with fabric := { s.fabric with flits := [⟨none, 1, 0, false, 56, [⟨0, 1, 0⟩], []⟩] } }),
      _, 0, _, { tAcc with addr := 0x2001000 }, [], _, ?_, ?_, rfl, rfl, ?_, ?_, ?_, ?_, rfl, ?_, ?_, ?_⟩,
    ⟨{ tB with fabric := { tB.fabric with replies := [tRep (tAcc)] } }, { tB with fabric := { tB.fabric with replies := [] } }, 0, 4, (tRep tAcc),
      ?_, ?_⟩,
    ⟨{ tB with fabric := { tB.fabric with replies := [tRep ({ tAcc with kind := .putLine })] } },
      { tB with fabric := { tB.fabric with replies := [] } }, 0, 4, (tRep { tAcc with kind := .putLine }), ?_, ?_⟩⟩
  all_goals first | decide +kernel

/-- The premises of `HbmCompletes` can be met. -/
theorem witness_HbmCompletes :
    (∃ (s : State) (p : Nat) (q : QEntry) (l : Loc), Ready s p 4 q ∧ isOp 0x21 121 120 0 q.word = true ∧ chbmBad 0 q.word = false ∧
      l = (issuePos s p 4).scrub (chPar q.word) 32 ∧ l.poisonIn (chPar q.word) 32 = none ∧ (chbmRec (l.rdN (chPar q.word) 32)).ok 0 = true ∧
      (chbmRec (l.rdN (chPar q.word) 32)).outside 0 = none) ∧
    (∃ (s : State) (p : Nat) (q : QEntry) (l : Loc), Ready s p 4 q ∧ isOp 0x21 121 120 1 q.word = true ∧ chbmBad 1 q.word = false ∧
      l = (issuePos s p 4).scrub (chPar q.word) 32 ∧ l.poisonIn (chPar q.word) 32 = none ∧ (chbmRec (l.rdN (chPar q.word) 32)).ok 1 = true ∧
      (chbmRec (l.rdN (chPar q.word) 32)).outside 1 = none) ∧
    (∃ (s : State) (p : Nat) (q : QEntry) (l : Loc), Ready s p 4 q ∧ isOp 0x21 121 120 2 q.word = true ∧ chbmBad 2 q.word = false ∧
      l = (issuePos s p 4).scrub (chPar q.word) 32 ∧ l.poisonIn (chPar q.word) 32 = none ∧ (chbmRec (l.rdN (chPar q.word) 32)).ok 2 = true ∧
      (chbmRec (l.rdN (chPar q.word) 32)).outside 2 = none) ∧
    (∃ (s0 s : State) (st ch g : Nat) (x : HbmAcc), st < 8 ∧ ch < 32 ∧ s = grantsBy s0 st ch ∧ nextGrant s st ch = some x ∧ g = grantAt s x ∧
      isLate s x.acc (!x.write) = false ∧ moverAhead s x.job st ch (lineKey s x) = false) ∧
    (∃ (s s' u : State) (p : Nat) (x : HbmAcc), p < 624 ∧ takeGranted s p (fun x => !x.write) = some (x, s') ∧ u = dropFlit s' x.acc true) ∧
    (∃ (s s' u : State) (p : Nat) (x : HbmAcc), p < 624 ∧ takeGranted s p (fun x => x.write && !heldFinal s x) = some (x, s') ∧
      u = shotWrite s' (lineJob s' x) (hbmBase + x.off) x.data) ∧
    (∃ (s : State), s.bell.fired = true ∧ s.bell.held = false ∧ s.hbm.selfRefresh = false ∧ s.power.off = false) ∧
    (∃ (s : State) (n off : Nat), n < 8 ∧ s.hbm.selfRefresh = false ∧ s.power.off = false) ∧
    (∃ (s : State) (p : Nat), p < 624 ∧ live s p = true) := by
  refine ⟨⟨(tR 4 (tW 33 [(0, 120), (64, 32)]) 64 (tF [(0x10000000000, 0), (0x1000, 128), (1, 160), (1, 176), (64, 192), (64, 224)])), 0, (tE (tW 33 [(0,
      120), (64, 32)])), _, ?_, ?_, ?_, rfl, ?_, ?_, ?_⟩,
    ⟨(tR 4 (tW 33 [(1, 120), (64, 32)]) 64 (tF [(0x10000000000, 0), (0x1000, 128), (1, 160), (1, 176), (64, 192), (64, 224)])), 0, (tE (tW 33 [(1,
      120), (64, 32)])), _, ?_, ?_, ?_, rfl, ?_, ?_, ?_⟩,
    ⟨(tR 4 (tW 33 [(2, 120), (64, 32)]) 64 (tF [(0x10000000000, 0), (0x1000, 128), (1, 160), (1, 176), (64, 192), (64, 224), (0x10000000040, 64)])),
      0, (tE (tW 33 [(2, 120), (64, 32)])), _, ?_, ?_, ?_, rfl, ?_, ?_, ?_⟩,
    ⟨{ tB with hbm := { tB.hbm with waiting := [tHb], credits := [(0, 1)] } }, _, 0, 0, _, tHb, ?_, ?_, rfl, ?_, rfl, ?_, ?_⟩,
    ⟨{ tB with hbm := { tB.hbm with granted := [tHb] } }, tB, _, 0, tHb, ?_, ?_, rfl⟩,
    ⟨{ tB with hbm := { tB.hbm with granted := [{ tHb with write := true }] } }, tB, _, 0, { tHb with write := true }, ?_, ?_, rfl⟩,
    ⟨tB, ?_, ?_, ?_, ?_⟩,
    ⟨tB, 7, 5, ?_, ?_, ?_⟩,
    ⟨tB, 623, ?_, ?_⟩⟩
  all_goals first | decide +kernel | (unfold Ready; decide +kernel)

/-- The premises of `PatrolScrubMends` can be met. -/
theorem witness_PatrolScrubMends :
    (∃ (s : State) (n off : Nat), n < 8 ∧ s.hbm.selfRefresh = false ∧ s.power.off = false ∧ n < s.hbm.back.length ∧ s.hbm.back.getD n none = none ∧
      off = stackLine n (s.hbm.scrub.getD n 0) ∧ n < s.hbm.corr.length ∧ n < s.hbm.uncorr.length) ∧
    (∃ (s : State) (n off : Nat), n < 8 ∧ s.hbm.selfRefresh = false ∧ s.power.off = false ∧ s.hbm.back.getD n none = some off) := by
  refine ⟨⟨tB, 7, _, ?_, ?_, ?_, ?_, ?_, rfl, ?_, ?_⟩,
    ⟨{ tB with hbm := { tB.hbm with back := List.replicate 8 (some 5) } }, 7, 5, ?_, ?_, ?_, ?_⟩⟩
  all_goals first | decide +kernel

/-- The premises of `ChannelsComplete` can be met. -/
theorem witness_ChannelsComplete :
    (∃ (s : State) (p : Nat) (q : QEntry) (l : Loc), Ready s p 4 q ∧ isOp 0x22 121 120 0 q.word = true ∧ l = issuePos s p 4 ∧
      openBad q.word = false ∧ portReady s p (cpPort q.word) = true ∧ sideOpen (sendSide s (cpPort q.word) (cpCh q.word)) = false ∧
      sideOpen (recvSide s (cpPort q.word) (cpCh q.word)) = false) ∧
    (∃ (s : State) (p : Nat) (q : QEntry) (x : ChanSide), p < 624 ∧ (strmOf (spAt s p) 4).queue.head? = some q ∧ mayIssueWaiting s p = true ∧
      q.marker = none ∧ isOp 0x22 121 120 1 q.word = true ∧ sendBad q.word = false ∧ portReady s p (cpPort q.word) = true ∧
      sendSide s (cpPort q.word) (cpCh q.word) = some x ∧ x.spd = lnum s p ∧ x.credits ≠ 0 ∧ inDist (cpLocal q.word) (x.lines * 64) = true) ∧
    (∃ (s : State) (p t : Nat) (q : QEntry) (x : ChanSide), p < 624 ∧ (strmOf (spAt s p) 4).queue.head? = some q ∧ mayIssueWaiting s p = true ∧
      q.marker = none ∧ isOp 0x22 121 120 1 q.word = true ∧ sendBad q.word = false ∧ portReady s p (cpPort q.word) = true ∧
      sendSide s (cpPort q.word) (cpCh q.word) = some x ∧ x.spd = lnum s p ∧ x.credits = 0 ∧ (strmOf (spAt s p) 4).waitSince = none ∧
      t = issueAt (openPos s p) 4) ∧
    (∃ (s : State) (p : Nat) (q : QEntry) (l : Loc), Ready s p 4 q ∧ isOp 0x22 121 120 2 q.word = true ∧ l = issuePos s p 4 ∧ cpOk q.word = true ∧
      cpCount q.word ≠ 0 ∧ portReady s p (cpPort q.word) = true ∧ boundTo s (recvSide s (cpPort q.word) (cpCh q.word)) p = true) ∧
    (∃ (s : State) (p t : Nat) (q : QEntry) (x : ChanSide), p < 624 ∧ (strmOf (spAt s p) 4).waitSince = some t ∧
      (strmOf (spAt s p) 4).queue.head? = some q ∧ treadleRuns s p 4 = true ∧ isOp 0x22 121 120 1 q.word = true ∧
      sendSide s (cpPort q.word) (cpCh q.word) = some x ∧ x.credits = 0) ∧
    (∃ (s : State) (n ch : Nat) (t : Trans), n < 6 ∧ ch < 8 ∧ (portAt s n).state = 2 ∧ ch < (portAt s n).send.length) ∧
    (∃ (s : State) (n : Nat) (t : Trans) (x : ChanSide), n < 6 ∧ (portAt s n).state = 2 ∧ sendSide s n (t.aux % 8) = some x ∧
      x.credits + t.count ≤ 65535) := by
  refine ⟨⟨(tU (tW 34 [(0, 120)]) id), 0, (tE (tW 34 [(0, 120)])), _, ?_, ?_, rfl, ?_, ?_, ?_, ?_⟩,
    ⟨(tU (tW 34 [(1, 120), (0x1000, 64), (9, 32)]) (fun x => { x with send := [some { tSide with credits := 1 }] })), 0, (tE (tW 34 [(1, 120),
      (0x1000, 64), (9, 32)])), { tSide with credits := 1 }, ?_, ?_, ?_, ?_, ?_, ?_, ?_, ?_, ?_, ?_, ?_⟩,
    ⟨(tU (tW 34 [(1, 120), (0x1000, 64), (9, 32)]) (fun x => { x with send := [some { tSide with credits := 0 }] })), 0, _, (tE (tW 34 [(1, 120),
      (0x1000, 64), (9, 32)])), { tSide with credits := 0 }, ?_, ?_, ?_, ?_, ?_, ?_, ?_, ?_, ?_, ?_, ?_, rfl⟩,
    ⟨(tU (tW 34 [(2, 120), (1, 96)]) (fun x => { x with recv := [some tSide] })), 0, (tE (tW 34 [(2, 120), (1, 96)])), _, ?_, ?_, rfl, ?_, ?_, ?_, ?_⟩,
    ⟨(let s := tU (tW 34 [(1, 120), (0x1000, 64), (9,
      32)]) (fun x => { x with send := [some { tSide with credits := 0 }] }); modSp s 0 fun sp => { sp with streams := modAt sp.streams 4 fun x => { x with waitSince := some 3 } }),
      0, 3, (tE (tW 34 [(1, 120), (0x1000, 64), (9, 32)])), { tSide with credits := 0 }, ?_, ?_, ?_, ?_, ?_, ?_, ?_⟩,
    ⟨(tU (tW 0 []) id), 0, 7, tT, ?_, ?_, ?_, ?_⟩,
    ⟨(tU (tW 0 []) (fun x => { x with send := [some { tSide with credits := 65534 }] })), 0, tT, { tSide with credits := 65534 }, ?_, ?_, ?_, ?_⟩⟩
  all_goals first | decide +kernel | (unfold Ready; decide +kernel)

/-- The premises of `SendTakesOneCredit` can be met. -/
theorem witness_SendTakesOneCredit :
    (∃ (s : State) (p : Nat) (q : QEntry) (x : ChanSide), p < 624 ∧ (strmOf (spAt s p) 4).queue.head? = some q ∧ mayIssueWaiting s p = true ∧
      q.marker = none ∧ isOp 0x22 121 120 1 q.word = true ∧ sendBad q.word = false ∧ portReady s p (cpPort q.word) = true ∧
      sendSide s (cpPort q.word) (cpCh q.word) = some x ∧ x.spd = lnum s p ∧ x.credits ≠ 0 ∧ inDist (cpLocal q.word) (x.lines * 64) = true) := by
  refine ⟨(tU (tW 34 [(1, 120), (0x1000, 64), (9, 32)]) (fun x => { x with send := [some { tSide with credits := 1 }] })), 0, (tE (tW 34 [(1, 120),
      (0x1000, 64), (9, 32)])), { tSide with credits := 1 }, ?_, ?_, ?_, ?_, ?_, ?_, ?_, ?_, ?_, ?_, ?_⟩
  all_goals first | decide +kernel

/-- The premises of `HostTransfersComplete` can be met. -/
theorem witness_HostTransfersComplete :
    (∃ (s : State) (p : Nat) (q : QEntry) (l : Loc), Ready s p 4 q ∧ isOp 0x23 121 121 0 q.word = true ∧ l = issuePos s p 4 ∧
      chostBad q.word = false ∧ (s.hif.xfers.filter fun x => x.pos == p).length < 16) ∧
    (∃ (s : State) (p : Nat) (q : QEntry) (l : Loc), Ready s p 4 q ∧ isOp 0x23 121 121 1 q.word = true ∧ l = issuePos s p 4 ∧
      chostBad q.word = false ∧ (s.hif.xfers.filter fun x => x.pos == p).length < 16) ∧
    (∃ (s : State) (p : Nat) (x : Xfer), p < 624 ∧ (xferOf s p fun x => x.late || decide (x.frame + 2 ≤ s.bell.count)) = some x ∧ x.late = false) ∧
    (∃ (s : State) (p : Nat) (x : Xfer), p < 624 ∧ (xferOf s p fun x => x.late || decide (x.frame + 2 ≤ s.bell.count)) = some x ∧ x.late = true) ∧
    (∃ (s : State) (p : Nat) (x : Xfer), p < 624 ∧
      (xferOf s p fun x => !x.late && decide (x.frame + 2 ≤ if elastic s then s.bell.count + 1 else s.bell.count)) = some x) ∧
    (∃ (s : State) (p : Nat) (x : Xfer), p < 624 ∧ xferOf s p (fun _ => true) = some x) := by
  refine ⟨⟨(tI 4 (tW 35 [(1, 89)])), 0, (tE (tW 35 [(1, 89)])), _, ?_, ?_, rfl, ?_, ?_⟩,
    ⟨(tI 4 (tW 35 [(1, 121), (1, 89)])), 0, (tE (tW 35 [(1, 121), (1, 89)])), _, ?_, ?_, rfl, ?_, ?_⟩,
    ⟨(tXs [tX false]), 0, (tX false), ?_, ?_, ?_⟩,
    ⟨(tXs [tX true]), 0, (tX true), ?_, ?_, ?_⟩,
    ⟨(tXs [tX false]), 0, (tX false), ?_, ?_⟩,
    ⟨(tXs [tX false]), 0, (tX false), ?_, ?_⟩⟩
  all_goals first | decide +kernel | (unfold Ready; decide +kernel)

/-- The premises of `PutMovesTheWindowToTheHost` can be met. -/
theorem witness_PutMovesTheWindowToTheHost :
    (∃ (s : State) (p : Nat) (x : Xfer), MemOk s ∧ p < 624 ∧ (xferOf s p fun x => x.late || decide (x.frame + 2 ≤ s.bell.count)) = some x ∧
      x.late = false ∧ x.get = false) := by
  refine ⟨(tXs [tX false]), 0, (tX false), ?_, ?_, ?_, ?_, ?_⟩
  all_goals first | decide +kernel | (unfold MemOk; decide +kernel)

/-- The premises of `HankCompletes` can be met. -/
theorem witness_HankCompletes :
    (∃ (s : State) (p : Nat) (q : QEntry) (l : Loc), Ready s p 4 q ∧ isOp 0x24 121 120 0 q.word = true ∧ l = issuePos s p 4 ∧
      chBad l.sp.hank.record q.word = false ∧ roomAt l.sp.hank (chLines q.word + 1) (issueAt l 4) = some (issueAt l 4)) ∧
    (∃ (s : State) (p : Nat) (q : QEntry) (l : Loc), Ready s p 4 q ∧ isOp 0x24 121 120 0 q.word = true ∧ l = issuePos s p 4 ∧
      chBad l.sp.hank.record q.word = false ∧ roomAt l.sp.hank (chLines q.word + 1) (issueAt l 4) ≠ some (issueAt l 4)) ∧
    (∃ (s : State) (p : Nat) (w : HankWait), p < 624 ∧ hankWaits s p 0 (openPos s p) = some w) ∧
    (∃ (s : State) (p : Nat) (q : QEntry) (l : Loc) (e : HankEntry), Ready s p 4 q ∧ isOp 0x24 121 120 1 q.word = true ∧ l = issuePos s p 4 ∧
      chBad l.sp.hank.record q.word = false ∧ l.sp.hank.top = some e ∧ e.tag = chTag q.word ∧ e.lines = chLines q.word) ∧
    (∃ (s : State) (p : Nat) (q : QEntry) (l : Loc) (e : HankEntry), Ready s p 4 q ∧ isOp 0x24 121 120 1 q.word = true ∧ l = issuePos s p 4 ∧
      chBad l.sp.hank.record q.word = false ∧ l.sp.hank.top = some e ∧ (e.tag ≠ chTag q.word ∨ e.lines ≠ chLines q.word)) ∧
    (∃ (s : State) (p : Nat) (q : QEntry) (l : Loc), Ready s p 4 q ∧ isOp 0x24 121 120 1 q.word = true ∧ l = issuePos s p 4 ∧
      chBad l.sp.hank.record q.word = false ∧ l.sp.hank.top = none) ∧
    (∃ (s : State) (p : Nat) (w : HankWait), p < 624 ∧ hankWaits s p 0 (openPos s p) = some w ∧
      mayWake (spAt s p).hank w (w.since + chTimeout w.q.word) = false) ∧
    (∃ (s : State) (p : Nat) (w : HankWait), p < 624 ∧ hankWaits s p 1 (openPos s p) = some w ∧
      mayWake (spAt s p).hank w (w.since + chTimeout w.q.word) = false) ∧
    (∃ (s : State) (p : Nat), p < 624 ∧ moverRuns s p = true ∧ (spAt s p).hank.mover = none) ∧
    (∃ (s : State) (p j off t o key : Nat) (m : Mover), p < 624 ∧ moverNext s p = some (m, j, off, t) ∧
      key = grantKey s p m.ready t (lnum s p) true ∧ moverAhead s j (stackOf off) (chanOf off) key = false ∧
      carderAhead s j (stackOf off) (chanOf off) key = false ∧ o = (spAt s p).hank.off (m.ent.line + m.next)) ∧
    (∃ (s : State) (p t : Nat) (m : Mover) (l : Loc), p < 624 ∧ moverDone s p false (spAt s p).hank = some (m, t) ∧
      l = ((openPos s p).at_ t).hankM (fun h => { h with mover := none, region := h.region.tail, cellar := h.cellar ++ [{ m.ent with line := m.cell }] })) ∧
    (∃ (s : State) (p t : Nat) (m : Mover) (l : Loc), p < 624 ∧ moverDone s p true (spAt s p).hank = some (m, t) ∧
      l = ((openPos s p).at_ t).hankM (fun h => { h with mover := none, region := m.ent :: h.region, cellar := h.cellar.dropLast })) := by
  refine ⟨⟨(tK (tW 36 [(5, 104), (0x1000, 64), (9, 32), (1, 8)]) id), 0, (tE (tW 36 [(5, 104), (0x1000, 64), (9, 32), (1, 8)])), _, ?_, ?_, rfl, ?_, ?_⟩,
    ⟨(tK (tW 36 [(5, 104), (0x1000, 64), (9, 32), (1, 8)]) fun h => { h with region := [⟨0, 5, 15, 0, none⟩] }), 0, (tE (tW 36 [(5, 104), (0x1000,
      64), (9, 32), (1, 8)])), _, ?_, ?_, rfl, ?_, ?_⟩,
    ⟨(tK (tW 36 [(5, 104), (0x1000, 64), (9, 32), (1,
      8)]) fun h => { h with wait := some ⟨tE (tW 36 [(5, 104), (0x1000, 64), (9, 32), (1, 8)]), 0⟩ }), 0, ⟨tE (tW 36 [(5, 104), (0x1000, 64), (9,
      32), (1, 8)]), 0⟩, ?_, ?_⟩,
    ⟨(tK (tW 36 [(1, 120), (5, 104), (0x1000, 64), (9, 32), (1, 8)]) fun h => { h with region := [tHe] }), 0, (tE (tW 36 [(1, 120), (5, 104),
      (0x1000, 64), (9, 32), (1, 8)])), _, tHe, ?_, ?_, rfl, ?_, ?_, ?_, ?_⟩,
    ⟨(tK (tW 36 [(1, 120), (5, 104), (0x1000, 64), (9, 32), (1, 8)]) fun h => { h with region := [⟨0, 6, 1, 0, none⟩] }), 0, (tE (tW 36 [(1, 120),
      (5, 104), (0x1000, 64), (9, 32), (1, 8)])), _, ⟨0, 6, 1, 0, none⟩, ?_, ?_, rfl, ?_, ?_, ?_⟩,
    ⟨(tK (tW 36 [(1, 120), (5, 104), (0x1000, 64), (9, 32), (1, 8)]) id), 0, (tE (tW 36 [(1, 120), (5, 104), (0x1000, 64), (9, 32), (1, 8)])), _, ?_,
      ?_, rfl, ?_, ?_⟩,
    ⟨(tK (tW 36 [(5, 104), (0x1000, 64), (9, 32), (1,
      8)]) fun h => { h with region := [⟨0, 5, 15, 0, none⟩], wait := some ⟨tE (tW 36 [(5, 104), (0x1000, 64), (9, 32), (1, 8)]), 0⟩ }), 0,
      ⟨tE (tW 36 [(5, 104), (0x1000, 64), (9, 32), (1, 8)]), 0⟩, ?_, ?_, ?_⟩,
    ⟨(tK (tW 36 [(1, 120), (5, 104), (0x1000, 64), (9, 32), (1,
      8)]) fun h => { h with wait := some ⟨tE (tW 36 [(1, 120), (5, 104), (0x1000, 64), (9, 32), (1, 8)]), 0⟩ }), 0, ⟨tE (tW 36 [(1, 120), (5, 104),
      (0x1000, 64), (9, 32), (1, 8)]), 0⟩, ?_, ?_, ?_⟩,
    ⟨(tK (tW 0 []) id), 0, ?_, ?_, ?_⟩,
    ⟨{ tK (tW 0 []) fun h => { h with mover := some ⟨false, tHe, 0, 1, none, 0⟩ } with hbm := { tB.hbm with credits := [(32, 1)] } }, 0, 0, 64, 0, _,
      _, ⟨false, tHe, 0, 1, none, 0⟩, ?_, ?_, rfl, ?_, ?_, rfl⟩,
    ⟨(tK (tW 0 []) fun h => { h with mover := some ⟨false, tHe, 0, 2, some 3, 0⟩ }), 0, 240, ⟨false, tHe, 0, 2, some 3, 0⟩, _, ?_, ?_, rfl⟩,
    ⟨(tK (tW 0 []) fun h => { h with mover := some ⟨true, tHe, 0, 2, some 3, 0⟩ }), 0, 247, ⟨true, tHe, 0, 2, some 3, 0⟩, _, ?_, ?_, rfl⟩⟩
  all_goals first | decide +kernel | (unfold Ready; decide +kernel)

/-- The premises of `HankIsLastInFirstOut` can be met. -/
theorem witness_HankIsLastInFirstOut :
    (∃ (s : State) (p : Nat) (q : QEntry) (e : HankEntry) (pre : List HankEntry), Ready s p 4 q ∧ isOp 0x24 121 120 1 q.word = true ∧
      chBad (spAt s p).hank.record q.word = false ∧ (spAt s p).hank.region = pre ++ [e] ∧ (∀ x ∈ pre ++ [e], x.popAt = none)) := by
  refine ⟨(tK (tW 36 [(1, 120), (5, 104), (0x1000, 64), (9, 32), (1, 8)]) fun h => { h with region := [tHe] }), 0, (tE (tW 36 [(1, 120), (5, 104),
      (0x1000, 64), (9, 32), (1, 8)])), tHe, [], ?_, ?_, ?_, ?_, ?_⟩
  all_goals first | decide +kernel | (unfold Ready; decide +kernel)

/-- The premises of `FullEmptyOpsComplete` can be met. -/
theorem witness_FullEmptyOpsComplete :
    (∃ (s : State) (p : Nat) (q : QEntry) (l : Loc), Ready s p 4 q ∧ isOp 0x25 121 119 0 q.word = true ∧ l = issuePos s p 4 ∧
      cfeFree s p q.word l.sp = true ∧ cfeBad 0 q.word = false ∧ cfeEvent s p (cfTarget q.word) = none) ∧
    (∃ (s : State) (p : Nat) (q : QEntry) (l : Loc), Ready s p 4 q ∧ isOp 0x25 121 119 1 q.word = true ∧ l = issuePos s p 4 ∧
      cfeFree s p q.word l.sp = true ∧ cfeBad 1 q.word = false ∧ cfeEvent s p (cfTarget q.word) = none) ∧
    (∃ (s : State) (p : Nat) (q : QEntry) (l : Loc), Ready s p 4 q ∧ isOp 0x25 121 119 2 q.word = true ∧ l = issuePos s p 4 ∧
      cfeFree s p q.word l.sp = true ∧ cfeBad 2 q.word = false ∧ cfeEvent s p (cfTarget q.word) = none) ∧
    (∃ (s : State) (p : Nat) (q : QEntry) (l : Loc), Ready s p 4 q ∧ isOp 0x25 121 119 3 q.word = true ∧ l = issuePos s p 4 ∧
      cfeFree s p q.word l.sp = true ∧ cfeBad 3 q.word = false ∧ cfeEvent s p (cfTarget q.word) = none) ∧
    (∃ (s s' : State) (p t : Nat) (r : Reply) (c : CfeArg), p < 624 ∧ live s p = true ∧ takeReply s p (fun r => r.acc.kind == .cfe) = some (r, t,
      s') ∧ r.acc.cfe = some c) ∧
    (∃ (s s' : State) (p t : Nat) (r : Reply) (c : CfeArg), MemOk s ∧ p < 624 ∧ live s p = true ∧ p < s.spindles.length ∧
      takeReply s p (fun r => r.acc.kind == .cfe) = some (r, t, s') ∧ r.acc.cfe = some c ∧ r.timeout = false ∧ (c.op = 1 ∨ c.op = 2) ∧
      (∀ e ∈ (spAt s p).pend, e.off + e.data.length ≤ 8 * c.lword ∨ 8 * c.lword + r.data.length ≤ e.off)) ∧
    (∃ (s : State) (p t : Nat) (w : WaitEntry) (rest : List WaitEntry) (c : CfeArg), p < 624 ∧ nextTake s p (spAt s p) = some (.serve w rest, t) ∧
      w.acc.cfe = some c ∧ t ≤ w.expiry) ∧
    (∃ (s : State) (p : Nat) (w : WaitEntry) (rest : List WaitEntry), p < 624 ∧
      pluckMin (fun _ => true) (·.expiry) (spAt s p).reeler.waits = some (w, rest) ∧ live s p = true ∧ (∀ v t, nextServe (spAt s p) = some (v,
      t) → v = w → w.expiry < t)) := by
  refine ⟨⟨(tI 4 (tW 37 [(0, 119), (1, 86), (9, 54), (0x200, 0)])), 0, (tE (tW 37 [(0, 119), (1, 86), (9, 54), (0x200, 0)])), _, ?_, ?_, rfl, ?_, ?_, ?_⟩,
    ⟨(tI 4 (tW 37 [(1, 119), (1, 86), (9, 54), (0x200, 0)])), 0, (tE (tW 37 [(1, 119), (1, 86), (9, 54), (0x200, 0)])), _, ?_, ?_, rfl, ?_, ?_, ?_⟩,
    ⟨(tI 4 (tW 37 [(2, 119), (1, 86), (9, 54), (0x200, 0)])), 0, (tE (tW 37 [(2, 119), (1, 86), (9, 54), (0x200, 0)])), _, ?_, ?_, rfl, ?_, ?_, ?_⟩,
    ⟨(tI 4 (tW 37 [(3, 119), (1, 86), (9, 54), (0x200, 0)])), 0, (tE (tW 37 [(3, 119), (1, 86), (9, 54), (0x200, 0)])), _, ?_, ?_, rfl, ?_, ?_, ?_⟩,
    ⟨{ tB with fabric := { tB.fabric with replies := [tRep (tCfe 1)] } }, { tB with fabric := { tB.fabric with replies := [] } }, 0, 4,
      (tRep (tCfe 1)), ⟨1, true, 1, 9, 0⟩, ?_, ?_, ?_, ?_⟩,
    ⟨{ tB with fabric := { tB.fabric with replies := [tRep (tCfe 1)] } }, { tB with fabric := { tB.fabric with replies := [] } }, 0, 4,
      (tRep (tCfe 1)), ⟨1, true, 1, 9, 0⟩, ?_, ?_, ?_, ?_, ?_, ?_, ?_, Or.inl (by decide), ?_⟩,
    ⟨(tL fun r => { r with waits := [⟨tCfe 0, 20⟩] }), 0, 0, ⟨tCfe 0, 20⟩, [], ⟨0, true, 1, 9, 0⟩, ?_, rfl, ?_, ?_⟩,
    ⟨(tL fun r => { r with waits := [⟨tCfe 1, 20⟩] }), 0, ⟨tCfe 1, 20⟩, [], ?_, ?_, ?_,
      fun v t h => by cases (show (none : Option (WaitEntry × Nat)) = some (v, t) from h)⟩⟩
  all_goals first | decide +kernel | (unfold MemOk; decide +kernel) | (unfold Ready; decide +kernel)

/-- The premises of `ReelerCompletes` can be met. -/
theorem witness_ReelerCompletes :
    (∃ (s : State) (p : Nat) (q : QEntry) (l : Loc) (l1 : Loc), Ready s p 5 q ∧ isCls 0x28 q.word = true ∧ l = issuePos s p 5 ∧
      rarmBad q.word = false ∧ l1 = l.scrub (raPar q.word) 32 ∧ l1.poisonIn (raPar q.word) 32 = none ∧
      armBad l1 (raBuf q.word) (l1.rdN (raPar q.word) 32) = false) ∧
    (∃ (s : State) (p : Nat) (q : QEntry) (l : Loc) (b : Buffer), Ready s p 5 q ∧ isCls 0x29 q.word = true ∧ l = issuePos s p 5 ∧
      l.sp.reeler.buffers.getD (fld q.word 121 118) none = some b ∧ rcloseBad q.word b = false ∧ rcloseWaits l.sp.reeler b = false) ∧
    (∃ (s : State) (p t occ : Nat) (c : Conv) (rest : List Conv) (l : Loc), p < 624 ∧ (spAt s p).reeler.convs = c :: rest ∧ powered s p = true ∧
      t = max c.at_ (spAt s p).reeler.free ∧ occ = cdiv (linesOf c.buf.base c.buf.bytes) 2 ∧
      l = ((((openPos s p).reel fun x => { x with convs := rest, free := t + occ, cur := none }).at_ t).strm 5 fun x => { x with doneAt := max x.doneAt (t + occ - 1 + 4) }).scrub c.buf.base c.buf.bytes ∧
      l.sp.soonPoison c.buf.base c.buf.bytes = none) ∧
    (∃ (s s1 s' : State) (p t : Nat) (a : Access) (rest : List Access) (l : Loc), p < 624 ∧ s1 = arrivalsBy s p ∧ nextArrival s1 p = some (a, rest) ∧
      arrivalReady s1 p a = true ∧ t = arrivalOf s1 p a ∧ s' = dropFlit { s1 with fabric := { s1.fabric with net := rest } } a false ∧
      l = (openPos s' p).at_ t ∧ l.sp.skipping < 2 ∧ (inCheckpoint s' p && a.via.isSome) = false) ∧
    (∃ (s : State) (p t : Nat), p < 624) := by
  refine ⟨⟨(tR 5 (tW 40 [(64, 32)]) 64 (tF [(0x1000, 0), (4, 32)])), 0, (tE (tW 40 [(64, 32)])), _, _, ?_, ?_, rfl, ?_, rfl, ?_, ?_⟩,
    ⟨(tAt fun sp => tQ 5 (tW 41 [(0x2000, 32)]) { sp with reeler := { sp.reeler with buffers := [some ⟨0x1000, 4, 0, 0⟩] } }), 0,
      (tE (tW 41 [(0x2000, 32)])), _, ⟨0x1000, 4, 0, 0⟩, ?_, ?_, rfl, ?_, ?_, ?_⟩,
    ⟨(tL fun r => { r with convs := [⟨tE (tW 41 [(0x2000, 32)]), ⟨0x1000, 4, 0, 0⟩, 0⟩] }), 0, _, _, ⟨tE (tW 41 [(0x2000, 32)]), ⟨0x1000, 4, 0, 0⟩,
      0⟩, [], _, ?_, ?_, ?_, rfl, rfl, rfl, ?_⟩,
    ⟨{ tB with fabric := { tB.fabric with net := [tAcc] } }, _, _, 0, _, tAcc, [], _, ?_, rfl, ?_, ?_, rfl, rfl, rfl, ?_, ?_⟩,
    ⟨tB, 0, 0, ?_⟩⟩
  all_goals first | decide +kernel | (unfold Ready; decide +kernel)

/-- The premises of `PortTransactionsComplete` can be met. -/
theorem witness_PortTransactionsComplete :
    (∃ (s : State) (n : Nat) (t : Trans), n < 6 ∧ (portAt s n).state = 2) ∧
    (∃ (s : State) (n : Nat) (t : Trans), n < 6 ∧ (portAt s n).state = 2) ∧
    (∃ (s : State) (n : Nat) (t : Trans), n < 6 ∧ (portAt s n).state = 2) ∧
    (∃ (s : State) (n : Nat) (t : Trans), n < 6 ∧ (portAt s n).state = 2) ∧
    (∃ (s : State) (n : Nat) (t : Trans) (x : PlyItem) (rest : List PlyItem), n < 6 ∧ (portAt s n).state = 2 ∧
      pluck (fun x => x.type == 2 && x.src == t.src && x.tag == t.tag) (portAt s n).sent = some (x, rest)) ∧
    (∃ (s : State) (n : Nat) (t : Trans), n < 6 ∧ (portAt s n).state = 2 ∧
      pluck (fun x => x.type == 2 && x.src == t.src && x.tag == t.tag) (portAt s n).sent = none) ∧
    (∃ (s : State) (n : Nat) (t : Trans) (x : PlyItem) (rest : List PlyItem), n < 6 ∧ (portAt s n).state = 2 ∧
      pluck (fun x => x.type == 5 && x.src == t.src && x.tag == t.tag) (portAt s n).sent = some (x, rest)) ∧
    (∃ (s : State) (n : Nat) (t : Trans), n < 6 ∧ (portAt s n).state = 2 ∧
      pluck (fun x => x.type == 5 && x.src == t.src && x.tag == t.tag) (portAt s n).sent = none) ∧
    (∃ (s : State) (n : Nat) (t : Trans), n < 6 ∧ (portAt s n).state = 2) := by
  refine ⟨⟨(tU (tW 0 []) id), 0, tT, ?_, ?_⟩,
    ⟨(tU (tW 0 []) id), 0, tT, ?_, ?_⟩,
    ⟨(tU (tW 0 []) id), 0, tT, ?_, ?_⟩,
    ⟨(tU (tW 0 []) id), 0, tT, ?_, ?_⟩,
    ⟨(tU (tW 0 []) (fun x => { x with sent := [{ PlyItem.blank 2 with accs := [tAcc] }] })), 0, tT, { PlyItem.blank 2 with accs := [tAcc] }, [], ?_,
      ?_, ?_⟩,
    ⟨(tU (tW 0 []) id), 0, tT, ?_, ?_, ?_⟩,
    ⟨(tU (tW 0 []) (fun x => { x with sent := [{ PlyItem.blank 5 with accs := [tCfe 0] }] })), 0, tT, { PlyItem.blank 5 with accs := [tCfe 0] }, [],
      ?_, ?_, ?_⟩,
    ⟨(tU (tW 0 []) id), 0, tT, ?_, ?_, ?_⟩,
    ⟨(tU (tW 0 []) id), 0, tT, ?_, ?_⟩⟩
  all_goals first | decide +kernel

/-- The premises of `PortsComplete` can be met. -/
theorem witness_PortsComplete :
    (∃ (s : State) (n lane : Nat), lane < 17 ∧ n < 6 ∧ (portAt s n).state = 2) ∧
    (∃ (s : State) (n seq sp w : Nat), n < 6 ∧ n < s.ports.length ∧ (portAt s n).request = some (seq, sp, w)) ∧
    (∃ (s : State) (n : Nat) (f : Frame), n < 6 ∧ (portAt s n).state = 2) ∧
    (∃ (s : State) (n : Nat), n < 6 ∧ (portAt s n).state = 2 ∧ 256 ≤ (portAt s n).downFrames ∧ n < s.ports.length) ∧
    (∃ (s s1 u : State) (n w : Nat), n < 6 ∧ ((portAt s n).state = 2 ∨ 0 < (portAt s n).downOut) ∧ w = nextWindow s n ∧ s1 = settleBy s (8000 * w) ∧
      u = modPort s1 n (fun x => { runFrames (8 * w) x with window := w, tx := [] })) ∧
    (∃ (s : State) (n ppb rawIn rawOut cls c : Nat) (signal bad : List Nat) (locked : Locks) (m d : Nat × Nat), n < 6 ∧ n < s.ports.length ∧
      (portAt s n).state = 1 ∧ bad = (List.range 17).filter (fun n => !signal.contains n || !locked.lanes.contains n) ∧
      trainMaps signal locked.lanes locked.txFails = some (m, d) ∧ ppb ≤ 1000 ∧
      (agreeClass (max rawIn rawOut) (max (plyCtrl s n 3 2) cls) 4).1 = some c ∧ s.power.off = false) ∧
    (∃ (s : State) (n : Nat) (failed : List Nat), n < 6 ∧ (portAt s n).state = 1) ∧
    (∃ (s : State) (n : Nat), n < 6 ∧ n < s.ports.length ∧ s.power.off = false ∧ plyCtrl s n 4 4 = 1 ∧ plyCtrl s n 0 0 = 1) := by
  refine ⟨⟨(tU (tW 0 []) id), 0, 16, ?_, ?_, ?_⟩,
    ⟨(tU (tW 0 []) (fun x => { x with request := some (1, 31, 1) })), 0, 1, 31, 1, ?_, ?_, ?_⟩,
    ⟨(tU (tW 0 []) id), 0, tG, ?_, ?_⟩,
    ⟨(tU (tW 0 []) (fun x => { x with downFrames := 256 })), 0, ?_, ?_, ?_, ?_⟩,
    ⟨(tU (tW 0 []) id), _, _, 0, _, ?_, ?_, rfl, rfl, rfl⟩,
    ⟨(tU (tW 0 []) (fun x => { x with state := 1 })), 0, 1000, 5, 7, 0, 0, (List.range 17), _, ⟨List.range 16, []⟩, (0, 31), (0, 31), ?_, ?_, ?_,
      rfl, ?_, ?_, ?_, ?_⟩,
    ⟨(tU (tW 0 []) (fun x => { x with state := 1 })), 0, [16, 17], ?_, ?_⟩,
    ⟨{ tB with regs := { tB.regs with eff := [(0x40000, 17)] } }, 0, ?_, ?_, ?_, ?_, ?_⟩⟩
  all_goals first | decide +kernel

/-- The premises of `BellsComplete` can be met. -/
theorem witness_BellsComplete :
    (∃ (b : BellIn) (s : State), bellRuns s = true ∧ anyUnfinished s = false ∧ anyLate s = false) ∧
    (∃ (b : BellIn) (s : State), bellRuns s = true ∧ elastic s = true ∧ (anyUnfinished s || anyLate s) = true) ∧
    (∃ (s : State) (p k j : Nat), k < 6 ∧ p < 624 ∧ jobAt s p = some j ∧ (jobOf s j).state = 2 ∧ (strmOf (spAt s p) k).en = true ∧
      (strmOf (spAt s p) k).overRaised = false ∧ workSc s p < frameCount s p k) ∧
    (∃ (s : State) (p k : Nat), k < 6 ∧ p < 624 ∧ elastic s = false ∧ bellRuns s = true ∧ unfinished s p k = true) ∧
    (∃ (s : State) (j : Nat), j < 8 ∧ j < s.jobs.length ∧ (jobOf s j).statDue = true) ∧
    (∃ (s : State) (j : Nat), j < 8 ∧ rebDue s j = true) := by
  refine ⟨⟨⟨160, 240, []⟩, tIdle, ?_, tIdle_unfinished, ?_⟩,
    ⟨⟨160, 240, []⟩, (tI 0 (tW 0 [])), ?_, ?_, ?_⟩,
    ⟨(tAt fun sp => tQ 5 (tW 0 []) { sp with clock := { sp.clock with lc := 62260 } }), 0, 5, 0, ?_, ?_, ?_, ?_, ?_, ?_, ?_⟩,
    ⟨{ (tI 0 (tW 0 [])) with regs := { tB.regs with eff := [(0x18, 0), (0x32040, 1)] } }, 0, 0, ?_, ?_, ?_, ?_, ?_⟩,
    ⟨{ tB with jobs := List.replicate 8 { Job.reset with statDue := true } }, 7, ?_, ?_, ?_⟩,
    ⟨{ tB with jobs := [{ Job.reset with state := 2, pwr := { JobPower.reset with rebDue := true } }] }, 0, ?_, ?_⟩⟩
  all_goals first | decide +kernel

/-- The premises of `BellCountsByOne` can be met. -/
theorem witness_BellCountsByOne :
    (∃ (b : BellIn) (s : State), bellRuns s = true ∧ anyUnfinished s = false ∧ anyLate s = false) ∧
    (∃ (b : BellIn) (s : State), (bellRuns s = false ∨ anyUnfinished s = true ∨ anyLate s = true)) := by
  refine ⟨⟨⟨160, 240, []⟩, tIdle, ?_, tIdle_unfinished, ?_⟩,
    ⟨⟨160, 240, []⟩, State.reset, ?_⟩⟩
  all_goals first | decide +kernel

/-- The premises of `RingsComplete` can be met. -/
theorem witness_RingsComplete :
    (∃ (s : State) (r v : Nat), r < 64 ∧ Serving s ∧ sqCtrl s r 0 0 = 1 ∧ v % 65536 < sqSize s r ∧ r < s.hif.sq.length) ∧
    (∃ (s : State) (j v : Nat), j < 8 ∧ Serving s ∧ cqCtrl s j 0 0 = 1 ∧ v % 65536 < cqSize s j ∧ j < s.hif.cq.length) ∧
    (∃ (s : State) (v : Nat), Serving s ∧ cqCtrl s 8 0 0 = 1 ∧ v % 65536 < cqSize s 8 ∧ 8 < s.hif.cq.length) ∧
    (∃ (s : State) (r : Nat) (err recErr : Bool), belfryRuns s = true ∧ s.hif.link = true ∧ s.hif.fetched < 256 ∧ nextRing s = some r) ∧
    (∃ (s : State), s.bell.fired = true ∧ s.power.off = false) := by
  refine ⟨⟨(tEff [(0x317E8, 65)]), 63, 15, ?_, ?_, ?_, ?_, ?_⟩,
    ⟨(tEff [(0x32708, 25)]), 7, 63, ?_, ?_, ?_, ?_, ?_⟩,
    ⟨(tEff [(0x30010, 25)]), 63, ?_, ?_, ?_, ?_⟩,
    ⟨{ tEff [(0x31008, 65)] with hif := { tB.hif with sq := [{ SqRing.reset with tail := 1, seen := 1 }] } }, 0, false, true, ?_, ?_, ?_, ?_⟩,
    ⟨tB, ?_, ?_⟩⟩
  all_goals first | decide +kernel | (unfold Serving; decide +kernel)

/-- The premises of `DoorbellsMoveOneEnd` can be met. -/
theorem witness_DoorbellsMoveOneEnd :
    (∃ (s : State) (r v : Nat), r < 64 ∧ Serving s ∧ sqCtrl s r 0 0 = 1 ∧ v % 65536 < sqSize s r ∧ s.power.sleep ≠ 1) ∧
    (∃ (s : State) (r v : Nat), r < 64 ∧ Serving s ∧ sqCtrl s r 0 0 = 1 ∧ v % 65536 < sqSize s r ∧ s.power.sleep ≠ 1 ∧ (sqAt s r).tail = v % 65536) ∧
    (∃ (s : State) (j v : Nat), j < 8 ∧ Serving s ∧ cqCtrl s j 0 0 = 1 ∧ v % 65536 < cqSize s j ∧ s.power.sleep ≠ 1) ∧
    (∃ (s : State) (v : Nat), Serving s ∧ cqCtrl s 8 0 0 = 1 ∧ v % 65536 < cqSize s 8 ∧ s.power.sleep ≠ 1) ∧
    (∃ (s u : State) (r v : Nat), r < 64 ∧ Serving s ∧ (sqCtrl s r 0 0 = 0 ∨ sqSize s r ≤ v % 65536) ∧
      u = (if sqCtrl s r 0 0 = 0 then s else wakeLight s)) ∧
    (∃ (s u : State) (j v : Nat), j < 8 ∧ Serving s ∧ (cqCtrl s j 0 0 = 0 ∨ cqSize s j ≤ v % 65536) ∧
      u = (if cqCtrl s j 0 0 = 0 then s else wakeLight s)) ∧
    (∃ (s u : State) (v : Nat), Serving s ∧ (cqCtrl s 8 0 0 = 0 ∨ cqSize s 8 ≤ v % 65536) ∧ u = (if cqCtrl s 8 0 0 = 0 then s else wakeLight s)) ∧
    (∃ (s : State) (e : Entry), e.job = none ∧ cqCtrl s 8 0 0 = 0) := by
  refine ⟨⟨(tEff [(0x317E8, 65)]), 63, 15, ?_, ?_, ?_, ?_, ?_⟩,
    ⟨(tEff [(0x317E8, 65)]), 63, 65536, ?_, ?_, ?_, ?_, ?_, ?_⟩,
    ⟨(tEff [(0x32708, 25)]), 7, 63, ?_, ?_, ?_, ?_, ?_⟩,
    ⟨(tEff [(0x30010, 25)]), 63, ?_, ?_, ?_, ?_⟩,
    ⟨(tEff [(0x317E8, 65)]), _, 63, 16, ?_, ?_, ?_, rfl⟩,
    ⟨(tEff [(0x32708, 25)]), _, 7, 64, ?_, ?_, ?_, rfl⟩,
    ⟨(tEff [(0x30010, 25)]), _, 64, ?_, ?_, rfl⟩,
    ⟨tB, { job := none, type := 1, code := 0x800, body := 0, frame := 0 }, ?_, ?_⟩⟩
  all_goals first | decide +kernel | (unfold Serving; decide +kernel)

/-- The premises of `DescriptorsComplete` can be met. -/
theorem witness_DescriptorsComplete :
    (∃ (s : State) (r : Nat) (d : Desc), r < 64 ∧ startOf s r 0 = some d) ∧
    (∃ (s : State) (r : Nat) (d : Desc), r < 64 ∧ startOf s r 1 = some d ∧ startReason s d.job d.record = none ∧ d.job < s.jobs.length) ∧
    (∃ (s : State) (r : Nat) (d : Desc), r < 64 ∧ startOf s r 2 = some d ∧ jobRuns s d.job = true) ∧
    (∃ (s : State) (r : Nat) (d : Desc), r < 64 ∧ startOf s r 2 = some d ∧ jobRuns s d.job = false) ∧
    (∃ (s : State) (r : Nat) (d : Desc), r < 64 ∧ startOf s r 3 = some d ∧ (copyHost d = true → s.hif.link = true)) ∧
    (∃ (s s' : State) (r : Nat) (d : Desc) (l : List Byte), r < 64 ∧ startOf s r 4 = some d ∧ s.hif.link = true ∧
      hostBad s (d.f 191 128) (32 * d.f 207 192) = false ∧ l = hostRead s (d.f 191 128) (32 * d.f 207 192) ∧
      s' = payBytes s (descKey d.ring d.idx) (32 * d.f 207 192) ∧ ((List.range (d.f 207 192)).all fun i => snapOk s' d.job (snapRange l i)) = true) ∧
    (∃ (s : State) (j : Nat), j < 8 ∧ moversAhead s = false) ∧
    (∃ (s : State) (j : Nat), j < 8 ∧ moversAhead s = true) ∧
    (∃ (s : State) (r : Nat) (d : Desc), r < 64 ∧ startOf s r 5 = some d ∧ (jobOf s d.job).state = 2 ∧ ckptOutstanding s d = false ∧
      hostOrHbm (d.f 191 128) (d.f 255 192) = true ∧ ckptLeast s d.job ≤ d.f 255 192 ∧ d.job < s.jobs.length) ∧
    (∃ (s : State) (j : Nat) (c : Ckpt), j < 8 ∧ j < s.jobs.length ∧ takeDue s (jobOf s j) = true ∧ (jobOf s j).ckpt = some c) ∧
    (∃ (s : State) (r : Nat) (d : Desc), r < 64 ∧ startOf s r 6 = some d ∧ (jobOf s d.job).state = 0 ∧ ckptOutstanding s d = false ∧
      restoreOutstanding s d = false ∧ (inHost (d.f 191 128) = true → s.hif.link = true) ∧
      restoreReason (restoreHeader s d).2 d (restoreHeader s d).1 = none ∧ d.job < s.jobs.length) ∧
    (∃ (s s1 : State) (j n : Nat) (m : List Byte) (rest : List (Nat × Nat)), s.repair.queue = (j, n) :: rest ∧ refillRuns s = true ∧
      m = (getKey n (jobOf s j).mirrors).getD [] ∧
      s1 = refillMirrors m n (modSp s (posOf s n) fun sp => { sp with distaff := { Distaff.reset with scrub := sp.distaff.scrub } })) ∧
    (∃ (s : State) (ok : Bool) (x : RcptReq) (rest : List RcptReq), s.hif.receipts = x :: rest ∧ belfryRuns s = true ∧ s.hif.link = true ∧
      s.hif.signed < 32) := by
  refine ⟨⟨(tDs (tD 0 []) tB), 0, (tD 0 []), ?_, ?_⟩,
    ⟨(tDs ({ tD 1 [] with record := leBytes 128 (tF [(0x7F, 8), (1, 16), (1, 288), (0x10000000000000, 320), (1, 384)]) }) tIdle), 0,
      ({ tD 1 [] with record := leBytes 128 (tF [(0x7F, 8), (1, 16), (1, 288), (0x10000000000000, 320), (1, 384)]) }), ?_, ?_, ?_, ?_⟩,
    ⟨(tDs (tD 2 []) tB), 0, (tD 2 []), ?_, ?_, ?_⟩,
    ⟨(tDs (tD 2 []) tIdle), 0, (tD 2 []), ?_, ?_, ?_⟩,
    ⟨(tDs (tD 3 [(0x10000000000, 128), (0x10000000000000, 192), (1, 288)]) tB), 0, (tD 3 [(0x10000000000, 128), (0x10000000000000, 192), (1, 288)]),
      ?_, ?_, ?_⟩,
    ⟨{ tB with hif := { tB.hif with descs := [tD 4 [(0x40, 128), (1, 192)]], host := memWrite [] 0x40 (leBytes 32 (tF [(0x10000000000, 0), (0x10000000000000, 64), (64, 128)])) } },
      _, 0, (tD 4 [(0x40, 128), (1, 192)]), _, ?_, ?_, ?_, ?_, rfl, rfl, ?_⟩,
    ⟨tB, 7, ?_, ?_⟩,
    ⟨tRefill, 7, ?_, ?_⟩,
    ⟨(tDs (tD 5 [(0x10000000000000, 128), (0x2000000, 192)]) tB), 0, (tD 5 [(0x10000000000000, 128), (0x2000000, 192)]), ?_, ?_, ?_, ?_, ?_, ?_, ?_⟩,
    ⟨{ tB with jobs := [{ Job.reset with state := 2, closeBell := true, ckpt := some ⟨0, 0, 0x10000000000000, 0x2000000, false, false, 4, [], ⟨[], [], Flow.none⟩⟩ }] },
      0, ⟨0, 0, 0x10000000000000, 0x2000000, false, false, 4, [], ⟨[], [], Flow.none⟩⟩, ?_, ?_, ?_, ?_⟩,
    ⟨{ tDs (tD 6 [(0x10000000000, 128), (4096 + sectionSize, 192)]) tIdle with hbm := { tB.hbm with mem := memWrite [] 0 (leBytes 0x180 (tF [(0x5A56434B, 0), (1, 32), (1, 48), (4096 + sectionSize, 64), (1, 0x540), (0x7F, 0x788), (1, 0x790), (1, 0x8A0), (0x10000000000000, 0x8C0), (1, 0x900), (0xFF, 0xBD8)])) } },
      0, (tD 6 [(0x10000000000, 128), (4096 + sectionSize, 192)]), ?_, ?_, ?_, ?_, ?_, ?_, ?_, ?_⟩,
    ⟨tRefill, _, 0, 0, _, [], ?_, ?_, rfl, rfl⟩,
    ⟨{ tB with hif := { tB.hif with receipts := [⟨1, 0, 0, 0, 0, 0, 0, 0, [], 0, 0, 0, none⟩] } }, true, ⟨1, 0, 0, 0, 0, 0, 0, 0, [], 0, 0, 0, none⟩,
      [], ?_, ?_, ?_, ?_⟩⟩
  all_goals first | decide +kernel

/-- The premises of `HostLinkCompletes` can be met. -/
theorem witness_HostLinkCompletes :
    (∃ (s : State) (off n : Nat), cxlOpen s = true ∧ cxlCovers off n = true ∧ s.power.sleep ≠ 1) ∧
    (∃ (s : State) (off : Nat) (bs : List Byte), cxlOpen s = true ∧ cxlCovers off bs.length = true ∧ s.power.sleep ≠ 1 ∧ MemOk s) ∧
    (∃ (s : State) (off n : Nat), cxlOpen s = true ∧ cxlCovers off n = true ∧ s.power.sleep = 1) ∧
    (∃ (s : State) (off : Nat) (bs : List Byte), cxlOpen s = true ∧ cxlCovers off bs.length = true ∧ s.power.sleep = 1) ∧
    (∃ (b : BellIn) (s : State), bellRuns s = true ∧ anyUnfinished s = false ∧ anyLate s = false ∧ s.power.wakeDue = true) ∧
    (∃ (s : State), MemOk s ∧ s.power.wakeDue = true) ∧
    (∃ (s : State) (off : Nat) (data : Option Nat), s.hif.link = true ∧ s.power.step ≠ 14 ∧ s.keep.stopped = false) ∧
    (∃ (s : State) (off o : Nat), s.hif.link = true ∧ (s.power.step = 14 ∨ s.keep.stopped = true) ∧ o = off % 4096 / 4 * 4) ∧
    (∃ (s : State) (off v : Nat), s.hif.link = true ∧ (s.power.step = 14 ∨ s.keep.stopped = true)) ∧
    (∃ (s : State) (line : Nat), s.hif.link = true) ∧
    (∃ (s : State), s.hif.link = true) ∧
    (∃ (s : State) (width : Nat) (fast : Bool), s.hif.perst = false ∧ 3 ≤ s.power.step ∧ s.power.off = false ∧ s.hif.link = false ∧
      (width = 1 ∨ width = 2)) ∧
    (∃ (s : State), s.hif.perst = true) := by
  refine ⟨⟨tB, 0, 64, ?_, ?_, ?_⟩,
    ⟨tB, 63, [7#8], ?_, ?_, ?_, ?_⟩,
    ⟨(tPower 14 1 tB), 0, 64, ?_, ?_, ?_⟩,
    ⟨(tPower 14 1 tB), 63, [7#8], ?_, ?_, ?_⟩,
    ⟨⟨160, 240, []⟩, tWake, ?_, tWake_unfinished, ?_, ?_⟩,
    ⟨tWake, ?_, ?_⟩,
    ⟨(tPower 13 0 tB), 0, none, ?_, ?_, ?_⟩,
    ⟨tB, 0, _, ?_, ?_, rfl⟩,
    ⟨tB, 0, 7, ?_, ?_⟩,
    ⟨tB, 5, ?_⟩,
    ⟨tB, ?_⟩,
    ⟨{ tB with hif := { tB.hif with link := false } }, 1, true, ?_, ?_, ?_, ?_, ?_⟩,
    ⟨State.reset, ?_⟩⟩
  all_goals first | decide +kernel | (unfold MemOk; decide +kernel)

/-- The premises of `MailboxAndSidebandAnswer` can be met. -/
theorem witness_MailboxAndSidebandAnswer :
    (∃ (s : State), doeOpen s = true) ∧
    (∃ (s : State), doeOpen s = true) ∧
    (∃ (s : State), doeOpen s = true) ∧
    (∃ (s : State), doeOpen s = true) ∧
    (∃ (s : State) (slot off len : Nat), doeOpen s = true) ∧
    (∃ (s : State) (slot : Nat) (nonce : List Byte), doeOpen s = true ∧ slot < 2) ∧
    (∃ (s : State) (slot : Nat) (nonce : List Byte), doeOpen s = true ∧ 2 ≤ slot) ∧
    (∃ (s : State) (index slot : Nat) (nonce : List Byte), doeOpen s = true ∧ slot < 2 ∧ (index ≤ 6 ∨ index = 0xFF)) ∧
    (∃ (s : State) (code : Nat), doeOpen s = true) ∧
    (∃ (s : State) (index : Nat), doeOpen s = true) ∧
    (∃ (s : State), doeOpen s = true) ∧
    (∃ (s : State), doeOpen s = true) ∧
    (∃ (s : State) (entry : Nat), doeOpen s = true ∧ 2 ≤ entry) ∧
    (∃ (s : State), belfryUp s = true) ∧
    (∃ (s : State), belfryUp s = true) ∧
    (∃ (s : State), belfryUp s = true) ∧
    (∃ (s : State) (type m : Nat), belfryUp s = true ∧ pldmCmds type = some m) ∧
    (∃ (s : State) (type : Nat), belfryUp s = true ∧ pldmCmds type = none) ∧
    (∃ (s : State) (handle : Nat), belfryUp s = true) ∧
    (∃ (s : State), belfryUp s = true) ∧
    (∃ (s : State) (sensor : Nat) (v : Int), belfryUp s = true ∧ sensorValue s sensor = some v) ∧
    (∃ (s : State) (sensor : Nat), belfryUp s = true ∧ 8 ≤ sensor) ∧
    (∃ (s : State) (sensor v : Nat), belfryUp s = true ∧ stateValue s sensor = some v) ∧
    (∃ (s : State) (sensor : Nat), belfryUp s = true ∧ 9 ≤ sensor) ∧
    (∃ (s : State) (addr : Nat), belfryUp s = true) ∧
    (∃ (s : State) (a : Nat) (m : List Byte) (rest : List (List Byte)), belfryUp s = true ∧ s.hif.evRecv = some a ∧ s.hif.alerts = m :: rest) := by
  refine ⟨⟨tB, ?_⟩,
    ⟨tB, ?_⟩,
    ⟨tB, ?_⟩,
    ⟨tB, ?_⟩,
    ⟨tB, 1, 0, 16, ?_⟩,
    ⟨tB, 1, [], ?_, ?_⟩,
    ⟨tB, 2, [], ?_, ?_⟩,
    ⟨tB, 6, 1, [], ?_, ?_, ?_⟩,
    ⟨tB, 0x12, ?_⟩,
    ⟨tB, 3, ?_⟩,
    ⟨tB, ?_⟩,
    ⟨tB, ?_⟩,
    ⟨tB, 2, ?_, ?_⟩,
    ⟨tBel, ?_⟩,
    ⟨tBel, ?_⟩,
    ⟨tBel, ?_⟩,
    ⟨tBel, 0, 60, ?_, ?_⟩,
    ⟨tBel, 1, ?_, ?_⟩,
    ⟨tBel, 0, ?_⟩,
    ⟨tBel, ?_⟩,
    ⟨tBel, 4, 0, ?_, ?_⟩,
    ⟨tBel, 8, ?_, ?_⟩,
    ⟨tBel, 8, 0, ?_, ?_⟩,
    ⟨tBel, 9, ?_, ?_⟩,
    ⟨tBel, 8, ?_⟩,
    ⟨{ tBel with hif := { tB.hif with evRecv := some 8, alerts := [[0#8]] } }, 8, [0#8], [], ?_, ?_, ?_⟩⟩
  all_goals first | decide +kernel

/-- The premises of `RegistersComplete` can be met. -/
theorem witness_RegistersComplete :
    (∃ (s : State) (off n v : Nat), legalAcc off n = true ∧ Serving s ∧ off < 0x400000 ∧ off ≠ 0x40 ∧ off ≠ 0x80008) ∧
    (∃ (s : State) (n v : Nat), legalAcc 0x40 n = true ∧ Serving s ∧ v.testBit 0 = true) ∧
    (∃ (s : State) (tag : Nat), Serving s) ∧
    (∃ (s : State) (off n : Nat), legalAcc off n = true ∧ Serving s ∧ off < 0x100000 ∧ off % 8 = 0) ∧
    (∃ (s : State) (p : Nat), p < 624) ∧
    (∃ (s : State) (site t0 : Nat), (siteAt s site).blindAt = some t0 ∧ site < 640 ∧ s.bell.refTime < t0 + blindTime ∧ site < s.thermal.sites.length) := by
  refine ⟨⟨tB, 0x3FFFF8, 8, 1, ?_, ?_, ?_, ?_, ?_⟩,
    ⟨tB, 4, 0xFF01, ?_, ?_, ?_⟩,
    ⟨tB, 5, ?_⟩,
    ⟨tB, 0xFFFF8, 8, ?_, ?_, ?_, ?_⟩,
    ⟨tB, 623, ?_⟩,
    ⟨(tSite 639 { Site.reset with blindAt := some 5 }), 639, 5, ?_, ?_, ?_, ?_⟩⟩
  all_goals first | decide +kernel | (unfold Serving; decide +kernel)

/-- The premises of `SyncErrorIsReadInThreeWords` can be met. -/
theorem witness_SyncErrorIsReadInThreeWords :
    (∃ (s : State) (p : Nat), p < 624 ∧ Serving s) ∧
    (∃ (s : State) (p r : Nat), p < 624 ∧ Serving s ∧ getKey p s.syncCap = some r) ∧
    (∃ (s : State) (p : Nat), p < 624 ∧ Serving s ∧ getKey p s.syncCap = none) := by
  refine ⟨⟨tB, 623, ?_, ?_⟩,
    ⟨{ tB with syncCap := [(623, 5)] }, 623, 5, ?_, ?_, ?_⟩,
    ⟨tB, 623, ?_, ?_, ?_⟩⟩
  all_goals first | decide +kernel | (unfold Serving; decide +kernel)

/-- The premises of `KeepOperationsComplete` can be met. -/
theorem witness_KeepOperationsComplete :
    (∃ (s : State), opRuns s 1 = true) ∧
    (∃ (s : State) (d : Bool), opRuns s 1 = true) ∧
    (∃ (s : State) (c : Bool), opRuns s 2 = true) ∧
    (∃ (s : State) (c : Bool), opRuns s 2 = true) ∧
    (∃ (s : State) (c : Bool), opRuns s 3 = true) ∧
    (∃ (s : State), opRuns s 4 = true) ∧
    (∃ (s : State) (b : Bool), opRuns s 4 = true) := by
  refine ⟨⟨(tOp 1), ?_⟩,
    ⟨(tOp 1), true, ?_⟩,
    ⟨(tOp 2), true, ?_⟩,
    ⟨(tOp 2), false, ?_⟩,
    ⟨(tOp 3), true, ?_⟩,
    ⟨(tOp 4), ?_⟩,
    ⟨(tOp 4), true, ?_⟩⟩
  all_goals first | decide +kernel

/-- The premises of `PowerAndSleepComplete` can be met. -/
theorem witness_PowerAndSleepComplete :
    (∃ (s : State) (us : Nat) (fires : List Nat), us < 10) ∧
    (∃ (s : State) (us : Nat) (fires : List Nat), 10 ≤ us) ∧
    (∃ (s : State) (e : PowerUp), s.power.reset = true ∧ (s.thermal.tripped || s.thermal.vinOff) = true) ∧
    (∃ (s : State) (e : PowerUp), s.power.reset = true ∧ s.thermal.tripped = false ∧ s.thermal.vinOff = false ∧ e.vinOk = true) ∧
    (∃ (s : State) (e : PowerUp), s.power.reset = true ∧ s.thermal.tripped = false ∧ s.thermal.vinOff = false ∧ e.vinOk = false) ∧
    (∃ (s : State) (e : PowerUp), s.power.waiting = some e) ∧
    (∃ (s : State) (us : Nat), 1 ≤ us ∧ s.power.sleep ≠ 0) ∧
    (∃ (s : State) (us : Nat), (us < 1 ∨ s.power.sleep = 0)) ∧
    (∃ (s : State), sleepDue s 0 = true ∧ s.power.sleep = 1) ∧
    (∃ (s : State), sleepDue s 1 = true ∧ s.power.sleep = 0) ∧
    (∃ (s : State), sleepDue s 2 = true) := by
  refine ⟨⟨tB, 9, [], ?_⟩,
    ⟨tB, 10, [5], ?_⟩,
    ⟨{ State.reset with thermal := { State.reset.thermal with tripped := true } }, tPu, ?_, ?_⟩,
    ⟨State.reset, tPu, ?_, ?_, ?_, ?_⟩,
    ⟨State.reset, { tPu with vinOk := false }, ?_, ?_, ?_, ?_⟩,
    ⟨{ State.reset with power := { State.reset.power with waiting := some tPu } }, tPu, ?_⟩,
    ⟨(tPower 14 2 tB), 1, ?_, ?_⟩,
    ⟨(tPower 14 2 tB), 0, ?_⟩,
    ⟨{ tPower 14 1 tB with power := { tB.power with sleep := 1, modeAt := some 5 } }, ?_, ?_⟩,
    ⟨(let s := tEff [(0x50, 1)]; { s with power := { s.power with modeAt := some 5 } }), ?_, ?_⟩,
    ⟨(let s := tEff [(0x50, 2)]; { s with power := { s.power with modeAt := some 5 } }), ?_⟩⟩
  all_goals first | decide +kernel

/-- The premises of `FailedIdentityStopsTheBoot` can be met. -/
theorem witness_FailedIdentityStopsTheBoot :
    (∃ (s : State) (e : PowerUp), s.power.reset = true ∧ s.thermal.tripped = false ∧ s.thermal.vinOff = false ∧ e.vinOk = true ∧ e.pllFail = none ∧
      e.pufOk = false) := by
  refine ⟨State.reset, { tPu with pufOk := false }, ?_, ?_, ?_, ?_, ?_, ?_⟩
  all_goals first | decide +kernel

/-- The premises of `LanternCompletes` can be met. -/
theorem witness_LanternCompletes :
    (∃ (x : Sample) (s : State), s.power.off = false ∧ s.bell.held = false) ∧
    (∃ (s : State) (p : Nat) (rs : List Nat), p < 624 ∧ p < s.spindles.length ∧ readsBelow s p rs (droopAt s p) = true) ∧
    (∃ (s : State) (p lost : Nat) (rs : List Nat), p < 624 ∧ p < s.spindles.length ∧ (spAt s p).clock.stretching = true ∧
      readsBelow s p rs (droopAt s p + stf s 0x10008 15 8) = false) ∧
    (∃ (s : State) (p : Nat) (rs : List Nat), p < 624 ∧ p < s.spindles.length ∧ p < s.lantern.pos.length ∧ (pwAt s p).mv ≠ (pwAt s p).target ∧
      s.power.off = false ∧ (spAt s p).clock.stretching = false ∧ readsBelow s p rs (droopAt s p) = false) ∧
    (∃ (s : State) (p phase : Nat), phase < 4 ∧ p < 624 ∧ p < s.lantern.pos.length ∧ (pwAt s p).phfail = [] ∧ (pwAt s p).dark = false ∧
      atEdge p = false) ∧
    (∃ (s : State) (p : Nat), p < 624 ∧ p < s.lantern.pos.length ∧ (pwAt s p).dark = false) ∧
    (∃ (s : State) (i : Nat), i < 4 ∧ (spireAt s i).edgeFail < 4) ∧
    (∃ (s : State) (i : Nat), i < 4 ∧ (spireAt s i).edgeFail = 4) ∧
    (∃ (s : State) (i : Nat), i < 4 ∧ s.power.vaon = true) ∧
    (∃ (s : State) (b : Background), s.power.off = false) ∧
    (∃ (s : State) (p ro0 ro1 c0 c1 : Nat) (corr : Int × Int) (ok : Bool), p < 624 ∧ p < s.lantern.pos.length ∧ c0 = corrected ro0 corr.1 ∧
      c1 = corrected ro1 corr.2 ∧ s.bell.fired = true ∧ (pwAt s p).dark = false ∧ ((pwAt s p).agedAt = none ∨ ∃ b, (pwAt s p).agedAt = some b ∧
      b + 4096 ≤ s.bell.count) ∧ needSteps (roTest s p) (c0 % 2 ^ 16 + c1 % 2 ^ 16) ≤ (pwAt s p).margin) ∧
    (∃ (s : State) (p : Nat), p < 624 ∧ p < s.lantern.pos.length ∧ s.power.off = false ∧
      ((((List.range 156).map fun k => 156 * spireOf p + k).filter fun q => (pwAt s q).wake == 3).length < 16) ∧
      ((List.range 156).map fun k => 156 * spireOf p + k).find? (rampReady s) = some p) ∧
    (∃ (s : State) (p u : Nat) (rec : Bool) (rs : List (Nat × List Nat)), p < 624 ∧ p < s.lantern.pos.length ∧ (pwAt s p).wake = 3 ∧
      rampHeld s p rs = false ∧ s.power.off = false ∧
      u = (if rec then max ((pwAt s p).rampAt + 2100) (s.bell.refTime + 256) else (pwAt s p).rampAt + 2100)) ∧
    (∃ (s : State) (p : Nat) (rec : Bool) (rs : List (Nat × List Nat)), p < 624 ∧ rampHeld s p rs = true) ∧
    (∃ (s : State) (p : Nat), p < 624 ∧ p < s.lantern.pos.length ∧ stf s 0x10000 19 12 ≠ 0 ∧ stf s 0x10000 19 12 < (pwAt s p).idle ∧
      jobAt s p = none ∧ (pwAt s p).dark = false ∧ (pwAt s p).wake = 0 ∧ refilling s p = none) ∧
    (∃ (s : State) (p : Nat), p < 624 ∧ p < s.spindles.length ∧ (spAt s p).skipping = 1) := by
  refine ⟨⟨⟨[], [], [], [], [], 0, []⟩, tB, ?_, ?_⟩,
    ⟨tB, 0, (List.replicate 8 100), ?_, ?_, ?_⟩,
    ⟨(tAt fun sp => { sp with clock := { sp.clock with stretching := true } }), 0, 3, (List.replicate 8 400), ?_, ?_, ?_, ?_⟩,
    ⟨(tPw fun x => { x with target := 451 }), 0, (List.replicate 8 400), ?_, ?_, ?_, ?_, ?_, ?_, ?_⟩,
    ⟨tB, 13, 3, ?_, ?_, ?_, ?_, ?_, ?_⟩,
    ⟨tB, 0, ?_, ?_, ?_⟩,
    ⟨{ tB with lantern := { tB.lantern with spire := List.replicate 4 { SpirePower.reset with edgeFail := 3 } } }, 3, ?_, ?_⟩,
    ⟨{ tB with lantern := { tB.lantern with spire := List.replicate 4 { SpirePower.reset with edgeFail := 4 } } }, 3, ?_, ?_⟩,
    ⟨tB, 3, ?_, ?_⟩,
    ⟨tB, ⟨[], [], []⟩, ?_⟩,
    ⟨tB, 0, 32760, 32768, _, _, (8, 0), true, ?_, ?_, rfl, rfl, ?_, ?_, ?_, ?_⟩,
    ⟨(tPw fun x => { x with wake := 2, ready := true }), 0, ?_, ?_, ?_, ?_, ?_⟩,
    ⟨(tPw fun x => { x with wake := 3, step := 6 }), 0, _, true, [(0, (List.replicate 8 400))], ?_, ?_, ?_, ?_, ?_, rfl⟩,
    ⟨(tPw fun x => { x with wake := 3, step := 7 }), 0, false, [(0, (List.replicate 8 100))], ?_, ?_⟩,
    ⟨{ tPw (fun x => { x with idle := 17 }) with jobs := List.replicate 8 Job.reset }, 0, ?_, ?_, ?_, ?_, ?_, ?_, ?_, ?_⟩,
    ⟨(tAt fun sp => { sp with skipping := 1 }), 0, ?_, ?_, ?_⟩⟩
  all_goals first | decide +kernel

/-- The premises of `ThermalCompletes` can be met. -/
theorem witness_ThermalCompletes :
    (∃ (s : State) (site sens : Nat), sens < 2 ∧ site < 640 ∧ site < s.thermal.sites.length ∧ (siteAt s site).excl = []) ∧
    (∃ (s : State) (site sens : Nat), sens < 2 ∧ site < 640 ∧ site < s.thermal.sites.length ∧ (siteAt s site).excl = [1 - sens]) ∧
    (∃ (s : State) (site t0 : Nat), site < 640 ∧ (siteAt s site).blindAt = some t0 ∧ (siteAt s site).acked = false ∧ s.thermal.tripped = false ∧
      s.power.vaon = true) ∧
    (∃ (s : State) (site : Nat), site < 632 ∧ s.thermal.tripped = false ∧ s.power.vaon = true) ∧
    (∃ (s : State) (h : Nat), h < 8 ∧ s.thermal.tripped = false ∧ s.power.vaon = true) ∧
    (∃ (s : State) (cause site reading : Nat), (s.thermal.tripped = true ∨ s.power.vaon = false)) := by
  refine ⟨⟨tB, 639, 1, ?_, ?_, ?_, ?_⟩,
    ⟨(tSite 639 { Site.reset with excl := [0] }), 639, 1, ?_, ?_, ?_, ?_⟩,
    ⟨(tSite 639 { Site.reset with blindAt := some 5 }), 639, 5, ?_, ?_, ?_, ?_, ?_⟩,
    ⟨tB, 631, ?_, ?_, ?_⟩,
    ⟨tB, 7, ?_, ?_, ?_⟩,
    ⟨{ tB with thermal := { tB.thermal with tripped := true } }, 0, 5, 100, ?_⟩⟩
  all_goals first | decide +kernel

/-- The premises of `TripPinsAreLow` can be met. -/
theorem witness_TripPinsAreLow :
    (∃ (s : State), s.power.vaon = false) ∧
    (∃ (s : State) (cause site reading : Nat), s.thermal.tripped = false ∧ s.power.vaon = true) ∧
    (∃ (s : State) (i : Nat), i < 4 ∧ s.power.vaon = true) ∧
    (∃ (s : State), s.power.vaon = true ∧ (s.pins.tap = 3 ∨ s.pins.tap = 4 ∨ s.pins.tap = 5 ∨ s.pins.tap = 7)) ∧
    (∃ (s : State) (tap : Nat) (cells : List Bool), s.power.vaon = true) := by
  refine ⟨⟨{ tB with power := { tB.power with vaon := false } }, ?_⟩,
    ⟨tB, 0, 5, 100, ?_, ?_⟩,
    ⟨tB, 3, ?_, ?_⟩,
    ⟨{ tB with pins := { tB.pins with tap := 3 } }, ?_, ?_⟩,
    ⟨tB, 4, [], ?_⟩⟩
  all_goals first | decide +kernel

/-- The premises of `FaultsComplete` can be met. -/
theorem witness_FaultsComplete :
    (∃ (s : State) (p k : Nat), p < 624 ∧ p < s.spindles.length ∧ (k < 6 ∨ k = 7) ∧ (spAt s p).service.oos = false) ∧
    (∃ (s : State) (p k : Nat), p < 624 ∧ p < s.spindles.length ∧ k < 6 ∧ (afterIssue s p k).isSome = true ∧ (spAt s p).service.oos = false) ∧
    (∃ (s : State) (src : Nat), src < 5) ∧
    (∃ (s : State) (p w bit : Nat), p < 624 ∧ p < s.spindles.length ∧ w < distSize / 8 ∧ bit < 72 ∧ (spAt s p).distaff.poison.contains w = false) ∧
    (∃ (s : State) (p i bit : Nat), p < 624 ∧ i < 2 ^ 19 ∧ bit < 128) ∧
    (∃ (s : State) (p i bit : Nat), p < 624 ∧ i < 4096 ∧ bit < 512) ∧
    (∃ (s : State) (p line bit : Nat), line < 12000000000 ∧ bit < 576 ∧ s.hbm.poison.contains line = false) := by
  refine ⟨⟨tB, 623, 7, ?_, ?_, ?_, ?_⟩,
    ⟨(tI 0 (tW 0 [(5, 32)])), 0, 0, ?_, ?_, ?_, ?_, ?_⟩,
    ⟨tB, 4, ?_⟩,
    ⟨tB, 623, 3670015, 71, ?_, ?_, ?_, ?_, ?_⟩,
    ⟨tB, 623, 524287, 127, ?_, ?_, ?_⟩,
    ⟨tB, 623, 4095, 511, ?_, ?_, ?_⟩,
    ⟨tB, 0, 11999999999, 575, ?_, ?_, ?_⟩⟩
  all_goals first | decide +kernel

/-- The premises of `BoundaryScanCompletes` can be met. -/
theorem witness_BoundaryScanCompletes :
    (∃ (s : State) (code : Nat), tapRuns s = true) ∧
    (∃ (s : State), tapRuns s = true) ∧
    (∃ (s : State), tapRuns s = true) ∧
    (∃ (s : State) (cells : List Bool) (ser : Bool), s.pins.trstHigh = false ∧ s.power.vaon = true ∧ s.pins.tap = 1) ∧
    (∃ (s : State) (i : Nat), i < 102 ∧ s.power.vaon = true ∧ (s.pins.tap = 3 ∨ s.pins.tap = 4 ∨ s.pins.tap = 5 ∨ s.pins.tap = 7)) ∧
    (∃ (s : State) (cells : List Bool) (ser : Bool), tapRuns s = true ∧ cells.length = 248) ∧
    (∃ (s : State) (cells : List Bool) (ser : Bool), tapRuns s = true ∧ s.power.reset = true ∧ cells.length = 248) ∧
    (∃ (s : State) (cells : List Bool) (ser : Bool), tapRuns s = true ∧ s.power.reset = true ∧ cells.length = 248) ∧
    (∃ (s : State) (cells : List Bool) (ser : Bool), tapRuns s = true ∧ s.power.reset = true ∧ cells.length = 248) ∧
    (∃ (s : State) (cells : List Bool) (ser : Bool), tapRuns s = true ∧ s.power.reset = false) ∧
    (∃ (s : State) (cells : List Bool) (ser : Bool), tapRuns s = true ∧ s.power.reset = false) ∧
    (∃ (s : State) (cells : List Bool) (ser : Bool), tapRuns s = true ∧ s.power.reset = false) ∧
    (∃ (s : State), tapRuns s = true) ∧
    (∃ (s : State), tapRuns s = true) := by
  refine ⟨⟨tB, 9, ?_⟩,
    ⟨tB, ?_⟩,
    ⟨tB, ?_⟩,
    ⟨{ tB with pins := { tB.pins with trstHigh := false, tap := 1 } }, [], true, ?_, ?_, ?_⟩,
    ⟨{ tB with pins := { tB.pins with tap := 7 } }, 101, ?_, ?_, ?_⟩,
    ⟨tB, (List.replicate 248 true), true, ?_, ?_⟩,
    ⟨{ tB with power := { tB.power with reset := true } }, (List.replicate 248 true), true, ?_, ?_, ?_⟩,
    ⟨{ tB with power := { tB.power with reset := true } }, (List.replicate 248 true), true, ?_, ?_, ?_⟩,
    ⟨{ tB with power := { tB.power with reset := true } }, (List.replicate 248 true), true, ?_, ?_, ?_⟩,
    ⟨tB, (List.replicate 248 true), false, ?_, ?_⟩,
    ⟨tB, (List.replicate 248 true), false, ?_, ?_⟩,
    ⟨tB, (List.replicate 248 true), false, ?_, ?_⟩,
    ⟨tB, ?_⟩,
    ⟨tB, ?_⟩⟩
  all_goals first | decide +kernel

/-! Witnesses for the cases inside clauses -/

/-- Both cases of `EmptyQueueIdles`. -/
theorem witness_EmptyQueueIdles_cases :
    (tB.pending = [] ∧ tB.bell.fired = true ∧ tB.bell.held = false ∧ tB.power.off = false) ∧
    (State.reset.pending = [] ∧ State.reset.bell.fired = false) := by decide +kernel

/-- What arrives: a read, a final write, another write. -/
theorem witness_ReelerCompletes_arrivals :
    ([tAcc, { tAcc with kind := .putLine, final := true }, { tAcc with kind := .putLine }].all fun a =>
      let s := arrivalsBy { tB with fabric := { tB.fabric with net := [a] } } 0
      nextArrival s 0 == some (a, []) && arrivalReady s 0 a && decide ((openPos s 0).sp.skipping < 2) && !inCheckpoint s 0 &&
        decide ((openPos s 0).sp.reeler.queue.length < 256)) = true := by decide +kernel

/-- What the reeler takes: the head of its queue, a held packet, a waiting CFE. -/
theorem witness_ReelerCompletes_takes :
    (let s := tL fun r => { r with queue := [tAcc] }
     (nextTake s 0 (spAt s 0)).map (·.1) = some (.head tAcc [])) ∧
    (let a : Access := { tAcc with kind := .putLine, final := true }
     let s := tL fun r => { r with held := [a] }
     (nextTake s 0 (spAt s 0)).map (·.1) = some (.final a [])) := by
  refine ⟨?_, ?_⟩ <;> decide +kernel

/-- A read that finds its position dark. -/
theorem witness_ReelerCompletes_dark :
    let s := arrivalsBy { tPw (fun x => { x with dark := true }) with fabric := { tB.fabric with net := [tAcc] } } 0
    nextArrival s 0 = some (tAcc, []) ∧ arrivalReady s 0 tAcc = true ∧ (pwAt s 0).dark = true ∧ (spAt s 0).skipping < 2 := by decide +kernel

/-- CXL.mem accesses that wait in a light sleep: a write, a read. -/
theorem witness_HostLinkCompletes_waits :
    MemOk tWake ∧ tWake.power.wakeDue = true ∧
    { tWake with hif := { tWake.hif with cxlWait := [(63, 1, some [7#8])] } }.hif.cxlWait = [(63, [7#8].length, some [7#8])] ∧
    { tWake with hif := { tWake.hif with cxlWait := [(0, 64, none)] } }.hif.cxlWait = [(0, 64, none)] :=
  ⟨by unfold MemOk; decide +kernel, rfl, rfl, rfl⟩

/-- PERST_N low finds the link up and a job that runs. -/
theorem witness_HostLinkCompletes_perst : tB.hif.link = true ∧ (jobOf tB 0).state = 2 := by decide +kernel

/-- A refill of a job that has an image, and of one that has none. -/
theorem witness_DescriptorsComplete_refills :
    (jobOf tRefill 0).ckptArea ≠ 0 ∧ inHost (jobOf tRefill 0).ckptArea = false ∧
    (jobOf { tRefill with jobs := [{ Job.reset with state := 2 }] } 0).ckptArea = 0 := by decide +kernel

/-- The last step of a wake's ramp. -/
theorem witness_LanternCompletes_last :
    (pwAt (tPw fun x => { x with wake := 3, step := 7 }) 0).step = 7 ∧ rampHeld (tPw fun x => { x with wake := 3, step := 7 }) 0 [] = false := by
  decide +kernel

/-- A step of the optimizer under a verdict, and one without. -/
theorem witness_OptimizerAndLossComplete_verdicts :
    (numAt { tB with jobs := [{ Job.reset with state := 2, num := { Job.reset.num with verdict := true } }] } 0).verdict = true ∧
    (numAt tB 0).verdict = false := by decide +kernel

/-- VNORM, MERGE and FINAL that answer a next state. -/
theorem witness_RowsStoreOnlyTheirOutputs_next :
    (∃ t, exec (.vnormRms 0) (tI 3 (tW 25 [(64, 0)])) = .next t) ∧ (∃ t, exec (.vsmaxMerge 0) (tI 3 (tW 26 [(1, 120), (64, 0)])) = .next t) ∧
    (∃ t, exec (.vsmaxFinal 0) (tI 3 (tW 26 [(2, 120), (64, 0)])) = .next t) :=
  ⟨⟨_, rfl⟩, ⟨_, rfl⟩, ⟨_, rfl⟩⟩

/-! Ill-formed commands: one for each check -/

theorem test_wf_refuses_positions :
    [Instr.dly 624 0, .halt 0 6, .ssigAct 624, .faultMarkerDispatch 0 6, .faultMarkerDispatch 624 0, .treadleFetch 624, .fetchLineArrival 624 0, .mload 0 6,
      .msplit 624, .promotion 624 0, .promotion 0 2, .mdrainSetup 624 0, .mdrainResume 0 6, .dataOpStart 624 0, .dataOpStart 0 2, .tfeed 624,
      .feedWordEnter 624 0, .feedWordEnter 0 4, .vopAdd 624, .chbmStore2 624, .hbmDataArrival 624, .distaffScrub 624, .feWaitExpire 624,
      .frameOverBudget 624 0, .frameOverrun 0 6, .syncErrCapture 624, .droopStretchStart 624 [], .droopStretchEnd 624 [] 0, .dvfsSetpointStep 624 [], .ageingMeasurement 624 0 0 (0, 0) true, .bypass 256,
      .phaseFail 624 0, .phaseFail 0 4, .vsramConverterFail 624, .idlePowerGate 624, .logicCheck 624 0, .logicCheck 0 6, .stuckEngine 624 7,
      .stuckEngine 0 8].all (fun c => !c.wf) = true := by decide +kernel

theorem test_wf_refuses_units :
    [Instr.hbmGrant 8 0, .hbmGrant 0 32, .patrolScrub 8, .plyAdmissionWindow 6, .laneLockLoss 6 0, .laneLockLoss 0 17, .plyLaneMapChange 6,
      .plyTraining 6 [] ⟨[], []⟩ 0 0 0 0, .plyTraining 0 [17] ⟨[], []⟩ 0 0 0 0, .plyTraining 0 [] ⟨[17], []⟩ 0 0 0 0,
      .plyTraining 0 [] ⟨[], [17]⟩ 0 0 0 0, .plyTraining 0 [] ⟨[], []⟩ 0 0 0 3, .plyTrainStepTimeout 6, .plyTrainStepTimeout 0 [17],
      .plyRetrain 6, .statisticsEntry 8, .rebalance 8, .doorbellSq 64 0, .doorbellSq 0 (2 ^ 64), .doorbellCq 8 0, .doorbellCq 0 (2 ^ 64),
      .doorbellDeq (2 ^ 64), .nop 64, .snapshotTake 8, .checkpoint 64, .checkpointTake 8, .restore 64, .blindSiteAck 1024, .dieEdgePhaseFail 4,
      .vinWindowTrip 4, .sensorExcluded 640 0, .sensorExcluded 0 2, .blindSiteExpire 640, .tripComparatorFire 632, .hbmCattrip 8, .referenceLost 5,
      .samplePreload [], .extest [], .extestPulse [], .extestTrain [], .memoryBitError 0 624 0 0, .memoryBitError 0 0 3670016 0, .memoryBitError 0 0 0 72, .memoryBitError 1 0 (2 ^ 19) 0,
      .memoryBitError 1 0 0 128, .memoryBitError 2 0 4096 0, .memoryBitError 2 0 0 512, .memoryBitError 3 0 12000000000 0, .memoryBitError 3 0 0 576,
      .memoryBitError 4 0 0 0].all (fun c => !c.wf) = true := by decide +kernel

theorem test_wf_refuses_values :
    [Instr.hostCxlMemRead 0 0, .hostCxlMemRead 63 2, .hostCxlMemWrite 767993839616 [0#8], .cxlConfigRequest ⟨4096, none⟩, .cxlConfigRequest ⟨0, some (2 ^ 32)⟩, .cxlSnoop (2 ^ 46), .hostLinkTrain 0 true,
      .getCertificate 256 0 0, .getCertificate 0 (2 ^ 16) 0, .getCertificate 0 0 (2 ^ 16), .challenge 256 (List.replicate 32 0#8), .challenge 0 [],
      .getMeasurements 256 0 (List.replicate 32 0#8), .getMeasurements 0 256 (List.replicate 32 0#8), .getMeasurements 0 0 [], .spdmUnsupported 256,
      .doeDiscovery 256, .cdatAccess (2 ^ 16), .getPldmCommands 64, .getPdr (2 ^ 32), .getSensorReading (2 ^ 16), .setEventReceiver 256,
      .registerWrite 0 2 0, .registerWrite 0x420000 4 0, .registerWrite 0 4 (2 ^ 64), .commitGo (2 ^ 16), .rcRegisterRead 0 2, .rcRegisterRead 0x420000 8,
      .bell ⟨4096, 0, []⟩, .bell ⟨0, 4096, []⟩, .bell ⟨0, 0, [(624, 0)]⟩, .slipLimitExceeded ⟨4096, 0, []⟩,
      .lanternSample ⟨[], [], [], [], [], 0, []⟩, .backgroundWindow ⟨[(0, [])], [], []⟩,
      .backgroundWindow ⟨[], [(624, 0)], []⟩, .backgroundWindow ⟨[], [], [(8, 0, 0)]⟩].all (fun c => !c.wf) = true := by decide +kernel

theorem test_wf_refuses_partners :
    [Instr.plyFrameReceive 6 tG, .plyFrameReceive 0 { tG with seq := 2 ^ 32 }, .plyFrameReceive 0 { tG with paceN := 256 }, .plyFrameReceive 0 { tG with paceLag := 256 },
      .plyFrameReceive 0 { tG with mapseq := 2 ^ 32 }, .plyFrameReceive 0 { tG with mapsp := 32 }, .plyFrameReceive 0 { tG with mapw := 3 }, .plyFrameReceive 0 { tG with types := [16] },
      .plyFrameReceive 0 { tG with corrected := [(17, 1)] }, .plyPutReceive 6 tT, .plyAckReceive 0 { tT with addr := 2 ^ 64 },
      .plyAddReceive 0 { tT with fmt := 8 }, .plyAddReceive 0 { tT with blen := 4 }, .plyAddReceive 0 { tT with oslot := 4 },
      .plyGetreqReceive 0 { tT with count := 32 }, .plyCfeReceive 0 { tT with aux := 2 ^ 32 }, .plyPutReceive 0 { tT with span := 2049 }, .plyPutReceive 0 { tT with payload := List.replicate 11585 0#8 },
      .plyOpenReceive 6 0 tT, .plyOpenReceive 0 8 tT, .plyCreditReceive 6 tT,
      .powerUp { tPu with edgeFail := [4] }, .powerUp { tPu with pllFail := some 4 }, .powerUp { tPu with phaseFail := [(624, 0)] },
      .powerUp { tPu with phaseFail := [(0, 4)] }, .powerUp { tPu with sramFail := [624] }, .powerUp { tPu with xing := [(8192, 0)] },
      .powerUp { tPu with ageing := [(624, 0, 0)] }, .powerUp { tPu with hbmFail := [8] }, .powerUp { tPu with strap := 4 },
      .powerUp { tPu with rc := 359100001 }].all (fun c => !c.wf) = true := by decide +kernel

theorem test_wf_takes :
    [Instr.dly 623 5, .plyFrameReceive 5 tG, .plyPutReceive 5 tT, .powerUp tPu, .hostCxlMemRead 64 64, .memoryBitError 3 0 11999999999 575, .refill,
      .registerWrite 0x41FFF8 8 (2 ^ 64 - 1), .logicCheck 0 7].all Instr.wf = true := by decide +kernel

/-! The decoder: the table gives no row any bits -/

theorem test_decode_none : decodeTableWord 128 (tW 0 [(5, 32)]).toNat = none := rfl
theorem test_withFetchWord : State.reset.withFetchWord 128 0 = State.reset := rfl

/-! Worked examples of the manual -/

/-- The block of the example after R102: 7.5, 0.9, 0.8, 0.7, 0.6, 0.4, 0.05 and zeros. -/
def tBlock : List F32 :=
  [0x40F00000#32, 0x3F666666#32, 0x3F4CCCCD#32, 0x3F333333#32, 0x3F19999A#32, 0x3ECCCCCD#32, 0x3D4CCCCD#32] ++ List.replicate 9 0#32

/-- E2M1, RNE. -/
def tRule (oslot oshift : Nat) (mx : Bool) : BlockRule :=
  { fmt := 6, oslot := oslot, oshift := oshift, mx := mx, tsc := false, tscale := one32, sr := false, key := 0#64, tid := 0, step := 0 }

/-- Scale byte, and the codes of 7.5, 0.9, 0.7, 0.4 and 0.05 (03_number_formats.md: 8, 1, 1, 0, 0 at scale 2). -/
theorem test_block_no_clip :
    let b := formBlock (tRule 0 0 false) 0 tBlock
    (b.scale, [0, 1, 3, 5, 6].map fun i => b.codes.getD i 0) = (0x80, [6, 1, 1, 0, 0]) := by decide +kernel

/-- The same block by the MX rule: 6, 1, 0.5, 0.5, 0 at scale 1. -/
theorem test_block_mx :
    let b := formBlock (tRule 0 0 true) 0 tBlock
    (b.scale, [0, 1, 3, 5, 6].map fun i => b.codes.getD i 0) = (0x7F, [7, 2, 1, 1, 0]) := by decide +kernel

/-- The same block with one outlier slot: 7.5 in the side-list, then 1, 0.75, 0.375, 0 at scale 1/4. -/
theorem test_block_outlier :
    let b := formBlock (tRule 1 3 false) 0 tBlock
    (b.scale, [0, 1, 3, 5, 6].map (fun i => b.codes.getD i 0), b.out) = (0x7D, [0, 6, 5, 3, 0], [⟨0x40F0#16, 0⟩]) := by decide +kernel

/-- Three addends with L = −40 leave 2 in both orders (05_bobbin.md). -/
theorem test_x128_order :
    let a : Fv := .fin false 1 0
    let b : Fv := .fin false 3 (-41)
    let c : Fv := .fin true 1 0
    x128Add (-40) (x128Add (-40) (x128Add (-40) 0#128 a) b) c = 2#128 ∧ x128Add (-40) (x128Add (-40) (x128Add (-40) 0#128 c) b) a = 2#128 := by
  decide +kernel

/-- Logical spindle 41 at (0, 3, 5) to (3, 2, 1): 2 bridges, 18 hops (13_fabric_and_hbm.md). -/
theorem test_route : (bridges 41 (3 * 156 + 2 * 12 + 1), hops 41 (3 * 156 + 2 * 12 + 1)) = (2, 18) := by decide +kernel

/-- The line of 0x0000_012C_B418_1040 lies in stack H3, channel 0 (13_fabric_and_hbm.md). -/
theorem test_hbm_line : (stackOf (0x12CB4181040 - hbmBase), chanOf (0x12CB4181040 - hbmBase)) = (3, 0) := by decide +kernel

/-- Cases A and B of the example after R35: the bell at 65,536 rc, and at 65,611 rc with a slip of 75 rc. -/
theorem test_bell_time :
    [63400, 64300].map (fun t => bellTime { tIdle with bell := { BellGen.reset with fired := true, lastRet := t } }) = [65536, 65611] := by decide +kernel


/-! Registers -/

/-- Four bytes written at the upper half of 0x1008 stage its field [47:32], above what the lower half has staged (R13). -/
theorem test_stage_upper :
    (stageWrite 0x100C 4 5 (stageWrite 0x1008 4 0x70000 [])).map (fun x => (x.off, x.value)) = [(0x1008, 5 * 2 ^ 32 + 0x70000)] := by
  decide +kernel

/-- At ratio 60 the local count of a bell is the exact number of whole sc since the last, whatever was left over (R36). -/
theorem test_record_ratio : (recordClock 100 100 60 { Clock.reset with ref56 := 50 }).bellLc = (50 + 6000) / 56 := by decide +kernel
end Sys2Proof.Tests
end

section
/-!
Doorbells and held entries of the rings (R354, R360): what each doorbell answers when its value is in range and when it is refused, which
are the clauses of O45 on doorbells, and how an entry of the disabled device event ring is held, in which its last clause fails.
-/
namespace Sys2Proof.Machine

/-! The wake cause of a doorbell (R464) -/

theorem wakeLight_of_not_light {s : State} (h : s.power.sleep ≠ 1) : wakeLight s = s := if_neg h

@[simp] theorem wakeLight_hif (s : State) : (wakeLight s).hif = s.hif := by unfold wakeLight; split <;> rfl

@[simp] theorem wakeLight_sqCtrl (s : State) (r hi lo : Nat) : sqCtrl (wakeLight s) r hi lo = sqCtrl s r hi lo := by
  unfold wakeLight; split <;> rfl

@[simp] theorem wakeLight_cqCtrl (s : State) (j hi lo : Nat) : cqCtrl (wakeLight s) j hi lo = cqCtrl s j hi lo := by
  unfold wakeLight; split <;> rfl

@[simp] theorem wakeLight_sqSize (s : State) (r : Nat) : sqSize (wakeLight s) r = sqSize s r := by simp [sqSize]

@[simp] theorem wakeLight_cqSize (s : State) (j : Nat) : cqSize (wakeLight s) j = cqSize s j := by simp [cqSize]

/-! Submission doorbells (R354) -/

/-- The write is taken: the tail moves, in every sleep state. -/
theorem exec_doorbellSq_inRange {s : State} {r v : Nat} (hr : r < 64) (hs : Serving s) (hen : sqCtrl s r 0 0 = 1)
    (hv : v % 65536 < sqSize s r) :
    exec (.doorbellSq r v) s = .next (modSq (wakeLight s) r fun x => { x with tail := v % 65536 }) := by
  obtain ⟨hopen, hrun⟩ := hs
  calc exec (.doorbellSq r v) s = execDoorbellSq r v s := rfl
    _ = _ := by rw [execDoorbellSq, onUnit_lt _ _ _ _ hr]; simp [hopen, hrun, hen, Nat.not_le.mpr hv]

theorem modSq_currentTail {s : State} {r t : Nat} (h : (sqAt s r).tail = t) : (modSq s r fun x => { x with tail := t }) = s := by
  have hsq : (modAt s.hif.sq r fun x => { x with tail := t }) = s.hif.sq := by
    refine List.ext_getElem? fun k => ?_
    rw [modAt_getElem?]
    split
    · next hk => subst hk; cases hx : s.hif.sq[r]? <;> simp [← h, sqAt, hx]
    · rfl
  rw [modSq, hsq]

/-- A write of the current tail has no effect. -/
theorem exec_doorbellSq_currentTail {s : State} {r v : Nat} (hr : r < 64) (hs : Serving s) (hen : sqCtrl s r 0 0 = 1)
    (hv : v % 65536 < sqSize s r) (hawake : s.power.sleep ≠ 1) (htail : (sqAt s r).tail = v % 65536) :
    exec (.doorbellSq r v) s = .next s := by
  rw [exec_doorbellSq_inRange hr hs hen hv, wakeLight_of_not_light hawake, modSq_currentTail htail]

/-- The write is refused: E-0x502 is raised, and a write to an enabled ring is still a wake cause. -/
theorem exec_doorbellSq_refused {s : State} {r v : Nat} (hr : r < 64) (hs : Serving s)
    (hbad : sqCtrl s r 0 0 = 0 ∨ sqSize s r ≤ v % 65536) :
    exec (.doorbellSq r v) s = .next (raiseDev (if sqCtrl s r 0 0 = 0 then s else wakeLight s) (ev 0x502 r v)) := by
  obtain ⟨hopen, hrun⟩ := hs
  calc exec (.doorbellSq r v) s = execDoorbellSq r v s := rfl
    _ = _ := by
      rw [execDoorbellSq, onUnit_lt _ _ _ _ hr]
      by_cases hoff : sqCtrl s r 0 0 = 0
      · simp [hopen, hrun, hoff]
      · simp [hopen, hrun, hoff, hbad.resolve_left hoff]

/-! Head doorbells of the completion rings and of the device event ring (R354) -/

theorem headBell_inRange {s : State} {j d v : Nat} (hs : Serving s) (hen : cqCtrl s j 0 0 = 1) (hv : v % 65536 < cqSize s j) :
    headBell j d v s = modCq (wakeLight s) j fun x => { x with head := v % 65536 } := by
  obtain ⟨hopen, hrun⟩ := hs
  rw [headBell]; simp [hopen, hrun, hen, Nat.not_le.mpr hv]

theorem headBell_refused {s : State} {j d v : Nat} (hs : Serving s) (hbad : cqCtrl s j 0 0 = 0 ∨ cqSize s j ≤ v % 65536) :
    headBell j d v s = raiseDev (if cqCtrl s j 0 0 = 0 then s else wakeLight s) (ev 0x502 d v) := by
  obtain ⟨hopen, hrun⟩ := hs
  rw [headBell]
  by_cases hoff : cqCtrl s j 0 0 = 0
  · simp [hopen, hrun, hoff]
  · simp [hopen, hrun, hoff, hbad.resolve_left hoff]

theorem exec_doorbellCq {j : Nat} (v : Nat) (s : State) (hj : j < 8) :
    exec (.doorbellCq j v) s = .next (headBell j (64 + j) v s) := onUnit_lt _ _ _ _ hj

theorem exec_doorbellDeq (v : Nat) (s : State) : exec (.doorbellDeq v) s = .next (headBell 8 72 v s) := rfl

/-! Entries of a disabled device event ring (R360, R368) -/

theorem ringReady_of_disabled {s : State} {j : Nat} (h : cqCtrl s j 0 0 = 0) : ringReady s j = false := by simp [ringReady, h]

/-- While the device event ring is disabled its entries are held; while the link is up, the receipt of one is written before. -/
theorem placeEntry_of_deq_disabled {s : State} {e : Entry} (hjob : e.job = none) (hdeq : cqCtrl s 8 0 0 = 0) :
    placeEntry s e = if s.hif.link then holdEntry (putSlot s e) 8 { e with slot := none } else holdEntry s 8 e := by
  have hring : ringOf s e = 8 := by simp [ringOf, hjob]
  simp [placeEntry, hring, ringReady_of_disabled hdeq]

/-- An entry without a receipt is held as it is. -/
theorem placeEntry_of_deq_disabled_no_receipt {s : State} {e : Entry} (hjob : e.job = none) (hdeq : cqCtrl s 8 0 0 = 0)
    (hslot : e.slot = none) : placeEntry s e = holdEntry s 8 e := by
  have hput : putSlot s e = s := by rw [putSlot, hslot]
  have he : { e with slot := none } = e := by rw [← hslot]
  rw [placeEntry_of_deq_disabled hjob hdeq, hput, he, ite_self]

@[simp] theorem putSlot_cqAt (s : State) (e : Entry) (j : Nat) : cqAt (putSlot s e) j = cqAt s j := by
  unfold putSlot payBytes; repeat' split
  all_goals rfl

@[simp] theorem putSlot_hif_cq (s : State) (e : Entry) : (putSlot s e).hif.cq = s.hif.cq := by
  unfold putSlot payBytes; repeat' split
  all_goals rfl

theorem holdEntry_held {s : State} {j : Nat} (e : Entry) (hj : j < s.hif.cq.length) (hroom : (cqAt s j).held.length < 512) :
    (cqAt (holdEntry s j e) j).held = (cqAt s j).held ++ [e] := by
  rw [holdEntry, if_pos hroom, cqAt, modCq, modAt_getD_self _ _ _ _ hj]; rfl

/-- Where the link is up, a held entry has lost its receipt. -/
theorem placeEntry_ne_holdEntry_of_receipt {s : State} {e : Entry} (hjob : e.job = none) (hdeq : cqCtrl s 8 0 0 = 0)
    (hlink : s.hif.link = true) (hring : 8 < s.hif.cq.length) (hroom : (cqAt s 8).held.length < 512) (hslot : e.slot ≠ none) :
    placeEntry s e ≠ holdEntry s 8 e := by
  intro h
  rw [placeEntry_of_deq_disabled hjob hdeq, if_pos hlink] at h
  have hheld := congrArg (fun t => (cqAt t 8).held) h
  simp only [holdEntry_held _ (putSlot_hif_cq s e ▸ hring) (putSlot_cqAt s e 8 ▸ hroom), holdEntry_held _ hring hroom,
    putSlot_cqAt, List.append_cancel_left_eq, List.cons.injEq, and_true] at hheld
  exact hslot (congrArg Entry.slot hheld).symm

/-! The counterexample of O45 -/

/-- A device after reset whose host link is up; its device event ring is disabled, as reset leaves it. -/
def linkedReset : State := { State.reset with hif := { State.reset.hif with link := true } }

/-- A receipt entry (TYPE 4) that names no job and has yet to write its 1,024-byte slot. -/
def joblessReceipt : Entry :=
  { job := none, type := 4, code := 0, body := 0, frame := 0, slot := some (0, List.replicate 1024 0#8) }

theorem linkedReset_deq_disabled : cqCtrl linkedReset 8 0 0 = 0 := by decide

theorem placeEntry_joblessReceipt_ne : placeEntry linkedReset joblessReceipt ≠ holdEntry linkedReset 8 joblessReceipt :=
  placeEntry_ne_holdEntry_of_receipt rfl linkedReset_deq_disabled rfl (by decide) (by decide) (Option.some_ne_none _)

end Sys2Proof.Machine

open Sys2Proof.Machine in
/-- Refutes O45 by its last clause, that an entry of the disabled device event ring is held as it is. That is so for an entry with no
receipt left to write (`placeEntry_of_deq_disabled_no_receipt`). But the clause speaks of every entry without a job, and while the link is
up the model first writes an entry's receipt to its slot (R369) and holds the entry without it (`placeEntry_of_deq_disabled`). No
command
makes the entry of the counterexample, since a receipt's entry names its job: `e.slot = none` is the premise that the clause lacks. The
clauses on doorbells hold (`exec_doorbellSq_inRange`, `headBell_inRange`, `exec_doorbellSq_refused`, `headBell_refused`). -/
theorem not_doorbellsMoveOneEnd : ¬ Obligations.DoorbellsMoveOneEnd := by
  unfold Obligations.DoorbellsMoveOneEnd
  rintro ⟨-, -, -, -, -, -, -, hheld⟩
  exact placeEntry_joblessReceipt_ne (hheld linkedReset joblessReceipt rfl linkedReset_deq_disabled)
end

section
/-!
A power-up whose identity fails (R428, R434, R449, R450): what a power-up in range comes to, what the self-tests of the die-edge phases
before the keep's boot leave alone, and the boot that stops in its first stage, which is O54.
-/
namespace Sys2Proof.Machine

/-- A fold keeps what each of its steps keeps. -/
theorem foldl_keeps {α β σ : Type} {f : σ → α → σ} (g : σ → β) (hstep : ∀ s a, g (f s a) = g s) (l : List α) (s : σ) :
    g (l.foldl f s) = g s := by
  induction l generalizing s with
  | nil => rfl
  | cons a as ih => rw [List.foldl_cons, ih, hstep]

/-! Steps 1 and 2 of the power-up (R449, R450) -/

@[simp] theorem tapRelease_thermal (s : State) : (tapRelease s).thermal = s.thermal := by unfold tapRelease; split <;> rfl

@[simp] theorem takeStraps_thermal (n : Nat) (s : State) : (takeStraps n s).thermal = s.thermal := rfl

/-- The rising edge of RESET_N with VIN in range runs the sequence, unless a trip keeps the device off. -/
theorem exec_powerUp_inRange {s : State} {e : PowerUp} (hreset : s.power.reset = true) (htrip : s.thermal.tripped = false)
    (hoff : s.thermal.vinOff = false) (hvin : e.vinOk = true) :
    exec (.powerUp e) s =
      .next (powerSeq false e (modPower (tapRelease (takeStraps e.strap s)) fun w => { w with reset := false, vaon := true })) := by
  calc exec (.powerUp e) s = execPowerUp e s := rfl
    _ = _ := by simp [execPowerUp, hreset, htrip, hoff, hvin]

@[simp] theorem faultLive_keep (s : State) (code : Nat) : (faultLive s code).keep = s.keep :=
  foldl_keeps State.keep (fun s j => by split <;> simp) _ s

@[simp] theorem faultLive_bell (s : State) (code : Nat) : (faultLive s code).bell = s.bell :=
  foldl_keeps State.bell (fun s j => by split <;> simp) _ s

/-- A failed die-edge phase posts its event and may hold the jobs; it touches neither the keep nor the bell. -/
theorem dieEdgePhaseFail_keep_bell (i : Nat) (s : State) :
    (orStay (execDieEdgePhaseFail i s) s).keep = s.keep ∧ (orStay (execDieEdgePhaseFail i s) s).bell = s.bell := by
  by_cases hi : i < 4
  · rw [execDieEdgePhaseFail, onUnit_lt _ _ _ _ hi]
    dsimp only [orStay]
    repeat' split
    all_goals simp
  · rw [execDieEdgePhaseFail, onUnit, if_neg hi]
    exact ⟨rfl, rfl⟩

/-- Once the PLLs have locked, the sequence comes to the keep's boot with the keep cold and no bell fired; a boot stopped there is its end. -/
theorem powerSeq_of_bootKeep_stops {deep : Bool} {e : PowerUp} {stopped : State → State} (s : State) (hpll : e.pllFail = none)
    (hstop : ∀ t, bootKeep e t = (false, stopped t)) :
    ∃ t, powerSeq deep e s = stopped t ∧ t.keep = s.keep.cold ∧ t.bell.fired = false := by
  refine ⟨_, by simp only [powerSeq, hpll, hstop]; rfl, ?_, ?_⟩
  · exact foldl_keeps State.keep (fun s i => (dieEdgePhaseFail_keep_bell i s).1) _ _
  · exact congrArg BellGen.fired (foldl_keeps State.bell (fun s i => (dieEdgePhaseFail_keep_bell i s).2) _ _)

/-! A boot that stops (R434, R435) -/

@[simp] theorem stopBoot_bell (s : State) (stage step : Nat) (e : Ev) : (stopBoot s stage step e).bell = s.bell := by simp [stopBoot]

@[simp] theorem stopBoot_keep (s : State) (stage step : Nat) (e : Ev) :
    (stopBoot s stage step e).keep = { s.keep with stage := stage, stopped := true } := by
  simp only [stopBoot, modPower_keep, modKeep, raiseDev_keep]

@[simp] theorem stopBoot_power (s : State) (stage step : Nat) (e : Ev) : (stopBoot s stage step e).power = { s.power with step := step } := by
  simp only [stopBoot, modPower, modKeep_power, raiseDev_power]

/-- The event of a stopped boot is among the entries due. -/
theorem stopBoot_due (s : State) (stage step : Nat) (e : Ev) :
    ∃ x ∈ (stopBoot s stage step e).hif.due, x.code = e.code ∧ x.job = none := by
  obtain ⟨x, hdue, hcode, hjob, -⟩ := raiseDev_due s e
  refine ⟨x, ?_, hcode, hjob⟩
  rw [stopBoot, modPower_hif, modKeep_hif, hdue]
  exact List.mem_append_right _ (List.mem_singleton_self x)

/-- A boot that stops before the last step leaves the set-up space closed. -/
theorem stopBoot_spaceOpen (s : State) (stage : Nat) {step : Nat} (e : Ev) (h : step ≠ 14) : spaceOpen (stopBoot s stage step e) = false := by
  simp [spaceOpen, h]

/-- The PUF read-out is the first that the boot needs: where it cannot be corrected, the boot stops with E-0x803 (R428). -/
theorem bootKeep_of_pufFail {e : PowerUp} (h : e.pufOk = false) (s : State) : bootKeep e s = (false, stopBoot s 0 3 (ev 0x803 0 0)) := by
  rw [bootKeep, h]; rfl

end Sys2Proof.Machine

open Sys2Proof.Machine in
/-- Settles O54: the sequence comes to the boot with a cold keep, which holds no key (`powerSeq_of_bootKeep_stops`), and there the boot
stops before its first stage has derived one (`bootKeep_of_pufFail`). -/
theorem failedIdentityStopsTheBoot : Obligations.FailedIdentityStopsTheBoot := by
  unfold Obligations.FailedIdentityStopsTheBoot
  intro s e hreset htrip hoff hvin hpll hpuf
  obtain ⟨t, hseq, hkeep, hbell⟩ := powerSeq_of_bootKeep_stops (deep := false)
    (modPower (tapRelease (takeStraps e.strap s)) fun w => { w with reset := false, vaon := true }) hpll (bootKeep_of_pufFail hpuf)
  refine ⟨_, exec_powerUp_inRange hreset htrip hoff hvin, ?_⟩
  rw [hseq]
  refine ⟨?_, ?_, ?_, ?_, ?_, ?_, ?_, ?_, stopBoot_due t 0 3 (ev 0x803 0 0), stopBoot_spaceOpen t 0 _ (by decide)⟩
  all_goals simp [hkeep, hbell, Keep.cold]
end

section
/-!
What a write of the set-up space stages (R13, R455, R491): a value laid over another under a mask, the bits that an access covers in whole
fields, the place of a staged field in its list, and that no read depends on what is staged, which is O50.
-/
namespace Sys2Proof.Machine

/-! A value laid over another under a mask -/

/-- The bits of `v` are among those of `m` (a staged value and its mask, R455). -/
theorem land_eq_left_iff_testBit {v m : Nat} : v &&& m = v ↔ ∀ i, v.testBit i = true → m.testBit i = true := by
  constructor
  · intro h i hi
    rw [← h, Nat.testBit_and, Bool.and_eq_true] at hi
    exact hi.2
  · intro h
    refine Nat.eq_of_testBit_eq fun i => ?_
    rw [Nat.testBit_and, Bool.and_eq_left_iff_imp]
    exact h i

/-- Two numbers with no bit in common add without a carry. -/
theorem add_eq_lor_of_land_eq_zero {a b : Nat} (h : a &&& b = 0) : a + b = a ||| b := by
  have hw : a + b < 2 ^ (a + b) := Nat.lt_two_pow_self
  have hdisj : BitVec.ofNat (a + b) a &&& BitVec.ofNat (a + b) b = 0#(a + b) := by rw [← BitVec.ofNat_and, h]
  have hadd := congrArg BitVec.toNat (BitVec.add_eq_or_of_and_eq_zero _ _ hdisj)
  rwa [← BitVec.ofNat_add, BitVec.toNat_or, BitVec.toNat_ofNat, BitVec.toNat_ofNat, BitVec.toNat_ofNat, Nat.mod_eq_of_lt hw,
    Nat.mod_eq_of_lt (by omega), Nat.mod_eq_of_lt (by omega)] at hadd

/-- Taking from `x` its bits under a mask clears just these bits. -/
theorem testBit_sub_land (x m i : Nat) : (x - (x &&& m)).testBit i = (x.testBit i && !m.testBit i) := by
  have hbit : ∀ k, (x ^^^ (x &&& m)).testBit k = (x.testBit k && !m.testBit k) := fun k => by
    rw [Nat.testBit_xor, Nat.testBit_and]
    cases x.testBit k <;> cases m.testBit k <;> rfl
  have hdisj : (x ^^^ (x &&& m)) &&& (x &&& m) = 0 := by
    refine Nat.eq_of_testBit_eq fun k => ?_
    rw [Nat.testBit_and, hbit, Nat.testBit_and, Nat.zero_testBit]
    cases x.testBit k <;> cases m.testBit k <;> rfl
  have hunion : (x ^^^ (x &&& m)) ||| (x &&& m) = x := by
    refine Nat.eq_of_testBit_eq fun k => ?_
    rw [Nat.testBit_or, hbit, Nat.testBit_and]
    cases x.testBit k <;> cases m.testBit k <;> rfl
  have hsplit := add_eq_lor_of_land_eq_zero hdisj
  rw [hunion] at hsplit
  have hsub : x - (x &&& m) = x ^^^ (x &&& m) := by omega
  rw [hsub, hbit]

/-- A value laid over another under a mask gives the bits under the mask; the other keeps the rest. -/
theorem testBit_overlay {v m : Nat} (hv : v &&& m = v) (x i : Nat) :
    (x - (x &&& m) + v).testBit i = if m.testBit i then v.testBit i else x.testBit i := by
  have houtside : ∀ k, m.testBit k = false → v.testBit k = false := fun k hm => by rw [← hv, Nat.testBit_and, hm, Bool.and_false]
  have hdisj : x - (x &&& m) &&& v = 0 := by
    refine Nat.eq_of_testBit_eq fun k => ?_
    rw [Nat.testBit_and, testBit_sub_land, Nat.zero_testBit]
    cases hm : m.testBit k with
    | true => rw [Bool.not_true, Bool.and_false, Bool.false_and]
    | false => rw [houtside k hm, Bool.and_false]
  rw [add_eq_lor_of_land_eq_zero hdisj, Nat.testBit_or, testBit_sub_land]
  cases hm : m.testBit i with
  | true => rw [Bool.not_true, Bool.and_false, Bool.false_or, if_pos rfl]
  | false => rw [Bool.not_false, Bool.and_true, houtside i hm, Bool.or_false, if_neg Bool.false_ne_true]

/-! The bits that an access covers in whole fields (R491) -/

theorem testBit_bitsMask (hi lo i : Nat) : (bitsMask hi lo).testBit i = (decide (lo ≤ i) && decide (i ≤ hi)) := by
  rw [bitsMask, Nat.testBit_shiftLeft, Nat.testBit_two_pow_sub_one]
  by_cases h : lo ≤ i
  · rw [decide_eq_true h, Bool.true_and, Bool.true_and, decide_eq_decide]
    omega
  · rw [decide_eq_false h, Bool.false_and, Bool.false_and]

/-- A union of masks over a list holds the bits it began with and those of the entries taken in. -/
theorem testBit_foldl_lor {α : Type} (p : α → Prop) [DecidablePred p] (g : α → Nat) (i : Nat) (l : List α) (m : Nat) :
    (l.foldl (fun m f => if p f then m ||| g f else m) m).testBit i = (m.testBit i || l.any fun f => decide (p f) && (g f).testBit i) := by
  induction l generalizing m with
  | nil => exact (Bool.or_false _).symm
  | cons f fs ih =>
    rw [List.foldl_cons, ih, List.any_cons]
    by_cases hf : p f
    · rw [if_pos hf, decide_eq_true hf, Bool.true_and, Nat.testBit_or, Bool.or_assoc]
    · rw [if_neg hf, decide_eq_false hf, Bool.false_and, Bool.false_or]

theorem testBit_stagedMask_of_covers {off n hi lo i : Nat} (hf : (hi, lo) ∈ stFields (off / 8 * 8)) (hlo : 8 * (off % 8) ≤ lo)
    (hhi : hi < 8 * (off % 8) + 8 * n) (hli : lo ≤ i) (hih : i ≤ hi) : (stagedMask off n).testBit i = true := by
  rw [stagedMask, testBit_foldl_lor (fun f : Nat × Nat => 8 * (off % 8) ≤ f.2 ∧ f.1 < 8 * (off % 8) + 8 * n) (fun f => bitsMask f.1 f.2),
    Bool.or_eq_true, List.any_eq_true]
  exact .inr ⟨(hi, lo), hf, by rw [decide_eq_true ⟨hlo, hhi⟩, testBit_bitsMask, decide_eq_true hli, decide_eq_true hih]; rfl⟩

/-! The staged fields of a register (R455) -/

/-- The register at `o` has staged bits that include `mask`, hold `v` there and lie within their own mask. -/
def StagesAt (o mask v : Nat) (l : List Staged) : Prop :=
  ∃ x, l.find? (·.off == o) = some x ∧ x.value &&& x.mask = x.value ∧
    ∀ i, mask.testBit i = true → x.mask.testBit i = true ∧ x.value.testBit i = v.testBit i

/-- Staging joins the mask to what the register has staged and lays the value over it. -/
theorem stagesAt_stageIn {o mask v : Nat} (hv : v &&& mask = v) {l : List Staged} (hl : ∀ x ∈ l, x.value &&& x.mask = x.value) :
    StagesAt o mask v (stageIn o mask v l) := by
  induction l with
  | nil => exact ⟨⟨o, mask, v⟩, List.find?_cons_of_pos (beq_self_eq_true o), hv, fun i hi => ⟨hi, rfl⟩⟩
  | cons x xs ih =>
    rw [stageIn]
    by_cases hlt : o < x.off
    · rw [if_pos hlt]
      exact ⟨⟨o, mask, v⟩, List.find?_cons_of_pos (beq_self_eq_true o), hv, fun i hi => ⟨hi, rfl⟩⟩
    rw [if_neg hlt]
    by_cases heq : o = x.off
    · rw [if_pos heq]
      have hx := land_eq_left_iff_testBit.mp (hl x List.mem_cons_self)
      refine ⟨_, List.find?_cons_of_pos (beq_self_eq_true o), ?_, fun i hi => ?_⟩
      · refine land_eq_left_iff_testBit.mpr fun i hi => ?_
        rw [testBit_overlay hv] at hi
        rw [Nat.testBit_or]
        cases hm : mask.testBit i with
        | true => exact Bool.or_true _
        | false => rw [hx i (by rwa [hm, if_neg Bool.false_ne_true] at hi), Bool.true_or]
      · rw [Nat.testBit_or, testBit_overlay hv, hi, if_pos rfl]
        exact ⟨Bool.or_true _, rfl⟩
    · rw [if_neg heq]
      obtain ⟨y, hfind, hy⟩ := ih fun y hy => hl y (List.mem_cons_of_mem x hy)
      have hother : ¬ (x.off == o) = true := fun h => heq (beq_iff_eq.mp h).symm
      exact ⟨y, (List.find?_cons_of_neg (p := fun z : Staged => z.off == o) hother).trans hfind, hy⟩

theorem StagesAt.testBit_stagedBits {o mask v i : Nat} {l : List Staged} (h : StagesAt o mask v l) (hi : mask.testBit i = true) :
    (stagedBits l o).testBit i = true := by
  obtain ⟨x, hfind, -, hbits⟩ := h
  rw [stagedBits, hfind]
  exact (hbits i hi).1

theorem StagesAt.testBit_laid {o mask v i : Nat} {l : List Staged} (h : StagesAt o mask v l) (hi : mask.testBit i = true) (s : State) :
    (laid s l o).testBit i = v.testBit i := by
  obtain ⟨x, hfind, hx, hbits⟩ := h
  obtain ⟨hmask, hvalue⟩ := hbits i hi
  rw [laid, hfind]
  exact (testBit_overlay hx _ i).trans (by rw [if_pos hmask, hvalue])

/-- A write that covers any field stages its bytes, moved to their place in the slot. -/
theorem stagesAt_stageWrite {off n v i : Nat} {l : List Staged} (hl : ∀ x ∈ l, x.value &&& x.mask = x.value)
    (hi : (stagedMask off n).testBit i = true) :
    StagesAt (off / 8 * 8) (stagedMask off n) (((v % 2 ^ (8 * n)) <<< (8 * (off % 8))) &&& stagedMask off n) (stageWrite off n v l) := by
  have hne : stagedMask off n ≠ 0 := fun h => Bool.false_ne_true (by rwa [h, Nat.zero_testBit] at hi)
  rw [stageWrite, if_neg hne]
  exact stagesAt_stageIn (by rw [Nat.and_assoc, Nat.and_self]) hl

/-! What a write of the set-up space changes, and what a read returns (R13, R455) -/

/-- The state with other staged fields. -/
def restage (s : State) (l : List Staged) : State := { s with regs := { s.regs with staged := l } }

@[simp] theorem restage_staged (s : State) (l : List Staged) : (restage s l).regs.staged = l := rfl
@[simp] theorem restage_eff (s : State) (l : List Staged) : (restage s l).regs.eff = s.regs.eff := rfl

/-- A legal write of the set-up space, but to the commit request and CUP_BLIND_ACK, stages and does no more. -/
theorem exec_registerWrite_stages {s : State} {off n : Nat} (v : Nat) (hlegal : legalAcc off n = true) (hs : Serving s) (hoff : off < 0x400000)
    (hcommit : off ≠ 0x40) (hack : off ≠ 0x80008) :
    exec (.registerWrite off n v) s = .next (restage s (stageWrite off n v s.regs.staged)) := by
  obtain ⟨hopen, hrun⟩ := hs
  change execRegisterWrite off n v s = _
  have hmsix : ¬ (0x408000 ≤ off ∧ off < 0x408090) := by omega
  have hcomp : ¬ (0x410000 ≤ off ∧ off < 0x420000) := by omega
  have hserves : (legalAcc off n && spaceOpen s && !s.keep.stopped) = true := by rw [hlegal, hopen, hrun]; rfl
  rw [restage, execRegisterWrite, if_pos hserves, if_neg hcommit, if_neg hack, if_neg hmsix, if_neg hcomp, if_pos hoff]

@[simp] theorem restage_keep (s : State) (l : List Staged) : (restage s l).keep = s.keep := rfl
@[simp] theorem spaceOpen_restage (s : State) (l : List Staged) : spaceOpen (restage s l) = spaceOpen s := rfl
@[simp] theorem pageSlot_restage (s : State) (l : List Staged) (o : Nat) : pageSlot (restage s l) o = pageSlot s o := rfl
@[simp] theorem compSlot_restage (s : State) (l : List Staged) (o : Nat) : compSlot (restage s l) o = compSlot s o := rfl

@[simp] theorem xingEntry_restage (s : State) (l : List Staged) (i : Nat) : xingEntry (restage s l) i = xingEntry s i := by
  unfold xingEntry; rfl

@[simp] theorem belSlot_restage (s : State) (l : List Staged) (o : Nat) : belSlot (restage s l) o = belSlot s o := by
  rw [belSlot, xingEntry_restage, xingEntry_restage]; rfl

@[simp] theorem slotAt_restage (s : State) (l : List Staged) (o : Nat) : slotAt (restage s l) o = slotAt s o := by
  rw [slotAt, belSlot_restage]; rfl

/-- No read depends on what is staged. -/
@[simp] theorem regRead_restage (s : State) (l : List Staged) (o n : Nat) : regRead (restage s l) o n = regRead s o n := by
  simp only [regRead]
  rw [slotAt_restage, pageSlot_restage, compSlot_restage, spaceOpen_restage, restage_keep]

end Sys2Proof.Machine

open Sys2Proof.Machine in
/-- Settles O50: the write stages and does no more (`exec_registerWrite_stages`), each bit of the field is among those staged
(`testBit_stagedMask_of_covers`) with its bit of the value (`StagesAt.testBit_laid`), and no read depends on what is staged
(`regRead_restage`). -/
theorem writesStageTheirFields : Obligations.WritesStageTheirFields := by
  unfold Obligations.WritesStageTheirFields
  refine ⟨fun s off n v hi lo i hctl hlegal hs hoff hcommit hack hf hlo hhi hli hih => ?_, rfl⟩
  obtain ⟨-, -, -, -, -, -, -, hstaged⟩ := hctl
  have hmask := testBit_stagedMask_of_covers hf hlo hhi hli hih
  have hst := stagesAt_stageWrite (v := v) hstaged hmask
  refine ⟨_, exec_registerWrite_stages v hlegal hs hoff hcommit hack, hst.testBit_stagedBits hmask, ?_, restage_eff ..,
    fun o m _ _ => regRead_restage ..⟩
  rw [restage_staged, hst.testBit_laid hmask]
  have hlow : 8 * (off % 8) ≤ i := by omega
  have hbyte : i - 8 * (off % 8) < 8 * n := by omega
  rw [Nat.testBit_and, hmask, Bool.and_true, Nat.testBit_shiftLeft, Nat.testBit_mod_two_pow, decide_eq_true hlow, decide_eq_true hbyte,
    Bool.true_and, Bool.true_and]

open Sys2Proof Sys2Proof.Machine in
/-- The premises of `WritesStageTheirFields` can be met: a device just brought up, and the write of the upper half of a job's register. -/
theorem witness_WritesStageTheirFields :
    ∃ s : State, ControlOk s ∧ Serving s ∧ legalAcc 0x100C 4 = true ∧ (47, 32) ∈ stFields (0x100C / 8 * 8) :=
  ⟨{ State.reset with power := { State.reset.power with step := 14 } }, by unfold ControlOk Serving; decide +kernel⟩
end

section
/-!
What a trip does to the pins (R423, R391, R513): turning the power off releases SMB_ALERT_N and touches no other pin and not VAON, so a trip
pulls its own pin low and leaves the other's, which is O57.
-/
namespace Sys2Proof.Machine

/-! The pins that no event touches -/

/-- The pins but SMB_ALERT_N, which is all of them that an event can change (Table 22.8). -/
def pinsButAlert (s : State) : Pins := { s.pins with alert := false }

/-- Where the pins are the same, so are those but SMB_ALERT_N. -/
theorem pinsButAlert_congr {s t : State} (h : t.pins = s.pins) : pinsButAlert t = pinsButAlert s := by rw [pinsButAlert, pinsButAlert, h]

@[simp] theorem alertFor_pinsButAlert (s : State) (code body : Nat) : pinsButAlert (alertFor s code body) = pinsButAlert s := by
  unfold alertFor; split <;> rfl

@[simp] theorem postEv_pinsButAlert (s : State) (e : Ev) (j lnum p : Option Nat) : pinsButAlert (postEv s e j lnum p) = pinsButAlert s :=
  alertFor_pinsButAlert ..

@[simp] theorem raiseAt_pinsButAlert (s : State) (p : Nat) (e : Ev) : pinsButAlert (raiseAt s p e) = pinsButAlert s := by
  have hfault (t : State) (j code : Nat) (stop all : Bool) : pinsButAlert (faultJob t j code stop all) = pinsButAlert t :=
    pinsButAlert_congr (faultJob_pins ..)
  unfold raiseAt
  dsimp only
  split
  · split
    · exact postEv_pinsButAlert ..
    · rw [hfault, postEv_pinsButAlert]
  · exact postEv_pinsButAlert ..

/-- A step of a position changes the pins by its events only. -/
@[simp] theorem runPos_pinsButAlert (s : State) (p : Nat) (f : Loc → Loc) : pinsButAlert (runPos s p f) = pinsButAlert s := by
  rw [runPos, closePos, foldl_keeps pinsButAlert fun t e => raiseAt_pinsButAlert t p e]
  refine pinsButAlert_congr ?_
  split <;> simp

/-! Power off (R391, R423) -/

/-- A transfer that is abandoned writes its bytes, in a position's memory or in the host's. -/
@[simp] theorem abandonXfer_pinsButAlert (s : State) (x : Xfer) : pinsButAlert (abandonXfer s x) = pinsButAlert s := by
  unfold abandonXfer
  split
  · exact runPos_pinsButAlert ..
  · exact pinsButAlert_congr rfl

@[simp] theorem abandonXfer_power (s : State) (x : Xfer) : (abandonXfer s x).power = s.power := by
  unfold abandonXfer
  split
  · exact runPos_power ..
  · rfl

@[simp] theorem powerOff_pins (s : State) : (powerOff s).pins = { s.pins with alert := false } :=
  foldl_keeps pinsButAlert abandonXfer_pinsButAlert s.hif.xfers s

@[simp] theorem powerOff_vaon (s : State) : (powerOff s).power.vaon = s.power.vaon :=
  foldl_keeps (·.power.vaon) (fun t x => by rw [abandonXfer_power]) s.hif.xfers s

/-! The two trips -/

/-- A thermal trip pulls THERMTRIP_N low and releases SMB_ALERT_N (R423). -/
theorem trip_pins_vaon {s : State} (cause site reading : Nat) (htrip : s.thermal.tripped = false) (hvaon : s.power.vaon = true) :
    (trip s cause site reading).pins = { s.pins with alert := false, thermtrip := true } ∧
      (trip s cause site reading).power.vaon = true := by
  simp [trip, htrip, hvaon]

/-- A VIN window trip pulls VFAULT_N low and releases SMB_ALERT_N (R391). -/
theorem exec_vinWindowTrip_pins_vaon {s : State} {i : Nat} (hi : i < 4) (hvaon : s.power.vaon = true) :
    ∃ t, exec (.vinWindowTrip i) s = .next t ∧ t.pins = { s.pins with alert := false, vfault := true } ∧ t.power.vaon = true := by
  refine ⟨_, (onUnit_lt _ _ _ _ hi : execVinWindowTrip i s = _), ?_⟩
  simp [hvaon]

/-! The levels of the two trip pins (R508, R513) -/

theorem thermtripLow_iff {s : State} : thermtripLow s = true ↔ s.power.vaon = true ∧ (s.pins.thermtrip = true ∨ cellLow s 241 = true) := by
  simp [thermtripLow]

theorem vfaultLow_iff {s : State} : vfaultLow s = true ↔ s.power.vaon = true ∧ (s.pins.vfault = true ∨ cellLow s 242 = true) := by
  simp [vfaultLow]

/-- A boundary cell drives its pin while the TAP's instruction is EXTEST, EXTEST_PULSE, EXTEST_TRAIN or CLAMP. -/
theorem cellLow_of_drives {s : State} {i : Nat} (htap : s.pins.tap = 3 ∨ s.pins.tap = 4 ∨ s.pins.tap = 5 ∨ s.pins.tap = 7)
    (hcell : s.pins.cells.getD i false = true) : cellLow s i = true := by
  have hdrives : cellsDrive s = true := by simpa [cellsDrive, or_assoc] using htap
  rw [cellLow, hdrives, hcell]; rfl

/-- What a boundary cell drives depends on the TAP's instruction and the boundary register alone. -/
theorem cellLow_congr {s t : State} (htap : t.pins.tap = s.pins.tap) (hcells : t.pins.cells = s.pins.cells) (i : Nat) :
    cellLow t i = cellLow s i := by
  rw [cellLow, cellLow, cellsDrive, cellsDrive, htap, hcells]

end Sys2Proof.Machine

open Sys2Proof.Machine in
/-- Settles O57: a trip sets its own pin's latch and leaves the other's, VAON and all that the boundary cells drive (`trip_pins_vaon`,
`exec_vinWindowTrip_pins_vaon`, `cellLow_congr`); a pin is low by its latch or by its cell (`thermtripLow_iff`, `vfaultLow_iff`). -/
theorem tripPinsAreLow : Obligations.TripPinsAreLow := by
  unfold Obligations.TripPinsAreLow
  refine ⟨fun s hoff => ?unpowered, fun s cause site reading htrip hvaon => ?thermal, fun s i hi hvaon => ?vin,
    fun s hvaon htap => ?cells, fun s tap cells hvaon => ?latched⟩
  case unpowered => simp [thermtripLow, vfaultLow, hoff]
  case thermal =>
    obtain ⟨hpins, hvaon'⟩ := trip_pins_vaon cause site reading htrip hvaon
    refine ⟨thermtripLow_iff.mpr ⟨hvaon', .inl (by rw [hpins])⟩, ?_⟩
    have hcell : cellLow (trip s cause site reading) 242 = cellLow s 242 := cellLow_congr (by rw [hpins]) (by rw [hpins]) 242
    simp [vfaultLow, hpins, hvaon, hvaon', hcell]
  case vin =>
    obtain ⟨t, hexec, hpins, hvaon'⟩ := exec_vinWindowTrip_pins_vaon hi hvaon
    refine ⟨t, hexec, vfaultLow_iff.mpr ⟨hvaon', .inl (by rw [hpins])⟩, ?_⟩
    have hcell : cellLow t 241 = cellLow s 241 := cellLow_congr (by rw [hpins]) (by rw [hpins]) 241
    simp [thermtripLow, hpins, hvaon, hvaon', hcell]
  case cells =>
    exact ⟨fun hcell => thermtripLow_iff.mpr ⟨hvaon, .inr (cellLow_of_drives htap hcell)⟩,
      fun hcell => vfaultLow_iff.mpr ⟨hvaon, .inr (cellLow_of_drives htap hcell)⟩⟩
  case latched =>
    exact ⟨fun hlatch => thermtripLow_iff.mpr ⟨hvaon, .inl hlatch⟩, fun hlatch => vfaultLow_iff.mpr ⟨hvaon, .inl hlatch⟩⟩
end

section
/-!
Steps, the idle step and reset: the front command runs (O1), an empty queue lets one reference cycle pass at most (O2), and what reset leaves
(O3), both invariants among it (O4).
-/
namespace Sys2Proof.Machine

/-- The state with another time of its bell generator. -/
theorem idle_of_runs {s : State} (h : (s.bell.fired && !s.bell.held && !s.power.off) = true) :
    idle s = { s with bell := { s.bell with refTime := s.bell.refTime + 1 } } := if_pos h

theorem idle_of_stands {s : State} (h : ¬ (s.bell.fired && !s.bell.held && !s.power.off) = true) : idle s = s := if_neg h

/-- Every element that a list does not have reads as its default, and so does every element of a list of defaults. -/
theorem getD_replicate_default {α : Type} (n i : Nat) (d : α) : (List.replicate n d).getD i d = d := by
  rw [List.getD_eq_getElem?_getD, List.getElem?_replicate]
  split <;> rfl

theorem jobOf_reset (j : Nat) : jobOf State.reset j = Job.reset := getD_replicate_default 8 j Job.reset
theorem portAt_reset (q : Nat) : portAt State.reset q = Port.reset := getD_replicate_default 6 q Port.reset
theorem spAt_reset (p : Nat) : spAt State.reset p = Spindle.reset := getD_replicate_default 624 p Spindle.reset
theorem sqAt_reset (r : Nat) : sqAt State.reset r = SqRing.reset := getD_replicate_default 64 r SqRing.reset
theorem cqAt_reset (r : Nat) : cqAt State.reset r = CqRing.reset := getD_replicate_default 9 r CqRing.reset

/-- Outside the band table nothing but the reset value is in effect at reset. -/
theorem st_reset {o : Nat} (h : ¬ inBlock o 0x2000 8 144 = true) : st State.reset o = stReset o := if_neg h

/-- The spindles at reset are alike, so what holds of one holds of each. -/
theorem forall_mem_spindles_reset {P : Spindle → Prop} (h : P Spindle.reset) : ∀ sp ∈ State.reset.spindles, P sp := by
  intro sp hsp
  rw [List.eq_of_mem_replicate (n := 624) hsp]
  exact h

end Sys2Proof.Machine

open Sys2Proof Sys2Proof.Machine

/-- Settles O1: a step takes the front command off the queue. -/
theorem stepRunsFront : Obligations.StepRunsFront := fun _ _ _ => rfl

/-- Settles O2: the idle step counts one where the generator runs (`idle_of_runs`) and nothing otherwise (`idle_of_stands`). -/
theorem emptyQueueIdles : Obligations.EmptyQueueIdles := by
  unfold Obligations.EmptyQueueIdles
  intro s hempty
  have hstep : step s = .next (idle s) := by rw [step, hempty]
  have hiff : (s.bell.fired && !s.bell.held && !s.power.off) = true ↔ s.bell.fired = true ∧ s.bell.held = false ∧ s.power.off = false := by
    simp [and_assoc]
  by_cases hruns : (s.bell.fired && !s.bell.held && !s.power.off) = true
  · exact ⟨1, by rw [hstep, idle_of_runs hruns], fun _ => rfl, fun hnot => absurd (hiff.mp hruns) hnot⟩
  · exact ⟨0, by rw [hstep, idle_of_stands hruns]; rfl, fun hall => absurd (hiff.mpr hall) hruns, fun _ => rfl⟩

/-- Settles O3: lists of like units at reset (`jobOf_reset`, `portAt_reset`, `spAt_reset`, `sqAt_reset`, `cqAt_reset`), and each register at
its reset value (`st_reset`). -/
theorem resetLeaves : Obligations.ResetLeaves := by
  unfold Obligations.ResetLeaves
  refine ⟨rfl, rfl, rfl, rfl, rfl, rfl, rfl, rfl, rfl, fun o ho => st_reset ho, fun j => by rw [jobOf_reset]; rfl,
    fun q => by rw [portAt_reset]; rfl, fun p => ?_, sqAt_reset, cqAt_reset, rfl, rfl, rfl, rfl⟩
  rw [distByte, spAt_reset]
  exact ⟨rfl, rfl, rfl⟩

/-- Settles O4: the memories at reset are empty but for the MSI-X table's masks, and each coded field holds its first code. -/
theorem resetKeepsInvariants : Obligations.ResetKeepsInvariants := by
  unfold Obligations.ResetKeepsInvariants
  refine ⟨⟨rfl, rfl, by decide, forall_mem_spindles_reset rfl, fun k hk => ?_⟩, ?_⟩
  · rw [List.eq_of_mem_replicate (n := 8) hk]
    decide
  · unfold ControlOk
    decide
end

section
/-!
The laws of a byte memory as one statement (O9): read after write and frame stand in the memory laws; here that canonical memories that read
alike are the same list.
-/
namespace Sys2Proof.Machine

/-- The first entry of a canonical memory lies at the lowest address that does not read as 0, so it is that of any other that reads alike. -/
theorem Memory.head_le_of_alike {k k' : Nat} {b b' : Byte} {m m' : Mem} (h : Memory.wf ((k, b) :: m) = true)
    (h' : Memory.wf ((k', b') :: m') = true) (halike : ∀ a, memGet ((k, b) :: m) a = memGet ((k', b') :: m') a) : k' ≤ k := by
  refine Nat.le_of_not_lt fun hlt => ?_
  have hk := halike k
  rw [memGet_below h' (by omega), memGet, if_pos rfl] at hk
  exact (Memory.wf_cons.mp h).1 hk

/-- A canonical memory with an entry does not read as the empty one. -/
theorem Memory.not_alike_nil {k : Nat} {b : Byte} {m : Mem} (h : Memory.wf ((k, b) :: m) = true) :
    memGet ((k, b) :: m) k ≠ memGet [] k := by
  have hb : memGet ((k, b) :: m) k = b := if_pos rfl
  rw [hb]
  exact (Memory.wf_cons.mp h).1

/-- Two canonical memories that read alike everywhere are the same list. -/
theorem Memory.ext {m m' : Mem} (h : Memory.wf m = true) (h' : Memory.wf m' = true) (halike : ∀ a, memGet m a = memGet m' a) : m = m' := by
  induction m generalizing m' with
  | nil =>
    cases m' with
    | nil => rfl
    | cons x m' => exact absurd (halike x.1).symm (Memory.not_alike_nil h')
  | cons x m ih =>
    cases m' with
    | nil => exact absurd (halike x.1) (Memory.not_alike_nil h)
    | cons x' m' =>
      obtain ⟨k, b⟩ := x
      obtain ⟨k', b'⟩ := x'
      have hk : k = k' := Nat.le_antisymm (Memory.head_le_of_alike h' h fun a => (halike a).symm) (Memory.head_le_of_alike h h' halike)
      subst hk
      have hb : b = b' := by simpa [memGet] using halike k
      have htail : m = m' := by
        refine ih (Memory.wf_tail h) (Memory.wf_tail h') fun a => ?_
        by_cases ha : a = k
        · rw [ha, memGet_tail h (Nat.le_refl k), memGet_tail h' (Nat.le_refl k)]
        · simpa [memGet, ha] using halike a
      rw [hb, htail]

end Sys2Proof.Machine

open Sys2Proof Sys2Proof.Machine

/-- Settles O9: read after write, frame and canonical form are the memory laws, and two canonical lists that read alike agree entry by
entry (`Memory.ext`). -/
theorem memoryReadsWhatWasWritten : Obligations.MemoryReadsWhatWasWritten := by
  unfold Obligations.MemoryReadsWhatWasWritten
  exact ⟨fun m a bs h => ⟨memRead_memWrite h a bs, fun x hx => memGet_memWrite_outside h a bs x hx, Memory.wf_memWrite h a bs⟩,
    fun m m' h h' halike => Memory.ext h h' halike⟩
end

section
/-!
Canonical NaNs (R82, O60): a magnitude that is rounded ends at infinity, so an operation's result is a NaN only where the exact value is one, and
that is written as the canonical NaN.
-/
namespace Sys2Proof.Machine

/-- A code up to that of infinity, with a sign above it, is not a NaN's. -/
theorem readFp_code_ne_nan (q : Nat) (emin : Int) {c : Nat} (neg : Bool) (hc : c ≤ 255 * 2 ^ q) :
    readFp (q + 1) emin (c + (if neg then 2 ^ (q + 1 + 7) else 0)) ≠ .nan := by
  obtain ⟨n, hn⟩ : ∃ n, (if neg then 2 ^ (q + 1 + 7) else 0) = 2 ^ q * (256 * n) := by
    cases neg
    · exact ⟨0, rfl⟩
    · exact ⟨1, by rw [if_pos rfl, Nat.add_assoc, Nat.pow_add]⟩
  have hfrac : (c + 2 ^ q * (256 * n)) % 2 ^ q = c % 2 ^ q := Nat.add_mul_mod_self_left ..
  have hexp : (c + 2 ^ q * (256 * n)) >>> q = c / 2 ^ q + 256 * n := by
    rw [Nat.shiftRight_eq_div_pow, Nat.add_mul_div_left _ _ (Nat.two_pow_pos q)]
  simp only [readFp, hn, Nat.add_sub_cancel, hfrac, hexp, Nat.add_mul_mod_self_left]
  split
  · next hmax =>
    have hdiv : c / 2 ^ q = 255 := by
      have hle : c / 2 ^ q ≤ 255 := Nat.div_le_of_le_mul (Nat.mul_comm 255 (2 ^ q) ▸ hc)
      rwa [Nat.mod_eq_of_lt (Nat.lt_of_le_of_lt hle (by decide))] at hmax
    have hsplit := Nat.div_add_mod c (2 ^ q)
    rw [hdiv, Nat.mul_comm] at hsplit
    have hzero : c % 2 ^ q = 0 := by omega
    rw [if_pos hzero]
    exact Fv.noConfusion
  · split <;> exact Fv.noConfusion

theorem roundFp_eq (q : Nat) (emin : Int) (neg : Bool) (num den : Nat) (e : Int) :
    ∃ c, c ≤ 255 * 2 ^ q ∧ roundFp (q + 1) emin neg num den e = c + (if neg then 2 ^ (q + 1 + 7) else 0) :=
  ⟨_, Nat.min_le_right .., rfl⟩

theorem roundFp_lt (q : Nat) (emin : Int) (neg : Bool) (num den : Nat) (e : Int) : roundFp (q + 1) emin neg num den e < 2 ^ (q + 9) := by
  obtain ⟨c, hc, heq⟩ := roundFp_eq q emin neg num den e
  have h8 : 2 ^ (q + 1 + 7) = 256 * 2 ^ q := by rw [Nat.add_assoc, Nat.pow_add, Nat.mul_comm]
  have h9 : 2 ^ (q + 9) = 512 * 2 ^ q := by rw [Nat.pow_add, Nat.mul_comm]
  have hpos := Nat.two_pow_pos q
  rw [heq, h8, h9]
  cases neg
  · rw [if_neg Bool.false_ne_true]; omega
  · rw [if_pos rfl]; omega

/-- A rounded magnitude is not a NaN. -/
theorem read32_rnd32_ne_nan (neg : Bool) (num den : Nat) (e : Int) : read32 (rnd32 neg num den e) ≠ .nan := by
  obtain ⟨c, hc, heq⟩ := roundFp_eq 23 (-149) neg num den e
  rw [read32, rnd32, BitVec.toNat_ofNat, Nat.mod_eq_of_lt (roundFp_lt 23 ..), heq]
  exact readFp_code_ne_nan 23 _ neg hc

theorem read16_rnd16_ne_nan (neg : Bool) (num den : Nat) (e : Int) : read16 (rnd16 neg num den e) ≠ .nan := by
  obtain ⟨c, hc, heq⟩ := roundFp_eq 7 (-133) neg num den e
  rw [read16, rnd16, BitVec.toNat_ofNat, Nat.mod_eq_of_lt (roundFp_lt 7 ..), heq]
  exact readFp_code_ne_nan 7 _ neg hc

theorem read32_inf32_ne_nan (neg : Bool) : read32 (inf32 neg) ≠ .nan := by cases neg <;> decide

theorem read32_zero32_ne_nan (neg : Bool) : read32 (zero32 neg) ≠ .nan := by cases neg <;> decide

/-- What an exact value is written as in binary32 is a NaN only as the canonical one. -/
theorem toF32_canonical {v : Fv} (h : read32 (toF32 v) = .nan) : toF32 v = nan32 := by
  cases v with
  | nan => rfl
  | inf n => exact absurd h (read32_inf32_ne_nan n)
  | fin n m e => exact absurd h (read32_rnd32_ne_nan n m 1 e)

theorem toB16_canonical {v : Fv} (h : read16 (toB16 v) = .nan) : toB16 v = nan16 := by
  cases v with
  | nan => rfl
  | inf n => cases n <;> exact absurd h (by decide)
  | fin n m e => exact absurd h (read16_rnd16_ne_nan n m 1 e)

theorem fdiv_canonical {a b : F32} (h : read32 (fdiv a b) = .nan) : fdiv a b = nan32 := by
  unfold fdiv at h ⊢
  split
  · rfl
  · rfl
  · rfl
  · exact absurd h (by simp only [*]; exact read32_inf32_ne_nan _)
  · exact absurd h (by simp only [*]; exact read32_zero32_ne_nan _)
  · next ha hb =>
    simp only [ha, hb] at h
    split
    · next hden =>
      rw [if_pos hden] at h
      split
      · rfl
      · next hnum => rw [if_neg hnum] at h; exact absurd h (read32_inf32_ne_nan _)
    · next hden => rw [if_neg hden] at h; exact absurd h (read32_rnd32_ne_nan _ _ _ _)

theorem canon32_canonical {a : F32} (h : read32 (canon32 a) = .nan) : canon32 a = nan32 := by
  unfold canon32 at h ⊢
  split
  · rfl
  · next hnot => rw [if_neg hnot] at h; exact absurd h hnot

end Sys2Proof.Machine

open Sys2Proof Sys2Proof.Machine

/-- Settles O60: sums, products and fused operations are written by `toF32_canonical`, elements by `canon32_canonical` and
`toB16_canonical`; a quotient is `fdiv_canonical`. -/
theorem naNsAreCanonical : Obligations.NaNsAreCanonical := by
  unfold Obligations.NaNsAreCanonical
  exact fun a b c => ⟨toF32_canonical, toF32_canonical, toF32_canonical, fdiv_canonical, canon32_canonical, toB16_canonical⟩
end

section
/-!
What the operations of a position do to its memory: which bytes stay, now and once the writes under way have landed, and that the memory stays
canonical. A frame says which bytes are to stay; the operations that store nothing keep every frame, those that store keep one that their range
does not meet.
-/
namespace Sys2Proof.Machine

/-! Bytes of a memory after several writes -/

/-- The memory once the writes of a list have landed in their order. -/
def soonOf (m : Mem) (es : List Pend) : Mem := es.foldl (fun m e => memWrite m e.off e.data) m

theorem Spindle.soon_eq (sp : Spindle) : sp.soon = soonOf sp.distaff.mem sp.pend := rfl

/-- The range of a write does not cover this offset. -/
def Pend.Misses (e : Pend) (a : Nat) : Prop := a < e.off ∨ e.off + e.data.length ≤ a

/-- No copy of the list goes to this offset. -/
def NoCopyTo (a : Nat) (es : List Pend) : Prop := ∀ e ∈ es, e.src.isSome = true → e.Misses a

/-- No write of the list goes to this offset. -/
def NoWriteTo (a : Nat) (es : List Pend) : Prop := ∀ e ∈ es, e.Misses a

theorem wf_soonOf {m : Mem} (h : Memory.wf m = true) (es : List Pend) : Memory.wf (soonOf m es) = true := by
  induction es generalizing m with
  | nil => exact h
  | cons e es ih => exact ih (Memory.wf_memWrite h e.off e.data)

/-- Memories that agree at an offset agree there after the same writes. -/
theorem memGet_soonOf_congr {m m' : Mem} {a : Nat} (hm : Memory.wf m = true) (hm' : Memory.wf m' = true) (h : memGet m a = memGet m' a)
    (es : List Pend) : memGet (soonOf m es) a = memGet (soonOf m' es) a := by
  induction es generalizing m m' with
  | nil => exact h
  | cons e es ih =>
    refine ih (Memory.wf_memWrite hm ..) (Memory.wf_memWrite hm' ..) ?_
    rw [memGet_memWrite hm, memGet_memWrite hm', h]

theorem soonOf_cons (m : Mem) (e : Pend) (es : List Pend) : soonOf m (e :: es) = soonOf (memWrite m e.off e.data) es := rfl

/-- A write that misses the offset changes nothing there. -/
theorem memGet_soonOf_cons_of_misses {m : Mem} {e : Pend} {a : Nat} (hm : Memory.wf m = true) (h : e.Misses a) (es : List Pend) :
    memGet (soonOf m (e :: es)) a = memGet (soonOf m es) a :=
  memGet_soonOf_congr (Memory.wf_memWrite hm ..) hm (memGet_memWrite_outside hm e.off e.data a h) es

/-- Writes that all miss the offset change nothing there. -/
theorem memGet_soonOf_of_noWriteTo {m : Mem} {a : Nat} (hm : Memory.wf m = true) {es : List Pend} (h : NoWriteTo a es) :
    memGet (soonOf m es) a = memGet m a := by
  induction es with
  | nil => rfl
  | cons e es ih =>
    rw [memGet_soonOf_cons_of_misses hm (h e List.mem_cons_self)]
    exact ih fun x hx => h x (List.mem_cons_of_mem e hx)

theorem mem_insPend {e x : Pend} {es : List Pend} : x ∈ insPend e es ↔ x = e ∨ x ∈ es := by
  induction es with
  | nil => simp [insPend]
  | cons y ys ih =>
    rw [insPend]
    split
    · exact List.mem_cons
    · rw [List.mem_cons, ih, List.mem_cons]
      exact or_left_comm

/-- Wherever a write takes its place, it changes no byte that it misses. -/
theorem memGet_soonOf_insPend {m : Mem} {e : Pend} {a : Nat} (hm : Memory.wf m = true) (h : e.Misses a) (es : List Pend) :
    memGet (soonOf m (insPend e es)) a = memGet (soonOf m es) a := by
  induction es generalizing m with
  | nil => exact memGet_soonOf_cons_of_misses hm h []
  | cons y ys ih =>
    rw [insPend]
    split
    · exact memGet_soonOf_cons_of_misses hm h _
    · exact ih (Memory.wf_memWrite hm ..)

/-- A change of the bytes that copies carry, to as many others. -/
def Recopies (g : Pend → Pend) : Prop :=
  ∀ x, (g x).off = x.off ∧ (g x).data.length = x.data.length ∧ (g x).src = x.src ∧ (x.src = none → g x = x)

theorem Recopies.misses {g : Pend → Pend} (hg : Recopies g) {x : Pend} {a : Nat} : (g x).Misses a ↔ x.Misses a := by
  obtain ⟨hoff, hlen, -, -⟩ := hg x
  rw [Pend.Misses, hoff, hlen]; rfl

theorem Recopies.noCopyTo {g : Pend → Pend} (hg : Recopies g) {a : Nat} {es : List Pend} (h : NoCopyTo a es) : NoCopyTo a (es.map g) := by
  intro e he hsrc
  obtain ⟨x, hx, rfl⟩ := List.mem_map.mp he
  exact hg.misses.mpr (h x hx (by rwa [(hg x).2.2.1] at hsrc))

theorem Recopies.noWriteTo {g : Pend → Pend} (hg : Recopies g) {a : Nat} {es : List Pend} (h : NoWriteTo a es) : NoWriteTo a (es.map g) := by
  intro e he
  obtain ⟨x, hx, rfl⟩ := List.mem_map.mp he
  exact hg.misses.mpr (h x hx)

/-- What copies carry is seen only where they go. -/
theorem Recopies.memGet_soonOf {g : Pend → Pend} (hg : Recopies g) {m : Mem} (hm : Memory.wf m = true) {a : Nat} {es : List Pend}
    (h : NoCopyTo a es) : memGet (soonOf m (es.map g)) a = memGet (soonOf m es) a := by
  induction es generalizing m with
  | nil => rfl
  | cons x xs ih =>
    have hrest : NoCopyTo a xs := fun y hy => h y (List.mem_cons_of_mem x hy)
    cases hsrc : x.src with
    | none => rw [List.map_cons, (hg x).2.2.2 hsrc]; exact ih (Memory.wf_memWrite hm ..) hrest
    | some o =>
      have hx : x.Misses a := h x List.mem_cons_self (by rw [hsrc]; rfl)
      rw [List.map_cons, memGet_soonOf_cons_of_misses hm (hg.misses.mpr hx), memGet_soonOf_cons_of_misses hm hx]
      exact ih hm hrest

/-! Frames -/

/-- Bytes of one distaff that are to stay: `soon a b` that the byte at `a` reads as `b` once the writes under way have landed and no copy goes
there, `now a b` that it reads as `b` and no write goes there at all. Nothing is said while `live` fails. -/
structure ByteFrame where
  live : Prop
  soon : Nat → Byte → Prop
  now : Nat → Byte → Prop

/-- The frame holds of a memory and the writes under way to it, and the memory is canonical. -/
def ByteFrame.Holds (F : ByteFrame) (m : Mem) (es : List Pend) : Prop :=
  F.live → Memory.wf m = true ∧ (∀ a b, F.soon a b → NoCopyTo a es ∧ memGet (soonOf m es) a = b) ∧
    ∀ a b, F.now a b → NoWriteTo a es ∧ memGet m a = b

/-- The frame says nothing of the bytes of a range. -/
def ByteFrame.Apart (F : ByteFrame) (off n : Nat) : Prop := ∀ a b, F.soon a b ∨ F.now a b → a < off ∨ off + n ≤ a

/-- The frame that says only, where `m` is so, that the memory is canonical. -/
def ByteFrame.canon (m : Prop) : ByteFrame := { live := m, soon := fun _ _ => False, now := fun _ _ => False }

@[simp] theorem ByteFrame.canon_apart (m : Prop) (off n : Nat) : (ByteFrame.canon m).Apart off n := fun _ _ h => h.elim False.elim False.elim

theorem ByteFrame.canon_holds {m : Prop} {mem : Mem} {es : List Pend} : (ByteFrame.canon m).Holds mem es ↔ (m → Memory.wf mem = true) :=
  ⟨fun h hm => (h hm).1, fun h hm => ⟨h hm, fun _ _ hf => hf.elim, fun _ _ hf => hf.elim⟩⟩

/-- An empty memory to which nothing is under way is canonical. -/
@[simp] theorem ByteFrame.canon_holds_nil (m : Prop) (es : List Pend) : (ByteFrame.canon m).Holds [] es := ByteFrame.canon_holds.mpr fun _ => rfl

theorem ByteFrame.Apart.misses {F : ByteFrame} {e : Pend} (h : F.Apart e.off e.data.length) {a : Nat} {b : Byte} (hab : F.soon a b ∨ F.now a b) :
    e.Misses a := h a b hab

/-- A write outside the frame, made at once. -/
theorem ByteFrame.Holds.write {F : ByteFrame} {m : Mem} {es : List Pend} (h : F.Holds m es) {off : Nat} {bs : List Byte}
    (hout : F.Apart off bs.length) : F.Holds (memWrite m off bs) es := by
  intro hl
  obtain ⟨hwf, hsoon, hnow⟩ := h hl
  refine ⟨Memory.wf_memWrite hwf off bs, fun a b hab => ?_, fun a b hab => ?_⟩
  · obtain ⟨hno, hget⟩ := hsoon a b hab
    have hat := memGet_memWrite_outside hwf off bs a (hout a b (.inl hab))
    exact ⟨hno, (memGet_soonOf_congr (Memory.wf_memWrite hwf off bs) hwf hat es).trans hget⟩
  · obtain ⟨hno, hget⟩ := hnow a b hab
    exact ⟨hno, (memGet_memWrite_outside hwf off bs a (hout a b (.inr hab))).trans hget⟩

/-- A write outside the frame that becomes visible later. -/
theorem ByteFrame.Holds.insPend {F : ByteFrame} {m : Mem} {es : List Pend} (h : F.Holds m es) {e : Pend} (hout : F.Apart e.off e.data.length) :
    F.Holds m (insPend e es) := by
  intro hl
  obtain ⟨hwf, hsoon, hnow⟩ := h hl
  refine ⟨hwf, fun a b hab => ?_, fun a b hab => ?_⟩
  · obtain ⟨hno, hget⟩ := hsoon a b hab
    have hmiss := hout.misses (.inl hab)
    exact ⟨fun x hx hs => (mem_insPend.mp hx).elim (fun he => he ▸ hmiss) fun hx => hno x hx hs, (memGet_soonOf_insPend hwf hmiss es).trans hget⟩
  · obtain ⟨hno, hget⟩ := hnow a b hab
    exact ⟨fun x hx => (mem_insPend.mp hx).elim (fun he => he ▸ hout.misses (.inr hab)) (hno x), hget⟩

/-- A write becomes visible. -/
theorem ByteFrame.Holds.landed {F : ByteFrame} {m : Mem} {e : Pend} {es : List Pend} (h : F.Holds m (e :: es)) :
    F.Holds (memWrite m e.off e.data) es := by
  intro hl
  obtain ⟨hwf, hsoon, hnow⟩ := h hl
  refine ⟨Memory.wf_memWrite hwf .., fun a b hab => ?_, fun a b hab => ?_⟩
  · obtain ⟨hno, hget⟩ := hsoon a b hab
    exact ⟨fun x hx => hno x (List.mem_cons_of_mem e hx), hget⟩
  · obtain ⟨hno, hget⟩ := hnow a b hab
    exact ⟨fun x hx => hno x (List.mem_cons_of_mem e hx),
      (memGet_memWrite_outside hwf e.off e.data a (hno e List.mem_cons_self)).trans hget⟩

/-- Copies take other bytes. -/
theorem ByteFrame.Holds.recopied {F : ByteFrame} {m : Mem} {es : List Pend} (h : F.Holds m es) {g : Pend → Pend} (hg : Recopies g) :
    F.Holds m (es.map g) := by
  intro hl
  obtain ⟨hwf, hsoon, hnow⟩ := h hl
  refine ⟨hwf, fun a b hab => ?_, fun a b hab => ?_⟩
  · obtain ⟨hno, hget⟩ := hsoon a b hab
    exact ⟨hg.noCopyTo hno, (hg.memGet_soonOf hwf hno).trans hget⟩
  · obtain ⟨hno, hget⟩ := hnow a b hab
    exact ⟨hg.noWriteTo hno, hget⟩

/-- The frame holds of a spindle's distaff. -/
def Spindle.Keeps (F : ByteFrame) (sp : Spindle) : Prop := F.Holds sp.distaff.mem sp.pend

/-- The frame holds of the distaff of a position in a step. -/
def Loc.Keeps (F : ByteFrame) (l : Loc) : Prop := l.sp.Keeps F

/-! Changes of a position that leave memory alone -/

section
variable {F : ByteFrame}

@[simp] theorem Loc.keeps_mk (sp : Spindle) (nf : Bool) (evs : List Ev) (free : Nat) (runs : Nat → Bool) (cap late : Option Nat) (reeler : Bool) :
    Loc.Keeps F ⟨sp, nf, evs, free, runs, cap, late, reeler⟩ ↔ sp.Keeps F := Iff.rfl

@[simp] theorem Spindle.keeps_mk (sp : Spindle) (streams : List Stream) (sems : List Nat) (sigs : List Sig) (fetchFree : Nat) (whorl : Whorl)
    (carder : Carder) (hank : Hank) (reeler : Reeler) (ctr : Counters) (clock : Clock) (outliers syncErr : Nat) (marked : Bool)
    (halfRun fendPhase : Option Nat) (skipping : Nat) (service : Service) :
    Spindle.Keeps F ⟨streams, sems, sigs, fetchFree, sp.distaff, sp.pend, whorl, carder, hank, reeler, ctr, clock, outliers, syncErr, marked,
      halfRun, fendPhase, skipping, service⟩ ↔ sp.Keeps F := Iff.rfl

@[simp] theorem Spindle.keeps_mk_distaff (sp : Spindle) (streams : List Stream) (sems : List Nat) (sigs : List Sig) (fetchFree : Nat)
    (full poison : List Nat) (errs : List (Nat × Nat)) (scrub : Nat) (whorl : Whorl)
    (carder : Carder) (hank : Hank) (reeler : Reeler) (ctr : Counters) (clock : Clock) (outliers syncErr : Nat) (marked : Bool)
    (halfRun fendPhase : Option Nat) (skipping : Nat) (service : Service) :
    Spindle.Keeps F ⟨streams, sems, sigs, fetchFree, ⟨sp.distaff.mem, full, poison, errs, scrub⟩, sp.pend, whorl, carder, hank, reeler, ctr, clock,
      outliers, syncErr, marked, halfRun, fendPhase, skipping, service⟩ ↔ sp.Keeps F := Iff.rfl

@[simp] theorem Loc.keeps_sp (l : Loc) : l.sp.Keeps F ↔ l.Keeps F := Iff.rfl
@[simp] theorem Loc.raise_keeps (l : Loc) (e : Ev) : (l.raise e).Keeps F ↔ l.Keeps F := Iff.rfl
@[simp] theorem Loc.flag_keeps (l : Loc) : l.flag.Keeps F ↔ l.Keeps F := Iff.rfl
@[simp] theorem Loc.mod_keeps (l : Loc) (f : Spindle → Spindle) : (l.mod f).Keeps F ↔ (f l.sp).Keeps F := Iff.rfl
@[simp] theorem Loc.count_keeps (l : Loc) (f : Counters → Counters) : (l.count f).Keeps F ↔ l.Keeps F := Iff.rfl
@[simp] theorem Loc.strm_keeps (l : Loc) (k : Nat) (f : Stream → Stream) : (l.strm k f).Keeps F ↔ l.Keeps F := Iff.rfl
@[simp] theorem Loc.card_keeps (l : Loc) (f : Carder → Carder) : (l.card f).Keeps F ↔ l.Keeps F := Iff.rfl
@[simp] theorem Loc.hankM_keeps (l : Loc) (f : Hank → Hank) : (l.hankM f).Keeps F ↔ l.Keeps F := Iff.rfl
@[simp] theorem Loc.reel_keeps (l : Loc) (f : Reeler → Reeler) : (l.reel f).Keeps F ↔ l.Keeps F := Iff.rfl
@[simp] theorem Loc.half_keeps (l : Loc) (h : Nat) (f : Half → Half) : (l.half h f).Keeps F ↔ l.Keeps F := Iff.rfl
@[simp] theorem Loc.fport_keeps (l : Loc) (q : Nat) (f : FeedPort → FeedPort) : (l.fport q f).Keeps F ↔ l.Keeps F := Iff.rfl
@[simp] theorem Loc.kill_keeps (l : Loc) (k : Nat) : (l.kill k).Keeps F ↔ l.Keeps F := Iff.rfl
@[simp] theorem Loc.consume_keeps (l : Loc) (s : State) (p k : Nat) (q : QEntry) (off : Nat) : (l.consume s p k q off).Keeps F ↔ l.Keeps F := Iff.rfl
@[simp] theorem Loc.acquire_keeps (l : Loc) (s : State) (p scope : Nat) : (l.acquire s p scope).Keeps F ↔ l.Keeps F := Iff.rfl
@[simp] theorem Loc.loftWrite_keeps (l : Loc) (a n : Nat) : (l.loftWrite a n).Keeps F ↔ l.Keeps F := Iff.rfl
@[simp] theorem Spindle.occupied_keeps (sp : Spindle) (t e : Nat) : (sp.occupied t e).Keeps F ↔ sp.Keeps F := Iff.rfl
@[simp] theorem Loc.dropCheck_keeps (l : Loc) (h t : Nat) : (l.dropCheck h t).Keeps F ↔ l.Keeps F := Iff.rfl
@[simp] theorem Loc.tally_keeps (l : Loc) (t : Nat) : (l.tally t).Keeps F ↔ l.Keeps F := Iff.rfl

/-- The distaff's bytes and its writes under way decide. -/
theorem Loc.keeps_congr {l l' : Loc} (hmem : l'.sp.distaff.mem = l.sp.distaff.mem) (hpend : l'.sp.pend = l.sp.pend) :
    l'.Keeps F ↔ l.Keeps F := by
  rw [Loc.Keeps, Spindle.Keeps, hmem, hpend]; rfl

/-- A fold keeps a frame that each of its steps keeps. -/
theorem foldl_keepsFrame {α : Type} {f : Loc → α → Loc} (hf : ∀ l a, l.Keeps F → (f l a).Keeps F) (xs : List α) {l : Loc} (h : l.Keeps F) :
    (xs.foldl f l).Keeps F := by
  induction xs generalizing l with
  | nil => exact h
  | cons x xs ih => exact ih (hf l x h)

/-! Reads, stores and writes that land (R55, R206, R472) -/

/-- A position after reads and writes of its distaff, with other check bits, poison, counters and events. -/
def Loc.checked (l : Loc) (errs : List (Nat × Nat)) (poison : List Nat) (ctr : Counters) (evs : List Ev) : Loc :=
  { l with sp := { l.sp with distaff := { l.sp.distaff with errs := errs, poison := poison }, ctr := ctr }, evs := evs }

@[simp] theorem Loc.checked_keeps (l : Loc) (errs : List (Nat × Nat)) (poison : List Nat) (ctr : Counters) (evs : List Ev) :
    (l.checked errs poison ctr evs).Keeps F ↔ l.Keeps F := Iff.rfl

/-- A position whose distaff has this memory. -/
def Loc.setMem (l : Loc) (m : Mem) : Loc := { l with sp := { l.sp with distaff := { l.sp.distaff with mem := m } } }

/-- A position with these writes under way. -/
def Loc.setPend (l : Loc) (es : List Pend) : Loc := { l with sp := { l.sp with pend := es } }

/-- A position with more outlier entries counted and this non-finite flag. -/
def Loc.noted (l : Loc) (n : Nat) (nf : Bool) : Loc := { l with sp := { l.sp with outliers := l.sp.outliers + n }, nf := nf }

/-- A read finds errors: only check bits, poison, counters and events may differ. -/
theorem Loc.scrub_eq (l : Loc) (a n : Nat) : ∃ errs poison ctr evs, l.scrub a n = l.checked errs poison ctr evs := by
  unfold Loc.scrub
  split
  · exact ⟨_, _, _, _, rfl⟩
  · dsimp only
    generalize List.filter _ l.sp.distaff.errs = hits
    induction hits generalizing l with
    | nil => exact ⟨_, _, _, _, rfl⟩
    | cons e es ih =>
      rw [List.foldl_cons]
      split
      · obtain ⟨errs, poison, ctr, evs, heq⟩ := ih ((l.dist fun d => { d with errs := delKey e.1 d.errs }).count _)
        exact ⟨errs, poison, ctr, evs, heq⟩
      · obtain ⟨errs, poison, ctr, evs, heq⟩ := ih (Loc.raise _ _)
        exact ⟨errs, poison, ctr, evs, heq⟩

@[simp] theorem Loc.scrub_mem (l : Loc) (a n : Nat) : (l.scrub a n).sp.distaff.mem = l.sp.distaff.mem := by
  obtain ⟨errs, poison, ctr, evs, heq⟩ := l.scrub_eq a n
  rw [heq]; rfl

@[simp] theorem Loc.scrub_pend (l : Loc) (a n : Nat) : (l.scrub a n).sp.pend = l.sp.pend := by
  obtain ⟨errs, poison, ctr, evs, heq⟩ := l.scrub_eq a n
  rw [heq]; rfl

@[simp] theorem Loc.scrub_keeps (l : Loc) (a n : Nat) : (l.scrub a n).Keeps F ↔ l.Keeps F := Loc.keeps_congr (l.scrub_mem a n) (l.scrub_pend a n)

/-- Reads of several places. -/
theorem foldl_scrub_eq {α : Type} (off len : α → Nat) (xs : List α) (l : Loc) :
    ∃ errs poison ctr evs, xs.foldl (fun l x => l.scrub (off x) (len x)) l = l.checked errs poison ctr evs := by
  induction xs generalizing l with
  | nil => exact ⟨_, _, _, _, rfl⟩
  | cons x xs ih =>
    obtain ⟨errs, poison, ctr, evs, heq⟩ := l.scrub_eq (off x) (len x)
    obtain ⟨errs', poison', ctr', evs', heq'⟩ := ih (l.scrub (off x) (len x))
    exact ⟨errs', poison', ctr', evs', by rw [List.foldl_cons, heq', heq]; rfl⟩

theorem Loc.reading_eq (l : Loc) (rs : List (Nat × Nat)) : ∃ errs poison ctr evs, l.reading rs = l.checked errs poison ctr evs :=
  foldl_scrub_eq Prod.fst Prod.snd rs l

@[simp] theorem Loc.reading_keeps (l : Loc) (rs : List (Nat × Nat)) : (l.reading rs).Keeps F ↔ l.Keeps F := by
  obtain ⟨errs, poison, ctr, evs, heq⟩ := l.reading_eq rs
  rw [heq]; rfl

/-- A store writes its bytes; else only check bits, poison, counters and events may differ. -/
theorem Loc.store_eq (l : Loc) (a : Nat) (bs : List Byte) (pw : List Nat) : ∃ errs poison ctr evs, l.store a bs pw =
    (l.setMem (memWrite l.sp.distaff.mem a bs)).checked errs poison ctr evs := by
  unfold Loc.store
  dsimp only
  split
  · next hn => rw [List.length_eq_zero_iff.mp hn]; exact ⟨_, _, _, _, rfl⟩
  · generalize List.filter _ (Loc.dist _ _).sp.distaff.errs = hits
    obtain ⟨errs, poison, ctr, evs, heq⟩ := foldl_scrub_eq (fun e : Nat × Nat => 8 * e.1) (fun _ => 8) hits
      (l.dist fun d => { d with errs := d.errs.filter fun e => !wholeWord a bs.length e.1, poison := d.poison.filter fun w => !wholeWord a bs.length w })
    rw [heq]
    exact ⟨_, _, _, _, rfl⟩

@[simp] theorem Loc.store_mem (l : Loc) (a : Nat) (bs : List Byte) (pw : List Nat) :
    (l.store a bs pw).sp.distaff.mem = memWrite l.sp.distaff.mem a bs := by
  obtain ⟨errs, poison, ctr, evs, heq⟩ := l.store_eq a bs pw
  rw [heq]; rfl

@[simp] theorem Loc.store_pend (l : Loc) (a : Nat) (bs : List Byte) (pw : List Nat) : (l.store a bs pw).sp.pend = l.sp.pend := by
  obtain ⟨errs, poison, ctr, evs, heq⟩ := l.store_eq a bs pw
  rw [heq]; rfl

theorem Loc.store_keeps {l : Loc} (h : l.Keeps F) {a : Nat} {bs : List Byte} (hout : F.Apart a bs.length) (pw : List Nat) :
    (l.store a bs pw).Keeps F := by
  rw [Loc.Keeps, Spindle.Keeps, Loc.store_mem, Loc.store_pend]
  exact ByteFrame.Holds.write h hout

/-- Copies whose lines are read take other bytes; else only check bits, poison, counters and events may differ. -/
theorem Loc.copyRead_eq (l : Loc) (t : Nat) : ∃ errs poison ctr evs g, Recopies g ∧ l.copyRead t =
    (l.setPend (l.sp.pend.map g)).checked errs poison ctr evs := by
  unfold Loc.copyRead
  dsimp only
  generalize List.filter _ l.sp.pend = reads
  obtain ⟨errs, poison, ctr, evs, heq⟩ := foldl_scrub_eq (fun x : Pend => x.src.getD 0) (fun x => x.data.length) reads l
  rw [heq]
  refine ⟨errs, poison, ctr, _, _, ?_, rfl⟩
  intro x
  dsimp only
  split
  · next hmine =>
    refine ⟨rfl, by rw [Loc.rd, memRead_length], rfl, fun hnone => ?_⟩
    rw [hnone] at hmine
    cases hmine
  · exact ⟨rfl, rfl, rfl, fun _ => rfl⟩

/-- A write that lands stores its bytes; copies may be read; else only the flag, check bits, poison, counters, the count of outliers and events
may differ. -/
theorem Loc.landOne_eq (l : Loc) (e : Pend) : ∃ errs poison ctr evs nf n g, Recopies g ∧ l.landOne e =
    ((((l.setMem (memWrite l.sp.distaff.mem e.off e.data)).setPend (l.sp.pend.map g)).noted n nf).checked errs poison ctr evs) := by
  have hread : ∃ errs poison ctr evs g, Recopies g ∧ (if e.fresh then l.copyRead e.at_ else l) =
      (l.setPend (l.sp.pend.map g)).checked errs poison ctr evs := by
    split
    · exact l.copyRead_eq e.at_
    · exact ⟨_, _, _, _, id, fun x => ⟨rfl, rfl, rfl, fun _ => rfl⟩, by rw [List.map_id]; rfl⟩
  obtain ⟨errs, poison, ctr, evs, g, hg, heq⟩ := hread
  unfold Loc.landOne
  dsimp only
  rw [heq]
  obtain ⟨errs', poison', ctr', evs', heq'⟩ := Loc.store_eq ((l.setPend (l.sp.pend.map g)).checked errs poison ctr evs) e.off e.data e.poison
  rw [heq']
  split <;> split <;> exact ⟨_, _, _, _, _, _, g, hg, rfl⟩

/-- The first write under way becomes visible. -/
theorem Loc.landOne_keeps {l : Loc} {e : Pend} {rest : List Pend} (hpend : l.sp.pend = e :: rest) (h : l.Keeps F) :
    ((l.mod fun p => { p with pend := rest }).landOne e).Keeps F := by
  obtain ⟨errs, poison, ctr, evs, nf, n, g, hg, heq⟩ := (l.mod fun p => { p with pend := rest }).landOne_eq e
  rw [heq]
  rw [Loc.Keeps, Spindle.Keeps, hpend] at h
  exact h.landed.recopied hg

@[simp] theorem Loc.landN_keeps {l : Loc} (h : l.Keeps F) (n t : Nat) : (l.landN n t).Keeps F := by
  induction n generalizing l with
  | zero => exact h
  | succ n ih =>
    rw [Loc.landN]
    split
    · next e rest hpend =>
      split
      · exact ih (Loc.landOne_keeps hpend h)
      · exact h
    · exact h

@[simp] theorem Loc.land_keeps {l : Loc} (h : l.Keeps F) (t : Nat) : (l.land t).Keeps F := Loc.landN_keeps h _ _

@[simp] theorem Loc.at_keeps {l : Loc} (h : l.Keeps F) (t : Nat) : (l.at_ t).Keeps F := by
  simp [Loc.at_, h]

@[simp] theorem Loc.pop_keeps {l : Loc} (h : l.Keeps F) (k t occ done : Nat) : (l.pop k t occ done).Keeps F := by
  simp [Loc.pop, h]

@[simp] theorem Loc.reject_keeps {l : Loc} (h : l.Keeps F) (k code da db : Nat) (q : QEntry) : (l.reject k code da db q).Keeps F := by
  simp [Loc.reject, h]

@[simp] theorem Loc.push_keeps {l : Loc} (h : l.Keeps F) {e : Pend} (hout : F.Apart e.off e.data.length) : (l.push e).Keeps F :=
  ByteFrame.Holds.insPend h hout

/-- An empty range meets no frame. -/
@[simp] theorem ByteFrame.apart_zero (F : ByteFrame) (a : Nat) : F.Apart a 0 := fun x _ _ => by omega

@[simp] theorem Pend.bytes_off (t a : Nat) (bs : List Byte) (pw : List Nat) : (Pend.bytes t a bs pw).off = a := rfl
@[simp] theorem Pend.bytes_data (t a : Nat) (bs : List Byte) (pw : List Nat) : (Pend.bytes t a bs pw).data = bs := rfl

@[simp] theorem Loc.flagW_keeps {l : Loc} (h : l.Keeps F) : l.flagW.Keeps F := by
  unfold Loc.flagW
  split
  · exact h
  · exact Loc.push_keeps h (F.apart_zero 0)

@[simp] theorem Loc.flagIf_keeps {l : Loc} (h : l.Keeps F) (b : Bool) : (l.flagIf b).Keeps F := by
  unfold Loc.flagIf
  split <;> simp [h]

@[simp] theorem Loc.wrP_keeps {l : Loc} (h : l.Keeps F) {a : Nat} {bs : List Byte} (hout : F.Apart a bs.length) (pw : List Nat) :
    (l.wrP a bs pw).Keeps F := by
  unfold Loc.wrP
  split
  · exact Loc.store_keeps h hout pw
  · split
    · exact h
    · exact Loc.push_keeps h hout

@[simp] theorem Loc.wr_keeps {l : Loc} (h : l.Keeps F) {a : Nat} {bs : List Byte} (hout : F.Apart a bs.length) : (l.wr a bs).Keeps F :=
  Loc.wrP_keeps h hout []

@[simp] theorem Loc.wrG_keeps {l : Loc} (h : l.Keeps F) {a : Nat} {bs : List Byte} (hout : F.Apart a bs.length) (gs : List Nat) :
    (l.wrG a bs gs).Keeps F := Loc.wrP_keeps h hout _

@[simp] theorem leBytes_length (n v : Nat) : (leBytes n v).length = n := by
  induction n generalizing v with
  | zero => rfl
  | succ n ih => rw [leBytes, List.length_cons, ih]

@[simp] theorem Loc.wr32_keeps {l : Loc} (h : l.Keeps F) {a : Nat} (hout : F.Apart a 4) (v : F32) : (l.wr32 a v).Keeps F :=
  Loc.wr_keeps h (by rwa [leBytes_length])

@[simp] theorem Loc.wr16_keeps {l : Loc} (h : l.Keeps F) {a : Nat} (hout : F.Apart a 2) (v : B16) : (l.wr16 a v).Keeps F :=
  Loc.wr_keeps h (by rwa [leBytes_length])

/-- Writes that become visible in sc t. -/
theorem Loc.seenAt_keeps {l : Loc} (h : l.Keeps F) {f : Loc → Loc} (hf : ∀ l, l.Keeps F → (f l).Keeps F) (t : Nat) : (l.seenAt t f).Keeps F :=
  hf { l with late := some t } h

end
end Sys2Proof.Machine
end

section
/-!
What every operation of a position keeps of its memory: those that store nothing keep every frame, those that store keep the memory canonical.
-/
namespace Sys2Proof.Machine
section
variable {F : ByteFrame} {m : Prop}

/-- A fold of operations that leave memory alone leaves it alone. -/
theorem foldl_keeps_iff {α : Type} {f : Loc → α → Loc} (hf : ∀ l a, (f l a).Keeps F ↔ l.Keeps F) (xs : List α) {l : Loc} :
    (xs.foldl f l).Keeps F ↔ l.Keeps F := by
  induction xs generalizing l with
  | nil => rfl
  | cons x xs ih => exact ih.trans (hf l x)

@[simp] theorem Loc.flagWhere_keeps {c : Prop} [Decidable c] (l : Loc) : (if c then l.flag else l).Keeps F ↔ l.Keeps F := by
  split <;> rfl

@[simp] theorem Loc.abortStrm_keeps (l : Loc) (h t : Nat) : (Loc.abortStrm l h t).Keeps F ↔ l.Keeps F := by
  unfold Loc.abortStrm
  dsimp only
  (repeat' split) <;> simp

@[simp] theorem Loc.halfStop_keeps (l : Loc) (h : Nat) : (Loc.halfStop l h).Keeps F ↔ l.Keeps F := by
  unfold Loc.halfStop
  dsimp only
  (repeat' split) <;> simp

@[simp] theorem Loc.whorlFault_keeps (l : Loc) (h : Nat) (e : Ev) : (Loc.whorlFault l h e).Keeps F ↔ l.Keeps F := by
  unfold Loc.whorlFault
  simp

@[simp] theorem Loc.whorlReject_keeps {l : Loc} (hl : l.Keeps F) (h t code da db : Nat) (q : QEntry) :
    (Loc.whorlReject l h t code da db q).Keeps F := by
  unfold Loc.whorlReject
  simp [hl]

@[simp] theorem Loc.illegal_keeps {l : Loc} (hl : l.Keeps F) (k : Nat) (q : QEntry) : (Loc.illegal l k q).Keeps F := by
  unfold Loc.illegal
  split <;> simp [hl]

@[simp] theorem Loc.popWords_keeps (l : Loc) (q n t : Nat) : (Loc.popWords l q n t).Keeps F ↔ l.Keeps F := by
  unfold Loc.popWords
  simp

@[simp] theorem Loc.bubbles_keeps (l : Loc) (n : Nat) : (Loc.bubbles l n).Keeps F ↔ l.Keeps F := by
  unfold Loc.bubbles
  simp

@[simp] theorem Loc.strmEnd_keeps {l : Loc} (hl : l.Keeps F) (h t e c bank : Nat) : (Loc.strmEnd l h t e c bank).Keeps F := by
  unfold Loc.strmEnd
  simp [hl]

@[simp] theorem Loc.fillCheck_keeps (l : Loc) (h : Nat) (sel : Option Nat) (a b : List (List B16)) (q : List (List F32)) (frozen : List (Nat × Nat)) (c : Nat) :
    (Loc.fillCheck l h sel a b q frozen c).Keeps F ↔ l.Keeps F := by
  unfold Loc.fillCheck
  split <;> simp

@[simp] theorem loadStep_keeps (s : State) (p h t : Nat) (o : WOp) (l : Loc) : (loadStep s p h t o l).Keeps F ↔ l.Keeps F := by
  unfold loadStep
  dsimp only
  (repeat' split) <;> simp

@[simp] theorem rowStep_keeps (s : State) (p h t : Nat) (o : WOp) {l : Loc} (hl : l.Keeps F) : (rowStep s p h t o l).Keeps F := by
  unfold rowStep
  dsimp only
  (repeat' split) <;> simp [hl]

@[simp] theorem earlyStep_keeps (s : State) (p h : Nat) (o : WOp) (ts : List Nat) (l : Loc) :
    (earlyStep s p h o ts l).Keeps F ↔ l.Keeps F := by
  unfold earlyStep
  dsimp only
  split <;> simp [foldl_keeps_iff]

@[simp] theorem tileStep_keeps (s : State) (p h t : Nat) (o : WOp) {l : Loc} (hl : l.Keeps F) : (tileStep s p h t o l).Keeps F := by
  unfold tileStep
  extract_lets w fa fb k n as bs l₁ fst ta tb chk y cl mask acc chunk taken kref sel keep took tt sums tr
  have hl₁ : l₁.Keeps F := by simp [l₁, hl]
  clear_value l₁
  dsimp only
  split
  · simp [hl₁]
  · split
    · rwa [Loc.half_keeps, Loc.flagWhere_keeps]
    · split
      · rwa [Loc.half_keeps, Loc.half_keeps, Loc.flagWhere_keeps]
      · rw [Loc.fillCheck_keeps]
        refine Loc.strmEnd_keeps ?_ _ _ _ _ _
        rwa [Loc.half_keeps, Loc.flagWhere_keeps]

@[simp] theorem drive_keeps {step : Loc → Option Loc} (hstep : ∀ l l', step l = some l' → l.Keeps F → l'.Keeps F) (n : Nat) {l : Loc}
    (hl : l.Keeps F) : (drive step n l).Keeps F := by
  induction n generalizing l with
  | zero => exact hl
  | succ n ih =>
    rw [drive]
    split
    · next l' hsome => exact ih (hstep l l' hsome hl)
    · exact hl

@[simp] theorem pumpStep_keeps (s : State) (p h lim : Nat) {l : Loc} (hl : l.Keeps F) : ∀ l' ∈ pumpStep s p h lim l, l'.Keeps F := by
  unfold pumpStep
  dsimp only
  (repeat' split) <;> simp [hl]

@[simp] theorem Loc.bubblesSeen_keeps (l : Loc) (t : Nat) : (Loc.bubblesSeen l t).Keeps F ↔ l.Keeps F := by
  unfold Loc.bubblesSeen
  simp

theorem pumpStep_mem_keeps {s : State} {p h t : Nat} (l l' : Loc) (hsome : pumpStep s p h t l = some l') (hl : l.Keeps F) : l'.Keeps F :=
  pumpStep_keeps s p h t hl l' hsome

@[simp] theorem pumpTo_keeps (s : State) (p h t : Nat) {l : Loc} (hl : l.Keeps F) : (pumpTo s p h t l).Keeps F :=
  drive_keeps pumpStep_mem_keeps _ hl

@[simp] theorem pump_keeps (s : State) (p h : Nat) {l : Loc} (hl : l.Keeps F) : (pump s p h l).Keeps F := by
  unfold pump
  simp [hl]

@[simp] theorem pumped_keeps (s : State) (p k t : Nat) {l : Loc} (hl : l.Keeps F) : (pumped s p k t l).Keeps F := by
  unfold pumped
  split <;> simp [hl]

@[simp] theorem pumpThen_keeps (s : State) (p k t : Nat) {f : Loc → Loc} {l : Loc} (hl : l.Keeps F) (hf : ∀ l, l.Keeps F → (f l).Keeps F) :
    (pumpThen s p k t f l).Keeps F := by
  unfold pumpThen
  dsimp only
  split
  · simp [hl]
  · exact hf _ (by simp [hl])

@[simp] theorem illegalAt_keeps (s : State) (p k : Nat) (q : QEntry) {l : Loc} (hl : l.Keeps F) : (illegalAt s p k q l).Keeps F :=
  pumpThen_keeps s p k _ hl fun l hl => by simp [hl]

@[simp] theorem pumpWhile_keeps (s : State) (p h : Nat) (c : Half → Bool) {l : Loc} (hl : l.Keeps F) : (pumpWhile s p h c l).Keeps F := by
  refine drive_keeps (fun l l' hsome hl => ?_) _ hl
  split at hsome
  · exact pumpStep_mem_keeps l l' hsome hl
  · cases hsome

@[simp] theorem pumpAll_keeps (s : State) (p k : Nat) {l : Loc} (hl : l.Keeps F) : (pumpAll s p k l).Keeps F := by
  unfold pumpAll
  split <;> simp [hl]

@[simp] theorem fetchLine_keeps (k t : Nat) (l : Loc) : (fetchLine k t l).Keeps F ↔ l.Keeps F := by
  unfold fetchLine
  exact Loc.scrub_keeps ..

@[simp] theorem fetchStep_keeps (s : State) (p : Nat) {l : Loc} (hl : l.Keeps F) : (fetchStep s p l).Keeps F := by
  unfold fetchStep
  dsimp only
  (repeat' split) <;> simp [hl]

@[simp] theorem lineArrives_keeps (s : State) (p k : Nat) (f : Fetch) (fs : List Fetch) {l : Loc} (hl : l.Keeps F) :
    (lineArrives s p k f fs l).Keeps F := by
  unfold lineArrives
  split <;> simp [hl]

@[simp] theorem retire_keeps (k t : Nat) (halt : Bool) (phase : Nat) {l : Loc} (hl : l.Keeps F) : (retire k t halt phase l).Keeps F := by
  unfold retire
  simp [hl]

@[simp] theorem Loc.syncErr_keeps (l : Loc) (s : State) (p code kind stream woff obj seen count : Nat) :
    (Loc.syncErr l s p code kind stream woff obj seen count).Keeps F ↔ l.Keeps F := by
  unfold Loc.syncErr
  simp

@[simp] theorem Loc.setSem_keeps (l : Loc) (n v : Nat) : (Loc.setSem l n v).Keeps F ↔ l.Keeps F := by
  unfold Loc.setSem
  simp

@[simp] theorem satisfy_keeps (s : State) (p k t : Nat) (q : QEntry) {l : Loc} (hl : l.Keeps F) : (satisfy s p k t q l).Keeps F := by
  unfold satisfy
  split <;> simp [hl]

@[simp] theorem swaitAct_keeps (s : State) (p k t : Nat) (q : QEntry) {l : Loc} (hl : l.Keeps F) : (swaitAct s p k t q l).Keeps F := by
  unfold swaitAct
  dsimp only
  (repeat' split) <;> simp [hl]

@[simp] theorem serveOne_keeps (s : State) (p n t k : Nat) {l : Loc} (hl : l.Keeps F) : (serveOne s p n t k l).Keeps F := by
  unfold serveOne
  split
  · refine pumpThen_keeps s p k t hl fun l hl => ?_
    split <;> simp [hl]
  · exact hl

@[simp] theorem serveWaits_keeps (s : State) (p n t : Nat) {l : Loc} (hl : l.Keeps F) : (serveWaits s p n t l).Keeps F := by
  unfold serveWaits
  exact foldl_keepsFrame (fun l x hl => by simp [hl]) _ hl

@[simp] theorem ssigDo_keeps (k t : Nat) (q : QEntry) {l : Loc} (hl : l.Keeps F) : (ssigDo k t q l).Keeps F := by
  unfold ssigDo
  simp [hl]

@[simp] theorem sigAdd_keeps (s : State) (p : Nat) (g : Sig) (rest : List Sig) {l : Loc} (hl : l.Keeps F) : (sigAdd s p g rest l).Keeps F := by
  unfold sigAdd
  dsimp only
  (repeat' split) <;> simp [hl]

/-- A write to an empty range lands at once. -/
theorem Loc.landOne_empty_keeps {l : Loc} (hl : l.Keeps F) {e : Pend} (he : e.data = []) : (l.landOne e).Keeps F := by
  obtain ⟨errs, poison, ctr, evs, nf, n, g, hg, heq⟩ := l.landOne_eq e
  rw [heq, he]
  exact ByteFrame.Holds.recopied hl hg

@[simp] theorem noteBlock_keeps (k woff tid b : Nat) (blk : Block) {l : Loc} (hl : l.Keeps F) : (noteBlock k woff tid b blk l).Keeps F := by
  unfold noteBlock
  dsimp only
  split
  · exact Loc.push_keeps hl (F.apart_zero 0)
  · rw [Loc.raise_keeps]
    exact Loc.landOne_empty_keeps hl rfl
  · exact Loc.landOne_empty_keeps hl rfl

@[simp] theorem writeBlock_keeps (s : State) (p : Nat) (h : Header) (b : Nat) (blk : Block) {l : Loc} (hl : l.Keeps (ByteFrame.canon m)) :
    (writeBlock s p h b blk l).Keeps (ByteFrame.canon m) := by
  unfold writeBlock
  split <;> simp (disch := simp [hl])

@[simp] theorem writeBlocks_keeps (s : State) (p k woff : Nat) (h : Header) (sr : Bool) (b : Nat) (xs : List (List F32)) {l : Loc}
    (hl : l.Keeps (ByteFrame.canon m)) : (writeBlocks s p k woff h sr b xs l).Keeps (ByteFrame.canon m) := by
  induction xs generalizing b l with
  | nil => exact hl
  | cons x xs ih => exact ih (b + 1) (by simp [hl])

/-- A frame apart from a range is apart from what it begins with. -/
theorem ByteFrame.Apart.mono {off n k : Nat} (h : F.Apart off n) (hk : k ≤ n) : F.Apart off k := fun a b hab => by
  have := h a b hab
  omega

/-- The bytes of values in BF16 or FP32. -/
theorem valBytes_length (bf : Bool) (vs : List F32) :
    (vs.flatMap fun v => if bf then leBytes 2 (narrow16 v).toNat else leBytes 4 v.toNat).length = vs.length * esz bf := by
  induction vs with
  | nil => exact (Nat.zero_mul _).symm
  | cons v vs ih =>
    rw [List.flatMap_cons, List.length_append, ih, List.length_cons, Nat.succ_mul, Nat.add_comm]
    cases bf <;> simp [esz]

@[simp] theorem wrVals_keeps {bf : Bool} {a : Nat} {vs : List F32} {l : Loc} (hl : l.Keeps F) (hout : F.Apart a (vs.length * esz bf)) :
    (wrVals bf a vs l).Keeps F :=
  Loc.wr_keeps hl (by rwa [valBytes_length])

@[simp] theorem mloadDo_keeps (s : State) (p k : Nat) (q : QEntry) {l : Loc} (hl : l.Keeps F) : (mloadDo s p k q l).Keeps F := by
  unfold mloadDo
  simp [hl]

@[simp] theorem Loc.select_keeps (l : Loc) (s : State) (p h t ltag : Nat) (nochk ok : Bool) :
    (Loc.select l s p h t ltag nochk ok).1.Keeps F ↔ l.Keeps F := by
  unfold Loc.select
  dsimp only
  (repeat' split) <;> simp

@[simp] theorem startOp_keeps (s : State) (p k t cls due row : Nat) (nochk : Bool) (fmts : List Nat) (krefOk : Bool) (acc : List (List F32)) (q : QEntry) {l : Loc} (hl : l.Keeps F) :
    (startOp s p k t cls due row nochk fmts krefOk acc q l).Keeps F := by
  unfold startOp
  dsimp only
  (repeat' split) <;> simp [hl]

@[simp] theorem mstreamDo_keeps (s : State) (p k : Nat) (q : QEntry) {l : Loc} (hl : l.Keeps F) (t row : Nat) :
    (mstreamDo s p k q l t row).Keeps F := by
  unfold mstreamDo
  simp [hl]

@[simp] theorem pathReady_keeps (s : State) (p k : Nat) {l : Loc} (hl : l.Keeps F) : (pathReady s p k l).Keeps F := by
  unfold pathReady
  simp [hl]

@[simp] theorem planeReady_keeps (s : State) (p k : Nat) (w : KWord) {l : Loc} (hl : l.Keeps F) : (planeReady s p k w l).Keeps F := by
  unfold planeReady
  dsimp only
  (repeat' split) <;> simp [hl]

@[simp] theorem mshapeDo_keeps (s : State) (p k : Nat) (q : QEntry) (t row : Nat) {l : Loc} (hl : l.Keeps F) :
    (mshapeDo s p k q t row l).Keeps F := by
  unfold mshapeDo
  simp [hl]

@[simp] theorem msplitPump_keeps (s : State) (p : Nat) (on : Bool) {l : Loc} (hl : l.Keeps F) : (msplitPump s p on l).Keeps F := by
  unfold msplitPump
  dsimp only
  (repeat' split) <;> simp [hl]

@[simp] theorem enterSplit_keeps (sp : Spindle) : (enterSplit sp).Keeps F ↔ sp.Keeps F := Iff.rfl
@[simp] theorem leaveSplit_keeps (t : Nat) (sp : Spindle) : (leaveSplit t sp).Keeps F ↔ sp.Keeps F := Iff.rfl

@[simp] theorem msplitDo_keeps (on : Bool) (t : Nat) (l : Loc) : (msplitDo on t l).Keeps F ↔ l.Keeps F := by
  unfold msplitDo
  split
  · rfl
  · split <;> simp

@[simp] theorem Loc.bread_keeps (h key : Nat) (l : Loc) : (Loc.bread h key l).Keeps F ↔ l.Keeps F := by
  unfold Loc.bread
  dsimp only
  (repeat' split) <;> simp

@[simp] theorem Loc.flagWhen_keeps (l : Loc) (b : Bool) : (Loc.flagWhen l b).Keeps F ↔ l.Keeps F := by
  unfold Loc.flagWhen
  simp

@[simp] theorem Loc.openRow_keeps (l : Loc) (h row : Nat) : (Loc.openRow l h row).Keeps F ↔ l.Keeps F := by
  unfold Loc.openRow
  split <;> simp

@[simp] theorem promoteDo_keeps (s : State) (p h : Nat) (g : Handed) (rest : List Handed) {l : Loc} (hl : l.Keeps F) :
    (promoteDo s p h g rest l).Keeps F := by
  have hopen : (if g.vals.isEmpty then l.at_ g.at_ else (l.at_ g.at_).openRow h (g.bank * 1024 + g.row)).Keeps F := by
    split <;> simp [hl]
  unfold promoteDo
  dsimp only
  rw [Loc.flagWhen_keeps, Loc.half_keeps]
  split
  · exact hopen
  · exact (foldl_keeps_iff (fun l k => by simp) _).mpr hopen

@[simp] theorem setupDo_keeps (k : Nat) (q : QEntry) {l : Loc} (hl : l.Keeps F) : (setupDo k q l).Keeps F := by
  unfold setupDo
  simp [hl]

@[simp] theorem swapDo_keeps (k t : Nat) {l : Loc} (hl : l.Keeps F) : (swapDo k t l).Keeps F := by
  unfold swapDo
  simp [hl]

@[simp] theorem queueOp_keeps (k t : Nat) (sw sel : Bool) (q : QEntry) {l : Loc} (hl : l.Keeps F) : (queueOp k t sw sel q l).Keeps F := by
  unfold queueOp
  simp [hl]

@[simp] theorem wrRow_keeps (a z : Nat) (es : List (List Byte × Bool)) {l : Loc} (hl : l.Keeps (ByteFrame.canon m)) :
    (wrRow a z es l).Keeps (ByteFrame.canon m) := by
  unfold wrRow
  simp [hl]

@[simp] theorem readRow_keeps (h : Nat) (d : DataOp) (row j : Nat) (l : Loc) : (readRow h d row j l).1.Keeps F ↔ l.Keeps F := by
  unfold readRow
  exact foldl_keeps_iff (fun l x => by simp) _

@[simp] theorem drainRow_keeps (h t done : Nat) (d : DataOp) (row : Nat) {x : Loc × Nat} (hx : x.1.Keeps (ByteFrame.canon m)) (j : Nat) :
    (drainRow h t done d row x j).1.Keeps (ByteFrame.canon m) := by
  unfold drainRow
  dsimp only
  exact Loc.seenAt_keeps (foldl_keepsFrame (fun l e hl => by simp [hl]) _ (by simp [hx])) (fun l hl => by simp [hl]) done

@[simp] theorem doDrain_keeps (h t done : Nat) (d : DataOp) (row : Nat) {l : Loc} (hl : l.Keeps (ByteFrame.canon m)) :
    (doDrain h t done d row l).Keeps (ByteFrame.canon m) := by
  unfold doDrain
  have hall (js : List Nat) (x : Loc × Nat) (hx : x.1.Keeps (ByteFrame.canon m)) : (js.foldl (drainRow h t done d row) x).1.Keeps (ByteFrame.canon m) := by
    induction js generalizing x with
    | nil => exact hx
    | cons j js ih => exact ih _ (by simp [hx])
  exact hall _ _ hl

@[simp] theorem doSpill_keeps (h done : Nat) (d : DataOp) (row : Nat) {l : Loc} (hl : l.Keeps (ByteFrame.canon m)) :
    (doSpill h done d row l).Keeps (ByteFrame.canon m) := by
  unfold doSpill
  refine foldl_keepsFrame (fun l j hl => ?_) _ (Loc.seenAt_keeps hl (fun l hl => by simp [hl]) done)
  exact Loc.seenAt_keeps ((readRow_keeps _ _ _ _ _).mpr hl) (fun l hl => wrRow_keeps _ _ _ hl) done

@[simp] theorem takeElem_keeps (h a e k : Nat) (m l : Loc) : (takeElem h a e k m l).Keeps F ↔ l.Keeps F := by
  unfold takeElem
  rfl

@[simp] theorem doResume_keeps (h t : Nat) (d : DataOp) (row : Nat) (l : Loc) : (doResume h t d row l).Keeps F ↔ l.Keeps F := by
  unfold doResume
  dsimp only
  split
  · simp
  · refine (foldl_keeps_iff (fun l j => ?_) _).trans (Loc.scrub_keeps l _ _)
    refine (foldl_keeps_iff (fun l n => takeElem_keeps _ _ _ _ _ l) _).trans ?_
    simp

@[simp] theorem runOp_keeps (h t : Nat) (d : DataOp) {l : Loc} (hl : l.Keeps (ByteFrame.canon m)) : (runOp h t d l).Keeps (ByteFrame.canon m) := by
  unfold runOp
  dsimp only
  (repeat' split) <;> simp [hl]

@[simp] theorem Loc.feedReject_keeps {l : Loc} (hl : l.Keeps F) (port code da db : Nat) (q : QEntry) :
    (Loc.feedReject l port code da db q).Keeps F := by
  unfold Loc.feedReject
  split <;> simp [hl]

@[simp] theorem Loc.toChan_keeps {l : Loc} (hl : l.Keeps F) (port : Nat) (kind : FeedKind) (shadow : Option (Nat × Nat)) (q : QEntry) (head : List Nat) :
    (Loc.toChan l port kind shadow q head).Keeps F := by
  unfold Loc.toChan
  simp [hl]

@[simp] theorem tfeedDo_keeps (q : QEntry) {l : Loc} (hl : l.Keeps F) (head : List Nat) : (tfeedDo q l head).Keeps F := by
  unfold tfeedDo
  simp [hl]

@[simp] theorem feedPumped_keeps (s : State) (p port : Nat) {l : Loc} (hl : l.Keeps F) : (feedPumped s p port l).Keeps F := by
  unfold feedPumped
  split <;> simp [hl]

@[simp] theorem Loc.headPoison_keeps {l : Loc} (hl : l.Keeps F) (s : State) (p a : Nat) (q : QEntry) :
    ∀ l' ∈ Loc.headPoison l s p a q, l'.Keeps F := by
  unfold Loc.headPoison
  simp [hl]

@[simp] theorem trotDo_keeps (q : QEntry) (head : List Nat) {l : Loc} (hl : l.Keeps F) : (trotDo q head l).Keeps F := by
  unfold trotDo
  simp [hl]

@[simp] theorem rotOpen_keeps (w : KWord) (l : Loc) : (rotOpen w l).Keeps F ↔ l.Keeps F := by
  unfold rotOpen
  simp

@[simp] theorem takeMask_keeps (port : Nat) (it : FeedItem) (l : Loc) : (takeMask port it l).Keeps F ↔ l.Keeps F := by
  unfold takeMask
  simp

@[simp] theorem putWord_keeps (s : State) (p port t cur last : Nat) (it : FeedItem) (b : Built) (rest : List Built) (bad : Option Nat) {l : Loc}
    (hl : l.Keeps F) : (putWord s p port t cur last it b rest bad l).Keeps F := by
  have hwide : (if b.wide then (l.at_ t).flag else l.at_ t).Keeps F := by
    split <;> simp [hl]
  have hblocks : (b.blocks.foldl (fun l k => noteBlock 2 it.woff b.tid k.1 k.2 l) (if b.wide then (l.at_ t).flag else l.at_ t)).Keeps F :=
    foldl_keepsFrame (fun l k hl => by simp [hl]) _ hwide
  unfold putWord
  extract_lets i l₁ f b' fw fin l₂ l₃ l₄
  have hl₄ : l₄.Keeps F := by
    simp only [l₄]
    split
    · rw [Loc.strm_keeps]; exact hblocks
    · exact hblocks
  split
  · simp [hl₄]
  · split <;> simp [hl₄]

@[simp] theorem formWords_keeps (s : State) (p port : Nat) (it : FeedItem) {l : Loc} (hl : l.Keeps F) : (formWords s p port it l).1.Keeps F := by
  unfold formWords
  split <;> simp [hl]

@[simp] theorem enterWord_keeps (s : State) (p port : Nat) (it : FeedItem) {l : Loc} (hl : l.Keeps F) : (enterWord s p port it l).Keeps F := by
  unfold enterWord
  dsimp only
  (repeat' split) <;> simp [hl]

@[simp] theorem makeRoom_keeps (s : State) (p port : Nat) {l : Loc} (hl : l.Keeps F) : (makeRoom s p port l).Keeps F := by
  unfold makeRoom
  dsimp only
  split
  · refine drive_keeps (fun l l' hsome hl => ?_) _ hl
    split at hsome
    · exact pumpStep_mem_keeps l l' hsome hl
    · cases hsome
  · exact hl

@[simp] theorem feedEnter_keeps (s : State) (p port n : Nat) {l : Loc} (hl : l.Keeps F) : (feedEnter s p port n l).Keeps F := by
  induction n generalizing l with
  | zero => exact hl
  | succ n ih =>
    rw [feedEnter]
    split
    · exact hl
    · split
      · exact ih (by simp [hl])
      · dsimp only
        split
        · exact enterWord_keeps _ _ _ _ (by simp [hl])
        · simp [hl]

@[simp] theorem Loc.recEv_keeps (l : Loc) (s : State) (p code k woff obj seen count : Nat) :
    (Loc.recEv l s p code k woff obj seen count).Keeps F ↔ l.Keeps F := by
  unfold Loc.recEv
  simp

@[simp] theorem Loc.carderReject_keeps {l : Loc} (hl : l.Keeps F) (s : State) (p code a : Nat) (q : QEntry) :
    (Loc.carderReject l s p code a q).Keeps F := by
  unfold Loc.carderReject
  split <;> simp [hl]

@[simp] theorem Loc.copyLine_keeps (u src dst n : Nat) {l : Loc} (hl : l.Keeps F) (hout : F.Apart dst n) : (l.copyLine u src dst n).Keeps F := by
  have hfirst : (l.push { Pend.bytes u dst ((l.land (u - 9)).rd src n) (((l.land (u - 9)).granules src n).map fun g => dst + 4 * g) with
      src := some src }).Keeps F := Loc.push_keeps hl (by simpa [Loc.rd, memRead_length] using hout)
  exact Loc.push_keeps hfirst (F.apart_zero 0)

/-- A copy of lines that the frame says nothing of. -/
theorem Loc.copyLines_keeps_of_apart {l : Loc} (hl : l.Keeps F) {src dst n : Nat} (vis : Nat → Nat) (hout : ∀ x ∈ segs dst n, F.Apart x.1 x.2) :
    (l.copyLines src dst n vis).Keeps F := by
  have hall (xs : List ((Nat × Nat) × Nat)) (hxs : ∀ x ∈ xs, F.Apart x.1.1 x.1.2) {l : Loc} (hl : l.Keeps F) :
      (xs.foldl (fun l x => l.copyLine (vis x.2) (src + (x.1.1 - dst)) x.1.1 x.1.2) l).Keeps F := by
    induction xs generalizing l with
    | nil => exact hl
    | cons x xs ih =>
      exact ih (fun y hy => hxs y (List.mem_cons_of_mem x hy)) (Loc.copyLine_keeps _ _ _ _ hl (hxs x List.mem_cons_self))
  exact hall _ (fun x hx => hout x.1 (List.fst_mem_of_mem_zipIdx hx)) hl

@[simp] theorem Loc.copyLines_keeps {l : Loc} (hl : l.Keeps (ByteFrame.canon m)) (src dst n : Nat) (vis : Nat → Nat) :
    (l.copyLines src dst n vis).Keeps (ByteFrame.canon m) := Loc.copyLines_keeps_of_apart hl vis fun _ _ => ByteFrame.canon_apart m _ _

@[simp] theorem loftAlloc_keeps (a : Access) (l : Loc) : (loftAlloc a l).Keeps F ↔ l.Keeps F := by
  unfold loftAlloc
  dsimp only
  (repeat' split) <;> simp

@[simp] theorem loftHit_keeps (p t : Nat) (a : Access) (l : Loc) : (loftHit p t a l).1.Keeps F ↔ l.Keeps F := by
  unfold loftHit
  dsimp only
  (repeat' split) <;> simp

@[simp] theorem Loc.newJob_keeps (l : Loc) (woff n toPresent toArrive : Nat) (hold : Bool) :
    (Loc.newJob l woff n toPresent toArrive hold).Keeps F ↔ l.Keeps F := by
  unfold Loc.newJob
  simp

@[simp] theorem Loc.endJob_keeps (l : Loc) (inst t : Nat) : (Loc.endJob l inst t).Keeps F ↔ l.Keeps F := by
  unfold Loc.endJob
  simp

@[simp] theorem Loc.sends_keeps (l : Loc) (a : Access) : (Loc.sends l a).Keeps F ↔ l.Keeps F := by
  unfold Loc.sends
  simp

@[simp] theorem ownMove_keeps (s : State) (p : Nat) (put_ : Bool) (q : QEntry) {l : Loc} (hl : l.Keeps (ByteFrame.canon m)) :
    (ownMove s p put_ q l).Keeps (ByteFrame.canon m) := by
  unfold ownMove
  simp [hl]

@[simp] theorem ownPut_keeps (s : State) (p : Nat) (q : QEntry) {l : Loc} (hl : l.Keeps F) : (ownPut s p q l).Keeps F := by
  unfold ownPut
  simp [hl]

@[simp] theorem Loc.presents_keeps {l : Loc} (hl : l.Keeps F) (t : Nat) (q : QEntry) (as : List Access) (arrive : Nat) :
    (Loc.presents l t q as arrive).Keeps F := by
  unfold Loc.presents
  simp [hl]

@[simp] theorem Loc.fetchPut_keeps (l : Loc) (a : Access) : (Loc.fetchPut l a).1.Keeps F ↔ l.Keeps F := by
  unfold Loc.fetchPut
  simp

@[simp] theorem addDo_keeps (s : State) (p : Nat) (q : QEntry) (b cnt : Nat) {l : Loc} (hl : l.Keeps F) (hdr : Nat) (bad : Option Nat) :
    (addDo s p q b cnt l hdr bad).Keeps F := by
  unfold addDo
  simp [hl]

@[simp] theorem fillPacket_keeps (s : State) (p : Nat) (a : Access) (l : Loc) : (fillPacket s p a l).1.Keeps F ↔ l.Keeps F := by
  unfold fillPacket
  split <;> simp

@[simp] theorem presented_keeps (l : Loc) (inst t : Nat) (gap : Nat) : (presented l inst t gap).Keeps F ↔ l.Keeps F := by
  unfold presented
  dsimp only
  (repeat' split) <;> simp

@[simp] theorem dropInst_keeps (inst : Nat) (l : Loc) : (dropInst inst l).Keeps F ↔ l.Keeps F := by
  unfold dropInst
  simp

@[simp] theorem holdBack_keeps (t : Nat) (a : Access) (rest : List Access) (l : Loc) : (holdBack t a rest l).Keeps F ↔ l.Keeps F := by
  unfold holdBack
  simp

@[simp] theorem Loc.arrived_keeps (l : Loc) (inst t : Nat) : (Loc.arrived l inst t).Keeps F ↔ l.Keeps F := by
  unfold Loc.arrived
  dsimp only
  (repeat' split) <;> simp

@[simp] theorem cfeDo_keeps (s : State) (p op : Nat) (q : QEntry) {l : Loc} (hl : l.Keeps F) : (cfeDo s p op q l).Keeps F := by
  unfold cfeDo
  dsimp only
  (repeat' split) <;> simp [hl]

@[simp] theorem armDo_keeps (n r : Nat) {l : Loc} (hl : l.Keeps (ByteFrame.canon m)) : (armDo n r l).Keeps (ByteFrame.canon m) := by
  unfold armDo
  dsimp only
  rw [Loc.reel_keeps]
  split
  · exact foldl_keepsFrame (fun l x hl => Loc.seenAt_keeps hl (fun l hl => by simp [hl]) _) _ (by simp [hl])
  · simp [hl]

@[simp] theorem rcloseDo_keeps (q : QEntry) (b : Buffer) {l : Loc} (hl : l.Keeps F) : (rcloseDo q b l).Keeps F := by
  unfold rcloseDo
  simp [hl]

@[simp] theorem convOut_keeps (c : Conv) (t : Nat) {l : Loc} (hl : l.Keeps (ByteFrame.canon m)) : (convOut c t l).Keeps (ByteFrame.canon m) := by
  unfold convOut
  refine foldl_keepsFrame (fun l x hl => Loc.seenAt_keeps hl (fun l hl => ?_) _) _ hl
  dsimp only
  split <;> simp [hl]

@[simp] theorem Loc.reelWork_keeps {l : Loc} (hl : l.Keeps F) (t n : Nat) (cur : Option Nat) : (Loc.reelWork l t n cur).Keeps F := by
  unfold Loc.reelWork
  simp [hl]

theorem Loc.reelWrites_keeps {l : Loc} (hl : l.Keeps F) (t : Nat) {f : Loc → Loc} (hf : ∀ l, l.Keeps F → (f l).Keeps F) :
    (l.reelWrites t f).Keeps F := by
  have hf' : (fun l : Loc => f { l with reeler := true }) = fun l => f { l with reeler := true } := rfl
  exact Loc.seenAt_keeps hl (f := fun l => f { l with reeler := true }) (fun l hl => hf _ hl) (t + 4)

@[simp] theorem addElem_keeps (b : Buffer) (i : Nat) (v : F32) (bad wide : Bool) {l : Loc} (hl : l.Keeps (ByteFrame.canon m)) :
    (addElem b i v bad wide l).Keeps (ByteFrame.canon m) := by
  unfold addElem
  dsimp only
  split
  · simp [hl]
  · split <;> simp (disch := simp [hl])

@[simp] theorem Loc.endCfe_keeps (l : Loc) (inst t : Nat) : (Loc.endCfe l inst t).Keeps F ↔ l.Keeps F := by
  unfold Loc.endCfe
  split <;> simp

@[simp] theorem cfeAnswer_keeps (s : State) (p t : Nat) (r : Reply) (c : CfeArg) {l : Loc} (hl : l.Keeps (ByteFrame.canon m)) :
    (cfeAnswer s p t r c l).Keeps (ByteFrame.canon m) := by
  unfold cfeAnswer
  dsimp only
  split
  · split <;> simp [hl]
  · split
    · simp [hl]
    · rw [Loc.endCfe_keeps]
      exact Loc.seenAt_keeps (by simp [hl]) (fun l hl => by simp [hl]) _

@[simp] theorem Loc.cplyReject_keeps {l : Loc} (hl : l.Keeps F) (s : State) (p code : Nat) (q : QEntry) : (Loc.cplyReject l s p code q).Keeps F := by
  unfold Loc.cplyReject
  simp [hl]

@[simp] theorem Loc.wake_keeps (l : Loc) : (Loc.wake l).Keeps F ↔ l.Keeps F := by
  unfold Loc.wake
  simp

@[simp] theorem Loc.hankErr_keeps {l : Loc} (hl : l.Keeps F) (s : State) (p code t : Nat) (q : QEntry) : (Loc.hankErr l s p code t q).Keeps F := by
  unfold Loc.hankErr
  simp [hl]

@[simp] theorem copyData_keeps (t n : Nat) (src dst : Nat → Nat) {l : Loc} (hl : l.Keeps (ByteFrame.canon m)) :
    (copyData t n src dst l).Keeps (ByteFrame.canon m) := by
  unfold copyData
  exact foldl_keepsFrame (fun l x hl => by simp [hl]) _ hl

@[simp] theorem startPush_keeps (t : Nat) (q : QEntry) {l : Loc} (hl : l.Keeps (ByteFrame.canon m)) : (startPush t q l).Keeps (ByteFrame.canon m) := by
  unfold startPush
  dsimp only
  rw [Loc.hankM_keeps]
  exact copyData_keeps _ _ _ _ (Loc.seenAt_keeps (by simp [hl]) (fun l hl => by simp [hl]) _)

@[simp] theorem Loc.hankWait_keeps {l : Loc} (hl : l.Keeps F) (t : Nat) (q : QEntry) : (Loc.hankWait l t q).Keeps F := by
  unfold Loc.hankWait
  simp [hl]

@[simp] theorem pushDo_keeps (s : State) (p t : Nat) (q : QEntry) {l : Loc} (hl : l.Keeps (ByteFrame.canon m)) :
    (pushDo s p t q l).Keeps (ByteFrame.canon m) := by
  unfold pushDo
  dsimp only
  (repeat' split) <;> simp [hl]

@[simp] theorem pushAgain_keeps (w : HankWait) {l : Loc} (hl : l.Keeps (ByteFrame.canon m)) : (pushAgain w l).Keeps (ByteFrame.canon m) := by
  unfold pushAgain
  split
  · split <;> simp [hl]
  · exact hl

@[simp] theorem Loc.orderErr_keeps {l : Loc} (hl : l.Keeps F) (t : Nat) (q : QEntry) (e : Option HankEntry) : (Loc.orderErr l t q e).Keeps F := by
  unfold Loc.orderErr
  simp [hl]

@[simp] theorem popDo_keeps (t : Nat) (q : QEntry) (e : HankEntry) {l : Loc} (hl : l.Keeps (ByteFrame.canon m)) :
    (popDo t q e l).Keeps (ByteFrame.canon m) := by
  unfold popDo
  simp [hl]

@[simp] theorem startPop_keeps (t : Nat) (q : QEntry) {l : Loc} (hl : l.Keeps (ByteFrame.canon m)) : (startPop t q l).Keeps (ByteFrame.canon m) := by
  unfold startPop
  split
  · exact hl
  · split <;> simp [hl]

@[simp] theorem wakeHank_keeps (s : State) (p t : Nat) {l : Loc} (hl : l.Keeps (ByteFrame.canon m)) : (wakeHank s p t l).Keeps (ByteFrame.canon m) := by
  unfold wakeHank
  split
  · split <;> simp [hl]
  · split <;> simp [hl]
  · exact hl

@[simp] theorem highWater_keeps (l : Loc) : (highWater l).Keeps F ↔ l.Keeps F := by
  unfold highWater
  dsimp only
  (repeat' split) <;> simp

@[simp] theorem Loc.fly_keeps {l : Loc} (hl : l.Keeps F) (occ late : Nat) : (Loc.fly l occ late).Keeps F := by
  unfold Loc.fly
  simp [hl]

theorem Loc.flyDo_keeps {l : Loc} (hl : l.Keeps F) (occ late : Nat) (rs : List (Nat × Nat)) {f : Loc → Loc}
    (hf : ∀ l, l.Keeps F → (f l).Keeps F) : (l.flyDo occ late rs f).Keeps F := by
  unfold Loc.flyDo
  exact Loc.seenAt_keeps (by simp [hl]) hf _

theorem Loc.flyRun_keeps {l : Loc} (hl : l.Keeps F) (s : State) (p : Nat) (q : QEntry) (occ late : Nat) (rs : List (Nat × Nat)) {f : Loc → Loc}
    (hf : ∀ l, l.Keeps F → (f l).Keeps F) : (l.flyRun s p q occ late rs f).Keeps F := by
  unfold Loc.flyRun
  split
  · simp [hl]
  · exact Loc.flyDo_keeps hl occ late rs hf

@[simp] theorem readVals_length (l : Loc) (bf : Bool) (a n : Nat) : (readVals l bf a n).length = n := by
  rw [readVals, List.length_map, List.length_range]

@[simp] theorem vopVals_length (op useB : Nat) (f : F32 → F32 → F32 → F32) (w : KWord) (l : Loc) : (vopVals op useB f w l).length = vopN w := by
  have hb : (if useB = 1 then readVals l (bitOf w 117) (vopB w) (vopN w) else
      if useB = 2 then List.replicate (vopN w) (canon32 (l.rd32 (vopB w))) else List.replicate (vopN w) 0#32).length = vopN w := by
    split
    · simp
    · split <;> simp
  have hd : (if op = 2 then readVals l (bitOf w 117) (vopD w) (vopN w) else List.replicate (vopN w) 0#32).length = vopN w := by
    split <;> simp
  rw [vopVals]
  simp only [List.length_zipWith, List.length_zip, readVals_length, hb, hd, Nat.min_self]

@[simp] theorem vopOut_keeps (op useB : Nat) (f : F32 → F32 → F32 → F32) {w : KWord} {l : Loc} (hl : l.Keeps F)
    (hout : F.Apart (vopD w) (vopN w * esz (bitOf w 117))) : (vopOut op useB f w l).Keeps F :=
  Loc.flagIf_keeps (wrVals_keeps hl (by rwa [vopVals_length])) _

theorem length_flatMap_le {α β : Type} {f : α → List β} {n : Nat} {xs : List α} (h : ∀ x ∈ xs, (f x).length ≤ n) :
    (xs.flatMap f).length ≤ xs.length * n := by
  induction xs with
  | nil => exact Nat.zero_le _
  | cons x xs ih =>
    rw [List.flatMap_cons, List.length_append, List.length_cons, Nat.succ_mul, Nat.add_comm]
    exact Nat.add_le_add (ih fun y hy => h y (List.mem_cons_of_mem x hy)) (h x List.mem_cons_self)

@[simp] theorem pieces_length {α : Type} (n c : Nat) (l : List α) : (pieces n c l).length = c := by
  induction c generalizing l with
  | zero => rfl
  | succ c ih => rw [pieces, List.length_cons, ih]

theorem length_of_mem_pieces {α : Type} {n c : Nat} {l x : List α} (h : x ∈ pieces n c l) : x.length ≤ n := by
  induction c generalizing l with
  | zero => cases h
  | succ c ih =>
    rw [pieces, List.mem_cons] at h
    obtain rfl | h := h
    · exact List.length_take_le n l
    · exact ih h

theorem normRow_length (layer : Bool) (eps : F32) (x gamma beta : List F32) : (normRow layer eps x gamma beta).1.length ≤ x.length := by
  rw [normRow, List.length_zipWith]
  exact Nat.min_le_left ..

@[simp] theorem normOut_keeps (layer : Bool) {w : KWord} {r : NormRec} {l : Loc} (hl : l.Keeps F)
    (hdst : F.Apart r.dst (r.nr * r.nc * esz (bitOf w 120))) (hstat : bitOf w 119 = true → F.Apart r.sa (r.nr * 8)) :
    (normOut layer w r l).Keeps F := by
  unfold normOut
  extract_lets bf stat gamma beta rows ys st l₀ l₁
  have hrows : rows.length = r.nr := by rw [List.length_map, pieces_length]
  have hys : ys.length ≤ r.nr * r.nc := by
    refine Nat.le_trans (length_flatMap_le (n := r.nc) fun x hx => ?_) (Nat.le_of_eq (by rw [hrows]))
    obtain ⟨v, hv, rfl⟩ := List.mem_map.mp hx
    exact Nat.le_trans (normRow_length ..) (length_of_mem_pieces hv)
  have hst : st.length ≤ r.nr * 2 :=
    Nat.le_trans (length_flatMap_le (f := fun x : List F32 × F32 × F32 => [x.2.1, x.2.2]) fun _ _ => Nat.le_refl 2) (Nat.le_of_eq (by rw [hrows]))
  have hout : (wrVals bf r.dst ys l).Keeps F := wrVals_keeps hl (hdst.mono (Nat.mul_le_mul_right _ hys))
  refine Loc.flagIf_keeps ?_ _
  unfold l₁
  split
  · next hs => exact wrVals_keeps hout ((hstat hs).mono (by change st.length * 4 ≤ r.nr * 8; omega))
  · exact hout

@[simp] theorem scoreStep_keeps (s : State) (p : Nat) (q : QEntry) (r : SmaxRec) (h : Header) (sr : Bool) {l : Loc} (hl : l.Keeps (ByteFrame.canon m))
    (i : Nat) : (scoreStep s p q r h sr l i).Keeps (ByteFrame.canon m) := by
  unfold scoreStep
  dsimp only
  have hblocks (b : Nat) (xs : List (List F32)) := writeBlocks_keeps s p 3 q.woff h sr b xs hl
  exact Loc.flagIf_keeps (Loc.wr32_keeps (Loc.wr32_keeps (Loc.wr32_keeps (hblocks _ _) (by simp) _) (by simp) _) (by simp) _) _

@[simp] theorem scoreOut_keeps (s : State) (p : Nat) (q : QEntry) (r : SmaxRec) (h : Header) {l : Loc} (hl : l.Keeps (ByteFrame.canon m)) :
    (scoreOut s p q r h l).Keeps (ByteFrame.canon m) := by
  unfold scoreOut
  exact foldl_keepsFrame (fun l x hl => by simp [hl]) _ hl

@[simp] theorem mergeOut_keeps {r : SmaxRec} {l : Loc} (hl : l.Keeps F) (hout : F.Apart r.oa (r.nr * r.dv * 4)) : (mergeOut r l).Keeps F :=
  Loc.flagIf_keeps (wrVals_keeps hl (by simpa [esz] using hout)) _

@[simp] theorem finalOut_keeps {w : KWord} {r : SmaxRec} {l : Loc} (hl : l.Keeps F) (hout : F.Apart r.dst (r.nr * r.dv * esz (bitOf w 118))) :
    (finalOut w r l).Keeps F :=
  Loc.flagIf_keeps (wrVals_keeps hl (by simpa using hout)) _

@[simp] theorem vqBlock_keeps (s : State) (p : Nat) (q : QEntry) (h : Header) (t : Nat) {l : Loc} (hl : l.Keeps (ByteFrame.canon m))
    (x : List F32 × Nat) : (vqBlock s p q h t l x).Keeps (ByteFrame.canon m) :=
  Loc.seenAt_keeps hl (fun l hl => by simp [hl]) _

@[simp] theorem vquantBlocks_keeps (s : State) (p : Nat) (q : QEntry) (h : Header) (t n : Nat) {l : Loc} (hl : l.Keeps (ByteFrame.canon m)) :
    (vquantBlocks s p q h t n l).Keeps (ByteFrame.canon m) := by
  unfold vquantBlocks
  exact foldl_keepsFrame (fun l x hl => by simp [hl]) _ hl

@[simp] theorem vquantOut_keeps (s : State) (p : Nat) (q : QEntry) (h : Header) (t : Nat) {l : Loc} (hl : l.Keeps (ByteFrame.canon m)) :
    (vquantOut s p q h t l).Keeps (ByteFrame.canon m) := by
  unfold vquantOut
  simp [hl]

@[simp] theorem vquantDo_keeps (s : State) (p : Nat) (q : QEntry) (h : Header) {l : Loc} (hl : l.Keeps (ByteFrame.canon m)) :
    (vquantDo s p q h l).Keeps (ByteFrame.canon m) := by
  unfold vquantDo
  dsimp only
  (repeat' split) <;> simp [hl]

@[simp] theorem dropOut_keeps (n : Numeric) (r : RandRec) (w : KWord) {l : Loc} (hl : l.Keeps (ByteFrame.canon m)) :
    (dropOut n r w l).Keeps (ByteFrame.canon m) := by
  unfold dropOut
  dsimp only
  refine Loc.flagIf_keeps (foldl_keepsFrame (fun l v hl => ?_) _ hl) _
  split <;> simp [hl]

@[simp] theorem bitsOut_keeps (n : Numeric) (r : RandRec) (w : KWord) {l : Loc} (hl : l.Keeps (ByteFrame.canon m)) :
    (bitsOut n r w l).Keeps (ByteFrame.canon m) := by
  unfold bitsOut
  exact foldl_keepsFrame (fun l x hl => by simp [hl]) _ hl

@[simp] theorem optStep_keeps (adam frz : Bool) (rc : OptRec) (o : OptOnce) (apply_ : Nat) {x : Loc × List F32 × List Nat}
    (hx : x.1.Keeps (ByteFrame.canon m)) (e : Nat) : (optStep adam frz rc o apply_ x e).1.Keeps (ByteFrame.canon m) := by
  unfold optStep
  dsimp only
  split
  · exact hx
  · split
    · exact hx
    · next w m v r _ =>
      have hwm := Loc.wr32_keeps (Loc.wr32_keeps hx (a := rc.w + 4 * e) (by simp) w) (a := rc.m + 4 * e) (by simp) m
      split <;> simp [hwm]

@[simp] theorem optOut_keeps (s : State) (p : Nat) (adam : Bool) (rc : OptRec) (h : Header) (q : QEntry) {l : Loc}
    (hl : l.Keeps (ByteFrame.canon m)) : (optOut s p adam rc h q l).Keeps (ByteFrame.canon m) := by
  have hall (es : List Nat) (x : Loc × List F32 × List Nat) (hx : x.1.Keeps (ByteFrame.canon m)) :
      (es.foldl (optStep adam (bitOf q.word 119) rc (optOnce rc (numAt s p).a) (numAt s p).apply_) x).1.Keeps (ByteFrame.canon m) := by
    induction es generalizing x with
    | nil => exact hx
    | cons e es ih => exact ih _ (by simp [hx])
  have hsteps := hall (List.range (voN h q.word)) (l, [], []) hl
  unfold optOut
  dsimp only
  split <;> split <;> simp [hsteps]

@[simp] theorem lossOut_keeps (s : State) (p : Nat) (r : LossRec) (q : QEntry) {l : Loc} (hl : l.Keeps (ByteFrame.canon m)) :
    (lossOut s p r q l).Keeps (ByteFrame.canon m) := by
  unfold lossOut
  refine foldl_keepsFrame (fun l i hl => ?_) _ hl
  dsimp only
  split <;> simp (disch := simp [hl])

@[simp] theorem drifted_keeps (s : State) (p h : Nat) (q : QEntry) (c : Check) (num den : F32) (pmap : Nat) {l : Loc} (hl : l.Keeps (ByteFrame.canon m)) :
    (drifted s p h q c num den pmap l).Keeps (ByteFrame.canon m) := by
  unfold drifted
  split <;> simp [hl]

@[simp] theorem vcheckOut_keeps (s : State) (p : Nat) (q : QEntry) (c : Check) {l : Loc} (hl : l.Keeps (ByteFrame.canon m)) :
    (vcheckOut s p q c l).Keeps (ByteFrame.canon m) := by
  unfold vcheckOut
  dsimp only
  (repeat' split) <;> simp [hl]

@[simp] theorem vcheckDo_keeps (s : State) (p : Nat) (q : QEntry) (c : Check) (t : Nat) {l : Loc} (hl : l.Keeps (ByteFrame.canon m)) :
    (vcheckDo s p q c t l).Keeps (ByteFrame.canon m) := by
  unfold vcheckDo
  exact Loc.seenAt_keeps (by simp [hl]) (fun l hl => by simp [hl]) _

end
end Sys2Proof.Machine
end

section
/-!
What a step keeps of the two invariants: a predicate on states, taken apart by the components it speaks of, and the rules of the operations that every
command is made of.
-/
namespace Sys2Proof.Machine

/-- Which of the two invariants is asked for: the canonical memories, the legal control fields. -/
structure Watch where
  mem : Prop
  control : Prop

def Regs.Kept (W : Watch) (r : Regs) : Prop := W.control → r.result ≤ 3 ∧ ∀ x ∈ r.staged, x.value &&& x.mask = x.value
def Hbm.Kept (W : Watch) (h : Hbm) : Prop := W.mem → Memory.wf h.mem = true ∧ ∀ k ∈ h.scrub, k < stackLines
def Hif.Kept (W : Watch) (h : Hif) : Prop := W.mem → Memory.wf h.host = true ∧ Memory.wf h.msix = true
def Keep.Kept (W : Watch) (k : Keep) : Prop := W.control → k.next ≤ k.bound ∧ k.stage ≤ 7 ∧ k.opState ≤ 3
def Power.Kept (W : Watch) (p : Power) : Prop := W.control → p.step ≤ 14 ∧ p.sleep ≤ 2
def Pins.Kept (W : Watch) (p : Pins) : Prop := W.control → p.strap < 4

/-- Every distaff of the list is canonical. -/
def DistaffsKept (W : Watch) (sps : List Spindle) : Prop := ∀ sp ∈ sps, sp.Keeps (ByteFrame.canon W.mem)

/-- The state meets what is asked for of the two invariants. -/
def State.Kept (W : Watch) (s : State) : Prop :=
  s.regs.Kept W ∧ DistaffsKept W s.spindles ∧ s.hbm.Kept W ∧ s.hif.Kept W ∧ s.keep.Kept W ∧ s.power.Kept W ∧ s.pins.Kept W

/-- Every next state that an answer brings meets what is asked for. -/
def KeptBy (W : Watch) (o : Out) : Prop := ∀ t, o = .next t → t.Kept W

theorem distaffsKept_iff {W : Watch} {sps : List Spindle} : DistaffsKept W sps ↔ (W.mem → ∀ sp ∈ sps, Memory.wf sp.distaff.mem = true) :=
  ⟨fun h hm sp hsp => ByteFrame.canon_holds.mp (h sp hsp) hm, fun h sp hsp => ByteFrame.canon_holds.mpr fun hm => h hm sp hsp⟩

theorem State.kept_memOk {s : State} : s.Kept ⟨True, False⟩ ↔ MemOk s := by
  simp only [State.Kept, distaffsKept_iff, Regs.Kept, Hbm.Kept, Hif.Kept, Keep.Kept, Power.Kept, Pins.Kept, MemOk]
  grind

theorem State.kept_controlOk {s : State} : s.Kept ⟨False, True⟩ ↔ ControlOk s := by
  simp only [State.Kept, distaffsKept_iff, Regs.Kept, Hbm.Kept, Hif.Kept, Keep.Kept, Power.Kept, Pins.Kept, ControlOk]
  grind

section
variable {W : Watch}

@[simp] theorem keptBy_next (t : State) : KeptBy W (.next t) ↔ t.Kept W :=
  ⟨fun h => h t rfl, fun h _ heq => (Host.Outcome.next.inj heq) ▸ h⟩

@[simp] theorem keptBy_fault (f : Fault) : KeptBy W (.fault f) := fun _ h => nomatch h
@[simp] theorem keptBy_refused (r : Refusal) : KeptBy W (.refused r) := fun _ h => nomatch h

theorem State.Kept.regs {s : State} (h : s.Kept W) : s.regs.Kept W := h.1
theorem State.Kept.spindles {s : State} (h : s.Kept W) : DistaffsKept W s.spindles := h.2.1
theorem State.Kept.hbm {s : State} (h : s.Kept W) : s.hbm.Kept W := h.2.2.1
theorem State.Kept.hif {s : State} (h : s.Kept W) : s.hif.Kept W := h.2.2.2.1
theorem State.Kept.keep {s : State} (h : s.Kept W) : s.keep.Kept W := h.2.2.2.2.1
theorem State.Kept.power {s : State} (h : s.Kept W) : s.power.Kept W := h.2.2.2.2.2.1
theorem State.Kept.pins {s : State} (h : s.Kept W) : s.pins.Kept W := h.2.2.2.2.2.2

/-! Changes of a state that leave the watched components alone -/

section
variable (s : State) (pending : List Instr) (bell : BellGen) (jobs : List Job) (map : List Nat) (xing : List (Nat × Nat)) (fabric : Fabric)
  (ports : List Port) (lantern : Lantern) (thermal : Thermal) (repair : Repair) (syncCap : List (Nat × Nat))
  (images : List (BitVec 512 × SavedJob)) (free : Nat)

@[simp] theorem State.kept_mk : State.Kept W ⟨pending, bell, s.regs, jobs, map, xing, s.spindles, fabric, s.hbm, ports, s.hif, lantern, thermal,
    s.keep, repair, s.power, s.pins, syncCap, images, free⟩ ↔ s.Kept W := Iff.rfl

@[simp] theorem State.kept_mk_regs (eff : List (Nat × Nat)) (request : Option Nat) (snap : Option (Nat × List Staged)) (tag field : Nat) :
    State.Kept W ⟨pending, bell, ⟨eff, s.regs.staged, request, snap, s.regs.result, tag, field⟩, jobs, map, xing, s.spindles, fabric, s.hbm, ports,
      s.hif, lantern, thermal, s.keep, repair, s.power, s.pins, syncCap, images, free⟩ ↔ s.Kept W := Iff.rfl

@[simp] theorem State.kept_mk_hif (sq : List SqRing) (cq : List CqRing) (due : List Entry) (turn fetched : Nat) (descs : List Desc)
    (receipts : List RcptReq) (signed : Nat) (link : Bool) (width : Nat) (fast perst : Bool) (hostPoison : List Nat) (xfers : List Xfer)
    (shots : List Shot) (msixPend : List Nat) (out : List OutMsg) (evRecv : Option Nat) (alerts : List (List Byte))
    (cxlWait : List (Nat × Nat × Option (List Byte))) (cxl : List (Nat × Nat)) :
    State.Kept W ⟨pending, bell, s.regs, jobs, map, xing, s.spindles, fabric, s.hbm, ports, ⟨sq, cq, due, turn, fetched, descs, receipts, signed,
      link, width, fast, perst, s.hif.host, hostPoison, xfers, shots, s.hif.msix, msixPend, out, evRecv, alerts, cxlWait, cxl⟩, lantern, thermal,
      s.keep, repair, s.power, s.pins, syncCap, images, free⟩ ↔ s.Kept W := Iff.rfl

@[simp] theorem State.kept_mk_hbm (poison : List Nat) (errs : List (Nat × Nat)) (waiting granted : List HbmAcc) (credits : List (Nat × Nat))
    (cycle : Nat) (corr uncorr bg corrSeen : List Nat) (hot : List Bool) (back : List (Option Nat)) (passes : List Nat) (selfRefresh : Bool) :
    State.Kept W ⟨pending, bell, s.regs, jobs, map, xing, s.spindles, fabric, ⟨s.hbm.mem, poison, errs, waiting, granted, credits, cycle, corr, uncorr,
      bg, corrSeen, hot, s.hbm.scrub, back, passes, selfRefresh⟩, ports, s.hif, lantern, thermal, s.keep, repair, s.power, s.pins, syncCap, images,
      free⟩ ↔ s.Kept W := Iff.rfl

@[simp] theorem State.kept_mk_keep (kimages : List (List Stored)) (preferred floors : List Nat) (operator : Option (BitVec 1056)) (cfgFloor : Nat)
    (cfg : List Stored) (test : TestRec) (sectors : List (Option StateSector)) (ring : List (List (Nat × Nat))) (resv : Nat)
    (marginLog : List (Option MarginEntry)) (dik ak : Nat) (akCert : List Byte) (nk devid : BitVec 512) (nonce : BitVec 256) (stopped : Bool)
    (slots : List Nat) (ksvn : Nat) (cfgApplied : Bool) (log : List (Nat × Nat × BitVec 512)) (opCode op opLen : Nat) :
    State.Kept W ⟨pending, bell, s.regs, jobs, map, xing, s.spindles, fabric, s.hbm, ports, s.hif, lantern, thermal, ⟨kimages, preferred, floors,
      operator, cfgFloor, cfg, test, sectors, ring, resv, s.keep.bound, s.keep.next, marginLog, dik, ak, akCert, nk, devid, nonce, s.keep.stage,
      stopped, slots, ksvn, cfgApplied, log, s.keep.opState, opCode, op, opLen⟩, repair, s.power, s.pins, syncCap, images, free⟩ ↔ s.Kept W := Iff.rfl

@[simp] theorem State.kept_mk_power (noJob deepWake : Bool) (timeUs : Nat) (wakeDue reset : Bool) (waiting : Option PowerUp) (vinBad : Bool)
    (savedBell : Nat) (modeAt slept : Option Nat) (off vaon : Bool) :
    State.Kept W ⟨pending, bell, s.regs, jobs, map, xing, s.spindles, fabric, s.hbm, ports, s.hif, lantern, thermal, s.keep, repair,
      ⟨s.power.step, noJob, deepWake, timeUs, s.power.sleep, wakeDue, reset, waiting, vinBad, savedBell, modeAt, slept, off, vaon⟩, s.pins, syncCap,
      images, free⟩ ↔ s.Kept W := Iff.rfl

@[simp] theorem State.kept_mk_pins (thermtrip vfault alert strapped : Bool) (tap : Nat) (cells : List Bool) (trstHigh ser : Bool) :
    State.Kept W ⟨pending, bell, s.regs, jobs, map, xing, s.spindles, fabric, s.hbm, ports, s.hif, lantern, thermal, s.keep, repair, s.power,
      ⟨thermtrip, vfault, alert, s.pins.strap, strapped, tap, cells, trstHigh, ser⟩, syncCap, images, free⟩ ↔ s.Kept W := Iff.rfl

end

theorem ite_kept {c : Prop} [Decidable c] {a b : State} (ha : a.Kept W) (hb : b.Kept W) : (if c then a else b).Kept W := by
  split
  · exact ha
  · exact hb

/-- A fold of operations on the state that keep it. -/
theorem foldl_kept {α : Type} {f : State → α → State} (hf : ∀ s a, s.Kept W → (f s a).Kept W) (xs : List α) {s : State} (hs : s.Kept W) :
    (xs.foldl f s).Kept W := by
  induction xs generalizing s with
  | nil => exact hs
  | cons x xs ih => exact ih (hf s x hs)

/-- A fold that carries something beside the state. -/
theorem foldl_fst_kept {α β : Type} {f : State × β → α → State × β} (hf : ∀ x a, x.1.Kept W → (f x a).1.Kept W) (xs : List α) {x : State × β}
    (hx : x.1.Kept W) : (xs.foldl f x).1.Kept W := by
  induction xs generalizing x with
  | nil => exact hx
  | cons a xs ih => exact ih (hf x a hx)

/-- A fold of operations that leave the watched components alone leaves them alone. -/
theorem foldl_kept_iff {α : Type} {f : State → α → State} (hf : ∀ s a, (f s a).Kept W ↔ s.Kept W) (xs : List α) {s : State} :
    (xs.foldl f s).Kept W ↔ s.Kept W := by
  induction xs generalizing s with
  | nil => rfl
  | cons x xs ih => exact ih.trans (hf s x)

theorem distaffsKept_getElem? {sps : List Spindle} : DistaffsKept W sps ↔ ∀ (k : Nat) (sp : Spindle), sps[k]? = some sp → sp.Keeps (ByteFrame.canon W.mem) :=
  ⟨fun h _ sp hk => h sp (List.mem_of_getElem? hk), fun h sp hsp => (List.mem_iff_getElem?.mp hsp).elim fun k hk => h k sp hk⟩

theorem DistaffsKept.modAt {sps : List Spindle} (h : DistaffsKept W sps) (p : Nat) {f : Spindle → Spindle}
    (hf : ∀ sp, sp.Keeps (ByteFrame.canon W.mem) → (f sp).Keeps (ByteFrame.canon W.mem)) : DistaffsKept W (modAt sps p f) := by
  intro sp hsp
  rcases modAt_mem hsp with hsp | ⟨x, hx, rfl⟩
  · exact h sp hsp
  · exact hf x (h x hx)

theorem DistaffsKept.map {sps : List Spindle} (h : DistaffsKept W sps) {f : Spindle → Spindle}
    (hf : ∀ sp, sp.Keeps (ByteFrame.canon W.mem) → (f sp).Keeps (ByteFrame.canon W.mem)) : DistaffsKept W (sps.map f) := by
  intro sp hsp
  obtain ⟨x, hx, rfl⟩ := List.mem_map.mp hsp
  exact hf x (h x hx)

theorem State.Kept.withHbm {s : State} (h : s.Kept W) {x : Hbm} (hx : x.Kept W) : State.Kept W { s with hbm := x } :=
  ⟨h.regs, h.spindles, hx, h.hif, h.keep, h.power, h.pins⟩

theorem State.Kept.withHif {s : State} (h : s.Kept W) {x : Hif} (hx : x.Kept W) : State.Kept W { s with hif := x } :=
  ⟨h.regs, h.spindles, h.hbm, hx, h.keep, h.power, h.pins⟩

theorem State.Kept.withRegs {s : State} (h : s.Kept W) {x : Regs} (hx : x.Kept W) : State.Kept W { s with regs := x } :=
  ⟨hx, h.spindles, h.hbm, h.hif, h.keep, h.power, h.pins⟩

theorem State.Kept.withKeep {s : State} (h : s.Kept W) {x : Keep} (hx : x.Kept W) : State.Kept W { s with keep := x } :=
  ⟨h.regs, h.spindles, h.hbm, h.hif, hx, h.power, h.pins⟩

theorem State.Kept.withPower {s : State} (h : s.Kept W) {x : Power} (hx : x.Kept W) : State.Kept W { s with power := x } :=
  ⟨h.regs, h.spindles, h.hbm, h.hif, h.keep, hx, h.pins⟩

theorem State.Kept.withPins {s : State} (h : s.Kept W) {x : Pins} (hx : x.Kept W) : State.Kept W { s with pins := x } :=
  ⟨h.regs, h.spindles, h.hbm, h.hif, h.keep, h.power, hx⟩

/-- Other distaffs. -/
theorem State.Kept.withSpindles {s : State} (h : s.Kept W) {sps : List Spindle} (hsps : DistaffsKept W sps) : State.Kept W { s with spindles := sps } :=
  ⟨h.regs, hsps, h.hbm, h.hif, h.keep, h.power, h.pins⟩

@[simp] theorem modSp_kept {s : State} (hs : s.Kept W) (p : Nat) {f : Spindle → Spindle}
    (hf : ∀ sp, sp.Keeps (ByteFrame.canon W.mem) → (f sp).Keeps (ByteFrame.canon W.mem)) : (modSp s p f).Kept W :=
  hs.withSpindles (hs.spindles.modAt p hf)

/-- A change of a position that leaves its memory alone. -/
@[simp] theorem modSp_kept_iff (s : State) (p : Nat) {f : Spindle → Spindle}
    (hf : ∀ sp, (f sp).Keeps (ByteFrame.canon W.mem) ↔ sp.Keeps (ByteFrame.canon W.mem)) : (modSp s p f).Kept W ↔ s.Kept W := by
  have hsps : DistaffsKept W (modAt s.spindles p f) ↔ DistaffsKept W s.spindles := by
    simp only [distaffsKept_getElem?, modAt_getElem?]
    refine forall_congr' fun k => ?_
    split
    · cases s.spindles[k]? <;> simp [hf]
    · rfl
  unfold modSp State.Kept
  rw [hsps]

/-! What positions are opened with and closed with -/

@[simp] theorem Spindle.reset_keeps (m : Prop) : Spindle.reset.Keeps (ByteFrame.canon m) := ByteFrame.canon_holds_nil m _

@[simp] theorem spAt_keeps {s : State} (hs : s.Kept W) (p : Nat) : (spAt s p).Keeps (ByteFrame.canon W.mem) := by
  rw [spAt, List.getD_eq_getElem?_getD]
  cases hp : s.spindles[p]? with
  | none => exact Spindle.reset_keeps _
  | some sp => exact hs.spindles sp (List.mem_of_getElem? hp)

@[simp] theorem openPos_keeps {s : State} (hs : s.Kept W) (p : Nat) : (openPos s p).Keeps (ByteFrame.canon W.mem) := spAt_keeps hs p

@[simp] theorem issuePos_keeps {s : State} (hs : s.Kept W) (p k : Nat) : (issuePos s p k).Keeps (ByteFrame.canon W.mem) :=
  Loc.land_keeps (openPos_keeps hs p) _

@[simp] theorem modJob_kept (s : State) (j : Nat) (f : Job → Job) : (modJob s j f).Kept W ↔ s.Kept W := Iff.rfl
@[simp] theorem addDue_kept (s : State) (e : Entry) : (addDue s e).Kept W ↔ s.Kept W := Iff.rfl

@[simp] theorem alertFor_kept (s : State) (code body : Nat) : (alertFor s code body).Kept W ↔ s.Kept W := by
  unfold alertFor
  split <;> rfl

@[simp] theorem postEv_kept (s : State) (e : Ev) (j lnum p : Option Nat) : (postEv s e j lnum p).Kept W ↔ s.Kept W := by
  unfold postEv
  simp

@[simp] theorem faultJob_kept (s : State) (j code : Nat) (stop all : Bool) : (faultJob s j code stop all).Kept W ↔ s.Kept W := Iff.rfl

@[simp] theorem raiseAt_kept (s : State) (p : Nat) (e : Ev) : (raiseAt s p e).Kept W ↔ s.Kept W := by
  unfold raiseAt
  dsimp only
  split
  · split <;> simp
  · simp

@[simp] theorem setNf_kept (s : State) (p : Nat) : (setNf s p).Kept W ↔ s.Kept W := by
  unfold setNf
  split <;> simp

@[simp] theorem tallyChan_kept (s : State) (p : Nat) (l : Loc) : (tallyChan s p l).Kept W ↔ s.Kept W := by
  unfold tallyChan
  dsimp only
  split
  · split
    · rfl
    · rfl
  · rfl

/-- A position is closed: of the watched components only its distaff is new. -/
@[simp] theorem closePos_kept {s : State} (hs : s.Kept W) (p : Nat) {l : Loc} (hl : l.Keeps (ByteFrame.canon W.mem)) : (closePos s p l).Kept W := by
  have hsp : (modSp (tallyChan s p l) p fun _ => l.sp).Kept W := modSp_kept ((tallyChan_kept s p l).mpr hs) p fun _ _ => hl
  unfold closePos
  dsimp only
  refine (foldl_kept_iff (fun s e => raiseAt_kept s p e) _).mpr ?_
  split
  · exact (setNf_kept _ p).mpr hsp
  · exact hsp

@[simp] theorem runPos_kept {s : State} (hs : s.Kept W) (p : Nat) {f : Loc → Loc}
    (hf : ∀ l, l.Keeps (ByteFrame.canon W.mem) → (f l).Keeps (ByteFrame.canon W.mem)) : (runPos s p f).Kept W :=
  closePos_kept hs p (hf _ (openPos_keeps hs p))

/-! The forms of a command -/

/-- Every position that an issue may leave keeps the frame. -/
def OptKeeps (F : ByteFrame) (o : Option Loc) : Prop := ∀ l, o = some l → l.Keeps F

@[simp] theorem optKeeps_none {F : ByteFrame} : OptKeeps F none := fun _ h => nomatch h
@[simp] theorem optKeeps_some {F : ByteFrame} (l : Loc) : OptKeeps F (some l) ↔ l.Keeps F := ⟨fun h => h l rfl, fun h _ heq => (Option.some.inj heq) ▸ h⟩

@[simp] theorem onUnit_kept (kind : String) (n i : Nat) {r : State} (hr : r.Kept W) : KeptBy W (onUnit kind n i r) := by
  unfold onUnit
  split <;> simp [hr]

@[simp] theorem onPos_kept {s : State} (hs : s.Kept W) (p : Nat) {f : Loc → Loc}
    (hf : ∀ l, l.Keeps (ByteFrame.canon W.mem) → (f l).Keeps (ByteFrame.canon W.mem)) : KeptBy W (onPos s p f) :=
  onUnit_kept "position" 624 p (runPos_kept hs p hf)

@[simp] theorem onPosS_kept {s : State} (hs : s.Kept W) (p : Nat) {f : Loc → State}
    (hf : ∀ l, l.Keeps (ByteFrame.canon W.mem) → (f l).Kept W) : KeptBy W (onPosS s p f) :=
  onUnit_kept "position" 624 p (hf _ (openPos_keeps hs p))

@[simp] theorem issueW_kept {s : State} (hs : s.Kept W) (p k : Nat) (want : KWord → Bool) {body : QEntry → Loc → Option Loc}
    (hbody : ∀ q l, l.Keeps (ByteFrame.canon W.mem) → OptKeeps (ByteFrame.canon W.mem) (body q l)) : KeptBy W (issueW s p k want body) := by
  unfold issueW
  split
  · split
    · split
      · next q _ _ =>
        rw [keptBy_next]
        split
        · cases hb : body q (issuePos s p k) with
          | none => exact hs
          | some l' => exact closePos_kept hs p (hbody q _ (issuePos_keeps hs p k) l' hb)
        · exact hs
      · simp [hs]
    · simp
  · simp

@[simp] theorem issue_kept {s : State} (hs : s.Kept W) (p k : Nat) (want : KWord → Bool) {body : QEntry → Loc → Loc}
    (hbody : ∀ q l, l.Keeps (ByteFrame.canon W.mem) → (body q l).Keeps (ByteFrame.canon W.mem)) : KeptBy W (issue s p k want body) :=
  issueW_kept hs p k want fun q l hl => (optKeeps_some _).mpr (hbody q l hl)

@[simp] theorem issueS_kept {s : State} (hs : s.Kept W) (p k : Nat) (want : KWord → Bool) {body : QEntry → Loc → State}
    (hbody : ∀ q l, l.Keeps (ByteFrame.canon W.mem) → (body q l).Kept W) : KeptBy W (issueS s p k want body) := by
  unfold issueS
  split
  · split
    · split
      · exact (keptBy_next _).mpr (hbody _ _ (issuePos_keeps hs p k))
      · simp [hs]
    · simp [hs]
  · simp

end

/-! Commands of one position and the bytes of its distaff -/

/-- Every next state of the answer is what a step of position p leaves whose bytes meet the frame. -/
def Closes (F : ByteFrame) (s : State) (p : Nat) (o : Out) : Prop := ∀ t, o = .next t → ∃ l, l.Keeps F ∧ t = closePos s p l

section
variable {F : ByteFrame} {s : State} {p : Nat}

@[simp] theorem closes_fault (f : Fault) : Closes F s p (.fault f) := fun _ h => by cases h

theorem closes_next {l : Loc} (hl : l.Keeps F) : Closes F s p (.next (closePos s p l)) := fun _ h => ⟨l, hl, (Host.Outcome.next.inj h).symm⟩

@[simp] theorem onPos_closes (hs : (openPos s p).Keeps F) {f : Loc → Loc} (hf : ∀ l, l.Keeps F → (f l).Keeps F) : Closes F s p (onPos s p f) := by
  unfold onPos
  split
  · exact closes_next (hf _ hs)
  · exact closes_fault _

@[simp] theorem issueW_closes (hs : (openPos s p).Keeps F) (k : Nat) (want : KWord → Bool) {body : QEntry → Loc → Option Loc}
    (hbody : ∀ q l, l.Keeps F → OptKeeps F (body q l)) : Closes F s p (issueW s p k want body) := by
  intro t ht
  obtain rfl | ⟨q, l, -, hl, rfl⟩ := issueW_next ht
  · exact ⟨_, hs, (closePos_open _ p).symm⟩
  · exact ⟨l, hbody q _ (Loc.land_keeps hs _) l hl, rfl⟩

end

/-- A command of one position that keeps the canonical form of its distaff keeps what is watched. -/
theorem Closes.keptBy {W : Watch} {s : State} {p : Nat} {o : Out} (h : Closes (ByteFrame.canon W.mem) s p o) (hs : s.Kept W) : KeptBy W o := by
  intro t ht
  obtain ⟨l, hl, rfl⟩ := h t ht
  exact closePos_kept hs p hl

end Sys2Proof.Machine
end

section
/-!
What the operations and commands of a position, of its memory accesses and of the fabric keep of the two invariants.
-/
namespace Sys2Proof.Machine
section
variable {W : Watch}

@[simp] theorem setSt_kept (s : State) (o v : Nat) : (setSt s o v).Kept W ↔ s.Kept W := by
  unfold setSt
  simp

@[simp] theorem modPw_kept (s : State) (p : Nat) (f : PosPower → PosPower) : (modPw s p f).Kept W ↔ s.Kept W := by
  unfold modPw
  simp

@[simp] theorem raiseDev_kept (s : State) (e : Ev) : (raiseDev s e).Kept W ↔ s.Kept W := by
  unfold raiseDev
  simp

@[simp] theorem raiseJob_kept (s : State) (j : Nat) (e : Ev) : (raiseJob s j e).Kept W ↔ s.Kept W := by
  unfold raiseJob
  split <;> simp

@[simp] theorem payLines_kept (s : State) (k n : Nat) : (payLines s k n).Kept W ↔ s.Kept W := by
  unfold payLines
  split <;> simp

@[simp] theorem payBytes_kept (s : State) (k n : Nat) : (payBytes s k n).Kept W ↔ s.Kept W := by
  unfold payBytes
  split <;> simp

@[simp] theorem drawBytes_kept (s : State) (n : Nat) : (drawBytes s n).2.Kept W ↔ s.Kept W := by
  unfold drawBytes
  simp

@[simp] theorem shotWrite_kept (s : State) (who : Option Nat) (a : Nat) (bs : List Byte) : (shotWrite s who a bs).Kept W ↔ s.Kept W := by
  unfold shotWrite
  split <;> simp

@[simp] theorem cxlPut_kept (o new : Nat) (s : State) : (cxlPut o new s).Kept W ↔ s.Kept W := by
  unfold cxlPut
  simp

@[simp] theorem cxlSet_kept (o v : Nat) (s : State) : (cxlSet o v s).Kept W ↔ s.Kept W := by
  unfold cxlSet
  dsimp only
  (repeat' split) <;> simp

@[simp] theorem cxlError_kept (s : State) (write : Bool) : (cxlError s write).Kept W ↔ s.Kept W := by
  unfold cxlError
  simp

@[simp] theorem compWrite_kept (o n v : Nat) (s : State) : (compWrite o n v s).Kept W ↔ s.Kept W := by
  unfold compWrite
  split <;> simp

@[simp] theorem execTreadleFetch_closes (p : Nat) {F : ByteFrame} {s : State} (hs : (openPos s p).Keeps F) : Closes F s p (execTreadleFetch p s) := by
  unfold execTreadleFetch
  simp +contextual [hs]

@[simp] theorem execTreadleFetch_keptBy (p : Nat) {s : State} (hs : s.Kept W) : KeptBy W (execTreadleFetch p s) :=
  (execTreadleFetch_closes p (openPos_keeps hs p)).keptBy hs

@[simp] theorem execFetchLineArrival_closes (p k : Nat) {F : ByteFrame} {s : State} (hs : (openPos s p).Keeps F) : Closes F s p (execFetchLineArrival p k s) := by
  unfold execFetchLineArrival
  split
  · refine onPos_closes hs fun l hl => ?_
    (repeat' split) <;> simp (disch := simp +contextual [hs, hl]) [hl]
  · simp

@[simp] theorem execFetchLineArrival_keptBy (p k : Nat) {s : State} (hs : s.Kept W) : KeptBy W (execFetchLineArrival p k s) :=
  (execFetchLineArrival_closes p k (openPos_keeps hs p)).keptBy hs

@[simp] theorem execJump_closes (p k : Nat) {F : ByteFrame} {s : State} (hs : (openPos s p).Keeps F) : Closes F s p (execJump p k s) := by
  unfold execJump
  split
  · refine onPos_closes hs fun l hl => ?_
    (repeat' split) <;> simp (disch := simp +contextual [hs, hl]) [hl]
  · simp

@[simp] theorem execJump_keptBy (p k : Nat) {s : State} (hs : s.Kept W) : KeptBy W (execJump p k s) :=
  (execJump_closes p k (openPos_keeps hs p)).keptBy hs

@[simp] theorem execLoop_closes (p k : Nat) {F : ByteFrame} {s : State} (hs : (openPos s p).Keeps F) : Closes F s p (execLoop p k s) := by
  unfold execLoop
  split
  · refine onPos_closes hs fun l hl => ?_
    (repeat' split) <;> simp (disch := simp +contextual [hs, hl]) [hl]
  · simp

@[simp] theorem execLoop_keptBy (p k : Nat) {s : State} (hs : s.Kept W) : KeptBy W (execLoop p k s) :=
  (execLoop_closes p k (openPos_keeps hs p)).keptBy hs

@[simp] theorem execDly_closes (p k : Nat) {F : ByteFrame} {s : State} (hs : (openPos s p).Keeps F) : Closes F s p (execDly p k s) := by
  unfold execDly
  refine issueW_closes hs _ _ fun q l hl => ?_
  dsimp only
  (repeat' split) <;> simp (disch := simp +contextual [hs, hl])

@[simp] theorem execDly_keptBy (p k : Nat) {s : State} (hs : s.Kept W) : KeptBy W (execDly p k s) :=
  (execDly_closes p k (openPos_keeps hs p)).keptBy hs

@[simp] theorem execFaultMarkerDispatch_closes (p k : Nat) {F : ByteFrame} {s : State} (hs : (openPos s p).Keeps F) : Closes F s p (execFaultMarkerDispatch p k s) := by
  unfold execFaultMarkerDispatch
  split
  · refine onPos_closes hs fun l hl => ?_
    (repeat' split) <;> simp (disch := simp +contextual [hs, hl]) [hl]
  · simp

@[simp] theorem execFaultMarkerDispatch_keptBy (p k : Nat) {s : State} (hs : s.Kept W) : KeptBy W (execFaultMarkerDispatch p k s) :=
  (execFaultMarkerDispatch_closes p k (openPos_keeps hs p)).keptBy hs

@[simp] theorem noteRetire_kept (s : State) (p t : Nat) : (noteRetire s p t).Kept W ↔ s.Kept W := by
  unfold noteRetire
  dsimp only
  (repeat' split) <;> simp

@[simp] theorem endFrame_keptBy (p k cls : Nat) {s : State} (hs : s.Kept W) : KeptBy W (endFrame p k cls s) := by
  unfold endFrame
  dsimp only
  (repeat' split) <;> simp (disch := simp (disch := simp [hs]) [hs]) [hs]

@[simp] theorem execFend_keptBy (p k : Nat) {s : State} (hs : s.Kept W) : KeptBy W (execFend p k s) := by
  unfold execFend
  simp [hs]

@[simp] theorem execHalt_keptBy (p k : Nat) {s : State} (hs : s.Kept W) : KeptBy W (execHalt p k s) := by
  unfold execHalt
  simp [hs]

@[simp] theorem execSwait_closes (p k : Nat) {F : ByteFrame} {s : State} (hs : (openPos s p).Keeps F) : Closes F s p (execSwait p k s) := by
  unfold execSwait
  refine issueW_closes hs _ _ fun q l hl => ?_
  dsimp only
  (repeat' split) <;> simp (disch := simp +contextual [hs, hl])

@[simp] theorem execSwait_keptBy (p k : Nat) {s : State} (hs : s.Kept W) : KeptBy W (execSwait p k s) :=
  (execSwait_closes p k (openPos_keeps hs p)).keptBy hs

@[simp] theorem execSwaitTimeout_closes (p k : Nat) {F : ByteFrame} {s : State} (hs : (openPos s p).Keeps F) : Closes F s p (execSwaitTimeout p k s) := by
  unfold execSwaitTimeout
  split
  · refine onPos_closes hs fun l hl => ?_
    dsimp only
    (repeat' split) <;> simp (disch := simp +contextual [hs, hl]) [hl]
  · simp

@[simp] theorem execSwaitTimeout_keptBy (p k : Nat) {s : State} (hs : s.Kept W) : KeptBy W (execSwaitTimeout p k s) :=
  (execSwaitTimeout_closes p k (openPos_keeps hs p)).keptBy hs

@[simp] theorem execSsig_closes (p k : Nat) {F : ByteFrame} {s : State} (hs : (openPos s p).Keeps F) : Closes F s p (execSsig p k s) := by
  unfold execSsig
  refine issueW_closes hs _ _ fun q l hl => ?_
  dsimp only
  (repeat' split) <;> simp (disch := simp +contextual [hs, hl])

@[simp] theorem execSsig_keptBy (p k : Nat) {s : State} (hs : s.Kept W) : KeptBy W (execSsig p k s) :=
  (execSsig_closes p k (openPos_keeps hs p)).keptBy hs

@[simp] theorem execSsigAct_closes (p : Nat) {F : ByteFrame} {s : State} (hs : (openPos s p).Keeps F) : Closes F s p (execSsigAct p s) := by
  unfold execSsigAct
  refine onPos_closes hs fun l hl => ?_
  (repeat' split) <;> simp (disch := simp +contextual [hs, hl]) [hl]

@[simp] theorem execSsigAct_keptBy (p : Nat) {s : State} (hs : s.Kept W) : KeptBy W (execSsigAct p s) :=
  (execSsigAct_closes p (openPos_keeps hs p)).keptBy hs

@[simp] theorem execMload_closes (p k : Nat) {F : ByteFrame} {s : State} (hs : (openPos s p).Keeps F) : Closes F s p (execMload p k s) := by
  unfold execMload
  refine issueW_closes hs _ _ fun q l hl => ?_
  dsimp only
  (repeat' split) <;> simp (disch := simp +contextual [hs, hl])

@[simp] theorem execMload_keptBy (p k : Nat) {s : State} (hs : s.Kept W) : KeptBy W (execMload p k s) :=
  (execMload_closes p k (openPos_keeps hs p)).keptBy hs

@[simp] theorem execMstream_closes (p k : Nat) {F : ByteFrame} {s : State} (hs : (openPos s p).Keeps F) : Closes F s p (execMstream p k s) := by
  unfold execMstream
  refine issueW_closes hs _ _ fun q l hl => ?_
  dsimp only
  (repeat' split) <;> simp (disch := simp +contextual [hs, hl])

@[simp] theorem execMstream_keptBy (p k : Nat) {s : State} (hs : s.Kept W) : KeptBy W (execMstream p k s) :=
  (execMstream_closes p k (openPos_keeps hs p)).keptBy hs

theorem Option.getD_keeps {F : ByteFrame} {o : Option Loc} {d : Loc} (ho : ∀ l ∈ o, l.Keeps F) (hd : d.Keeps F) : (o.getD d).Keeps F := by
  cases o with
  | none => exact hd
  | some l => exact ho l rfl

@[simp] theorem optKeeps_map {α : Type} {F : ByteFrame} (o : Option α) (f : α → Loc) : OptKeeps F (o.map f) ↔ ∀ a ∈ o, (f a).Keeps F := by
  cases o <;> simp

@[simp] theorem execMshape_closes (p k : Nat) {F : ByteFrame} {s : State} (hs : (openPos s p).Keeps F) : Closes F s p (execMshape p k s) := by
  refine issueW_closes hs _ _ fun q l hl => ?_
  dsimp only
  split
  · simp [hl]
  · have hready := pathReady_keeps s p k hl
    split
    · simp [hready]
    · split
      · simp
      · split
        · rw [optKeeps_some]
          exact pumpThen_keeps _ _ _ _ hready fun l hl => mshapeDo_keeps _ _ _ _ _ _ hl
        · rw [optKeeps_map]
          exact fun t _ => pumpThen_keeps _ _ _ _ hready fun l hl => Loc.whorlReject_keeps hl _ _ _ _ _ _

@[simp] theorem execMshape_keptBy (p k : Nat) {s : State} (hs : s.Kept W) : KeptBy W (execMshape p k s) :=
  (execMshape_closes p k (openPos_keeps hs p)).keptBy hs

@[simp] theorem execMsplit_closes (p : Nat) {F : ByteFrame} {s : State} (hs : (openPos s p).Keeps F) : Closes F s p (execMsplit p s) := by
  unfold execMsplit
  refine issueW_closes hs _ _ fun q l hl => ?_
  dsimp only
  (repeat' split) <;> simp (disch := simp +contextual [hs, hl])

@[simp] theorem execMsplit_keptBy (p : Nat) {s : State} (hs : s.Kept W) : KeptBy W (execMsplit p s) :=
  (execMsplit_closes p (openPos_keeps hs p)).keptBy hs

@[simp] theorem execPromotion_closes (p h : Nat) {F : ByteFrame} {s : State} (hs : (openPos s p).Keeps F) : Closes F s p (execPromotion p h s) := by
  unfold execPromotion
  split
  · refine onPos_closes hs fun l hl => ?_
    dsimp only
    (repeat' split) <;> simp (disch := simp +contextual [hs, hl]) [hl]
  · simp

@[simp] theorem execPromotion_keptBy (p h : Nat) {s : State} (hs : s.Kept W) : KeptBy W (execPromotion p h s) :=
  (execPromotion_closes p h (openPos_keeps hs p)).keptBy hs

@[simp] theorem drainIssue_closes {F : ByteFrame} {s : State} {p : Nat} (hs : (openPos s p).Keeps F) (k op : Nat) {f : QEntry → Loc → Option Loc}
    (hf : ∀ q l, l.Keeps F → OptKeeps F (f q l)) : Closes F s p (drainIssue s p k op f) :=
  issueW_closes hs _ _ hf

@[simp] theorem drainIssue_keptBy {s : State} (hs : s.Kept W) (p k op : Nat) {f : QEntry → Loc → Option Loc}
    (hf : ∀ q l, l.Keeps (ByteFrame.canon W.mem) → OptKeeps (ByteFrame.canon W.mem) (f q l)) : KeptBy W (drainIssue s p k op f) :=
  (drainIssue_closes (openPos_keeps hs p) k op hf).keptBy hs

@[simp] theorem execMdrainSetup_closes (p k : Nat) {F : ByteFrame} {s : State} (hs : (openPos s p).Keeps F) : Closes F s p (execMdrainSetup p k s) := by
  unfold execMdrainSetup
  refine issueW_closes hs _ _ fun q l hl => ?_
  dsimp only
  (repeat' split) <;> simp (disch := simp +contextual [hs, hl])

@[simp] theorem execMdrainSetup_keptBy (p k : Nat) {s : State} (hs : s.Kept W) : KeptBy W (execMdrainSetup p k s) :=
  (execMdrainSetup_closes p k (openPos_keeps hs p)).keptBy hs

@[simp] theorem execMdrainSwap_closes (p k : Nat) {F : ByteFrame} {s : State} (hs : (openPos s p).Keeps F) : Closes F s p (execMdrainSwap p k s) := by
  unfold execMdrainSwap
  refine issueW_closes hs _ _ fun q l hl => ?_
  dsimp only
  (repeat' split) <;> simp (disch := simp +contextual [hs, hl])

@[simp] theorem execMdrainSwap_keptBy (p k : Nat) {s : State} (hs : s.Kept W) : KeptBy W (execMdrainSwap p k s) :=
  (execMdrainSwap_closes p k (openPos_keeps hs p)).keptBy hs

@[simp] theorem dataIssue_closes {F : ByteFrame} {s : State} {p : Nat} (hs : (openPos s p).Keeps F) (k op : Nat) : Closes F s p (dataIssue s p k op) := by
  unfold dataIssue
  refine issueW_closes hs _ _ fun q l hl => ?_
  dsimp only
  (repeat' split) <;> simp (disch := simp +contextual [hs, hl])

@[simp] theorem dataIssue_keptBy {s : State} (hs : s.Kept W) (p k op : Nat) : KeptBy W (dataIssue s p k op) :=
  (dataIssue_closes (openPos_keeps hs p) k op).keptBy hs

@[simp] theorem execMdrainDrain_closes (p k : Nat) {F : ByteFrame} {s : State} (hs : (openPos s p).Keeps F) : Closes F s p (execMdrainDrain p k s) := by
  unfold execMdrainDrain
  simp [hs]

@[simp] theorem execMdrainDrain_keptBy (p k : Nat) {s : State} (hs : s.Kept W) : KeptBy W (execMdrainDrain p k s) :=
  (execMdrainDrain_closes p k (openPos_keeps hs p)).keptBy hs

@[simp] theorem execMdrainSpill_closes (p k : Nat) {F : ByteFrame} {s : State} (hs : (openPos s p).Keeps F) : Closes F s p (execMdrainSpill p k s) := by
  unfold execMdrainSpill
  simp [hs]

@[simp] theorem execMdrainSpill_keptBy (p k : Nat) {s : State} (hs : s.Kept W) : KeptBy W (execMdrainSpill p k s) :=
  (execMdrainSpill_closes p k (openPos_keeps hs p)).keptBy hs

@[simp] theorem execMdrainResume_closes (p k : Nat) {F : ByteFrame} {s : State} (hs : (openPos s p).Keeps F) : Closes F s p (execMdrainResume p k s) := by
  unfold execMdrainResume
  simp [hs]

@[simp] theorem execMdrainResume_keptBy (p k : Nat) {s : State} (hs : s.Kept W) : KeptBy W (execMdrainResume p k s) :=
  (execMdrainResume_closes p k (openPos_keeps hs p)).keptBy hs

@[simp] theorem execDataOpStart_keptBy (p h : Nat) {s : State} (hs : s.Kept W) : KeptBy W (execDataOpStart p h s) := by
  unfold execDataOpStart
  split
  · refine onPos_kept hs _ fun l hl => ?_
    split
    · exact hl
    · have hpumped (c : Half → Bool) := pumpWhile_keeps s p h c hl
      dsimp only
      split
      · exact hpumped _
      · split
        · exact hpumped _
        · exact runOp_keeps _ _ _ (hpumped _)
  · simp

@[simp] theorem execTfeed_closes (p : Nat) {F : ByteFrame} {s : State} (hs : (openPos s p).Keeps F) : Closes F s p (execTfeed p s) := by
  unfold execTfeed
  refine issueW_closes hs _ _ fun q l hl => ?_
  dsimp only
  (repeat' split) <;> simp (disch := simp +contextual [hs, hl])

@[simp] theorem execTfeed_keptBy (p : Nat) {s : State} (hs : s.Kept W) : KeptBy W (execTfeed p s) :=
  (execTfeed_closes p (openPos_keeps hs p)).keptBy hs

@[simp] theorem execTsample_closes (p : Nat) {F : ByteFrame} {s : State} (hs : (openPos s p).Keeps F) : Closes F s p (execTsample p s) := by
  unfold execTsample
  refine issueW_closes hs _ _ fun q l hl => ?_
  dsimp only
  (repeat' split) <;> simp (disch := simp +contextual [hs, hl])

@[simp] theorem execTsample_keptBy (p : Nat) {s : State} (hs : s.Kept W) : KeptBy W (execTsample p s) :=
  (execTsample_closes p (openPos_keeps hs p)).keptBy hs

@[simp] theorem execTtransTranspose_closes (p : Nat) {F : ByteFrame} {s : State} (hs : (openPos s p).Keeps F) : Closes F s p (execTtransTranspose p s) := by
  refine issueW_closes hs _ _ fun q l hl => ?_
  dsimp only
  split
  · simp [hl]
  · split
    · simp
    · split
      · split <;> simp [hl]
      · rw [optKeeps_some]
        refine Option.getD_keeps (Loc.headPoison_keeps (by simp [hl]) s p _ q) ?_
        split <;> simp [hl]

@[simp] theorem execTtransTranspose_keptBy (p : Nat) {s : State} (hs : s.Kept W) : KeptBy W (execTtransTranspose p s) :=
  (execTtransTranspose_closes p (openPos_keeps hs p)).keptBy hs

@[simp] theorem execTtransFmask_closes (p : Nat) {F : ByteFrame} {s : State} (hs : (openPos s p).Keeps F) : Closes F s p (execTtransFmask p s) := by
  unfold execTtransFmask
  refine issueW_closes hs _ _ fun q l hl => ?_
  dsimp only
  (repeat' split) <;> simp (disch := simp +contextual [hs, hl])

@[simp] theorem execTtransFmask_keptBy (p : Nat) {s : State} (hs : s.Kept W) : KeptBy W (execTtransFmask p s) :=
  (execTtransFmask_closes p (openPos_keeps hs p)).keptBy hs

@[simp] theorem execTrot_closes (p : Nat) {F : ByteFrame} {s : State} (hs : (openPos s p).Keeps F) : Closes F s p (execTrot p s) := by
  refine issueW_closes hs _ _ fun q l hl => ?_
  dsimp only
  split
  · simp [hl]
  · have hopen : (rotOpen q.word l).Keeps F := (rotOpen_keeps _ l).mpr hl
    have hform (code da db : Nat) : ((rotOpen q.word l).reject 2 code da db q).Keeps F := Loc.reject_keeps hopen _ _ _ _ _
    split
    · simp [hopen]
    · split
      · simp [hform]
      · split
        · simp [hform]
        · split
          · simp [hform]
          · split
            · simp
            · split
              · simp [hopen]
              · rw [optKeeps_some]
                refine Option.getD_keeps (Loc.headPoison_keeps (by simp [hopen]) s p _ q) ?_
                split <;> simp [hopen]

@[simp] theorem execTrot_keptBy (p : Nat) {s : State} (hs : s.Kept W) : KeptBy W (execTrot p s) :=
  (execTrot_closes p (openPos_keeps hs p)).keptBy hs

@[simp] theorem execFeedWordEnter_closes (p port : Nat) {F : ByteFrame} {s : State} (hs : (openPos s p).Keeps F) : Closes F s p (execFeedWordEnter p port s) := by
  unfold execFeedWordEnter
  split
  · refine onPos_closes hs fun l hl => ?_
    (repeat' split) <;> simp (disch := simp +contextual [hs, hl]) [hl]
  · simp

@[simp] theorem execFeedWordEnter_keptBy (p port : Nat) {s : State} (hs : s.Kept W) : KeptBy W (execFeedWordEnter p port s) :=
  (execFeedWordEnter_closes p port (openPos_keeps hs p)).keptBy hs

@[simp] theorem addFlits_kept (s : State) (fs : List Flit) : (addFlits s fs).Kept W ↔ s.Kept W := by
  unfold addFlits
  simp

@[simp] theorem dropFlit_kept (s : State) (a : Access) (back : Bool) : (dropFlit s a back).Kept W ↔ s.Kept W := by
  unfold dropFlit
  simp

@[simp] theorem moveLate_kept (s : State) (x : LateFlit) (d : Nat) : (moveLate s x d).Kept W ↔ s.Kept W := by
  unfold moveLate
  simp

@[simp] theorem enterLate_kept (s : State) (x : LateFlit) : (enterLate s x).Kept W ↔ s.Kept W := by
  unfold enterLate
  split <;> simp

@[simp] theorem settleLates_kept (t n : Nat) (s : State) : (settleLates t n s).Kept W ↔ s.Kept W := by
  induction n generalizing s with
  | zero => rfl
  | succ n ih =>
    rw [settleLates]
    split
    · simp [ih]
    · rfl

@[simp] theorem presentLates_kept (s : State) (t : Nat) : (presentLates s t).Kept W ↔ s.Kept W := by
  unfold presentLates
  simp

@[simp] theorem sendLate_kept (s : State) (a : Access) (back : Bool) (origin q k : Nat) (steps : List (Nat × Nat × Nat)) :
    (sendLate s a back origin q k steps).Kept W ↔ s.Kept W := by
  unfold sendLate
  simp

@[simp] theorem sendBack_kept (s : State) (a : Access) (p q t : Nat) : (sendBack s a p q t).Kept W ↔ s.Kept W := by
  unfold sendBack
  dsimp only
  (repeat' split) <;> simp

@[simp] theorem stretchAt_kept (s : State) (y : Spell) : (stretchAt s y).Kept W ↔ s.Kept W := by
  unfold stretchAt
  split <;> simp

@[simp] theorem countLoss_kept (t : Nat) (s : State) (p : Nat) : (countLoss t s p).Kept W ↔ s.Kept W := by
  unfold countLoss
  simp

@[simp] theorem addLost_kept (s : State) (p t lost : Nat) : (addLost s p t lost).Kept W ↔ s.Kept W := by
  unfold addLost
  simp

@[simp] theorem settleBy_kept (s : State) (t : Nat) : (settleBy s t).Kept W ↔ s.Kept W := by
  unfold settleBy
  rw [presentLates_kept]
  exact foldl_kept_iff (fun s p => countLoss_kept _ s p) _

@[simp] theorem modPort_kept (s : State) (q : Nat) (f : Port → Port) : (modPort s q f).Kept W ↔ s.Kept W := by
  unfold modPort
  simp

@[simp] theorem hbmLine_kept (s : State) (p t : Nat) (a : Access) : (hbmLine s p t a).Kept W ↔ s.Kept W := by
  unfold hbmLine
  simp

@[simp] theorem noteLanding_kept (s : State) (q t : Nat) (a : Access) : (noteLanding s q t a).Kept W ↔ s.Kept W := by
  unfold noteLanding
  simp

@[simp] theorem localMove_kept {s : State} (hs : s.Kept W) (p : Nat) (put_ : Bool) (q : QEntry) {l : Loc} (hl : l.Keeps (ByteFrame.canon W.mem)) :
    (localMove s p put_ q l).Kept W := by
  unfold localMove
  dsimp only
  (repeat' split) <;> simp_all

@[simp] theorem remoteGet_kept {s : State} (hs : s.Kept W) (p : Nat) (q : QEntry) {l : Loc} (hl : l.Keeps (ByteFrame.canon W.mem)) :
    (remoteGet s p q l).Kept W := by
  unfold remoteGet
  dsimp only
  simp_all

@[simp] theorem execCmoveGet_keptBy (p : Nat) {s : State} (hs : s.Kept W) : KeptBy W (execCmoveGet p s) := by
  unfold execCmoveGet
  refine issueS_kept hs _ _ _ fun q l hl => ?_
  dsimp only
  (repeat' split) <;> simp (disch := simp +contextual [hs, hl])

@[simp] theorem remotePut_kept {s : State} (hs : s.Kept W) (p : Nat) (q : QEntry) {l : Loc} (hl : l.Keeps (ByteFrame.canon W.mem)) :
    (remotePut s p q l).Kept W := by
  unfold remotePut
  dsimp only
  simp_all

@[simp] theorem execCmovePut_keptBy (p : Nat) {s : State} (hs : s.Kept W) : KeptBy W (execCmovePut p s) := by
  unfold execCmovePut
  refine issueS_kept hs _ _ _ fun q l hl => ?_
  dsimp only
  (repeat' split) <;> simp (disch := simp +contextual [hs, hl])

@[simp] theorem execCmoveAdd_keptBy (p : Nat) {s : State} (hs : s.Kept W) : KeptBy W (execCmoveAdd p s) := by
  unfold execCmoveAdd
  refine issueS_kept hs _ _ _ fun q l hl => ?_
  dsimp only
  (repeat' split) <;> simp (disch := simp +contextual [hs, hl])

@[simp] theorem toPort_kept (s : State) (q : Nat) (its : List PlyItem) : (toPort s q its).Kept W ↔ s.Kept W := by
  unfold toPort
  simp

@[simp] theorem sendAcc_kept (s : State) (p t : Nat) (a : Access) : (sendAcc s p t a).Kept W ↔ s.Kept W := by
  unfold sendAcc
  split <;> simp

@[simp] theorem admitDo_kept {s : State} (hs : s.Kept W) (p t : Nat) (a : Access) {l : Loc} (hl : l.Keeps (ByteFrame.canon W.mem)) :
    (admitDo s p t a l).Kept W := by
  unfold admitDo
  dsimp only
  (repeat' split) <;> simp_all

@[simp] theorem presentDo_kept {s : State} (hs : s.Kept W) (p t : Nat) (a : Access) (rest : List Access) {l : Loc} (hl : l.Keeps (ByteFrame.canon W.mem)) :
    (presentDo s p t a rest l).Kept W := by
  unfold presentDo
  dsimp only
  (repeat' split) <;> simp_all [↓State.kept_mk]

@[simp] theorem execMeshAdmission_keptBy (p : Nat) {s : State} (hs : s.Kept W) : KeptBy W (execMeshAdmission p s) := by
  unfold execMeshAdmission
  refine onPosS_kept hs _ fun l hl => ?_
  dsimp only
  (repeat' split) <;> simp (disch := simp +contextual [hs, hl]) [hs]

@[simp] theorem getDeliver_kept {s : State} (hs : s.Kept W) (p t : Nat) (a : Access) (data : List Byte) (poison : List Nat) {l : Loc}
    (hl : l.Keeps (ByteFrame.canon W.mem)) : (getDeliver s p t a data poison l).Kept W := by
  unfold getDeliver
  split
  · exact hs
  · dsimp only
    rw [State.kept_mk]
    refine closePos_kept hs p ((Loc.arrived_keeps ..).mpr (Loc.seenAt_keeps (Loc.at_keeps ?_ t) (fun l hl => by simp [hl]) _))
    split <;> simp [hl]

@[simp] theorem takeReply_kept {s : State} (hs : s.Kept W) (p : Nat) (f : Reply → Bool) : ∀ r ∈ takeReply s p f, r.2.2.Kept W := by
  unfold takeReply
  dsimp only
  (repeat' split) <;> simp [hs]

@[simp] theorem execGetLineArrival_keptBy (p : Nat) {s : State} (hs : s.Kept W) : KeptBy W (execGetLineArrival p s) := by
  refine onPosS_kept hs _ fun l hl => ?_
  split
  · exact hs
  · next r t s' hsome => exact getDeliver_kept (takeReply_kept hs p _ _ hsome) _ _ _ _ _ hl

@[simp] theorem execWriteAckArrival_keptBy (p : Nat) {s : State} (hs : s.Kept W) : KeptBy W (execWriteAckArrival p s) := by
  refine onPosS_kept hs _ fun l hl => ?_
  split
  · exact hs
  · next r t s' hsome => exact closePos_kept (takeReply_kept hs p _ _ hsome) _ (by simp [hl])

@[simp] theorem answer_kept (s : State) (q t extra : Nat) (mesh : Bool) (a : Access) (r : Reply) (it : PlyItem) :
    (answer s q t extra mesh a r it).Kept W ↔ s.Kept W := by
  unfold answer
  dsimp only
  (repeat' split) <;> simp

@[simp] theorem landed_kept {s : State} (hs : s.Kept W) (q t b : Nat) (a : Access) : (landed s q t b a).Kept W := by
  unfold landed
  dsimp only
  (repeat' split) <;> simp [hs]

@[simp] theorem chbmDo_kept {s : State} (hs : s.Kept W) (p op : Nat) (q : QEntry) (r : ChbmRec) {l : Loc} (hl : l.Keeps (ByteFrame.canon W.mem)) :
    (chbmDo s p op q r l).Kept W := by
  unfold chbmDo
  dsimp only
  (repeat' split) <;> simp_all

@[simp] theorem chbm_keptBy (p op : Nat) {s : State} (hs : s.Kept W) : KeptBy W (chbm p op s) := by
  unfold chbm
  refine issueS_kept hs _ _ _ fun q l hl => ?_
  dsimp only
  (repeat' split) <;> simp (disch := simp +contextual [hs, hl])

@[simp] theorem execChbmLoad_keptBy (p : Nat) {s : State} (hs : s.Kept W) : KeptBy W (execChbmLoad p s) := by
  unfold execChbmLoad
  simp [hs]

@[simp] theorem execChbmStore_keptBy (p : Nat) {s : State} (hs : s.Kept W) : KeptBy W (execChbmStore p s) := by
  unfold execChbmStore
  simp [hs]

@[simp] theorem execChbmStore2_keptBy (p : Nat) {s : State} (hs : s.Kept W) : KeptBy W (execChbmStore2 p s) := by
  unfold execChbmStore2
  simp [hs]

@[simp] theorem startCycle_kept (c : Nat) (s : State) : (startCycle c s).Kept W ↔ s.Kept W := by
  unfold startCycle
  simp

@[simp] theorem execHbmTimetableCycle_keptBy {s : State} (hs : s.Kept W) : KeptBy W (execHbmTimetableCycle s) := by
  unfold execHbmTimetableCycle
  split <;> simp [hs]

@[simp] theorem hbmWrite_kept {s : State} (hs : s.Kept W) (off : Nat) (bs : List Byte) (bad : Bool) : (hbmWrite s off bs bad).Kept W :=
  hs.withHbm fun hm => ⟨Memory.wf_memWrite (hs.hbm hm).1 off bs, (hs.hbm hm).2⟩

@[simp] theorem hbmCode_kept (s : State) (off e : Nat) (who : Option Nat) : (hbmCode s off e who).Kept W ↔ s.Kept W := by
  unfold hbmCode
  dsimp only
  (repeat' split) <;> simp

end
end Sys2Proof.Machine
end

section
/-!
What the commands of the HBM, the reelers, the ports, the host transfers and the hank, and the faults, keep of the two invariants.
-/
namespace Sys2Proof.Machine
section
variable {W : Watch}

@[simp] theorem grantsBy_kept (s : State) (st ch : Nat) : (grantsBy s st ch).Kept W ↔ s.Kept W := by
  unfold grantsBy
  split <;> simp

@[simp] theorem freePresent_kept (p g : Nat) {s : State} (hs : s.Kept W) : (freePresent p g s).Kept W := by
  refine runPos_kept hs p fun l hl => ?_
  (repeat' split) <;> simp [hl]

@[simp] theorem grantLine_kept {s : State} (hs : s.Kept W) (st ch g : Nat) (x : HbmAcc) : (grantLine s st ch g x).Kept W := by
  unfold grantLine
  dsimp only
  (repeat' split) <;> simp [hs]

theorem takeGranted_kept {s : State} (hs : s.Kept W) (p : Nat) (f : HbmAcc → Bool) : ∀ r ∈ takeGranted s p f, r.2.Kept W := by
  intro r hr
  obtain ⟨x, -, rfl⟩ := Option.map_eq_some_iff.mp hr
  exact hs

@[simp] theorem replyPort_kept (s : State) (q t : Nat) (a : Access) (data : List Byte) (bad : Bool) :
    (replyPort s q t a data bad).Kept W ↔ s.Kept W := by
  unfold replyPort
  simp

@[simp] theorem moverData_kept {s : State} (hs : s.Kept W) (p : Nat) (x : HbmAcc) : (moverData s p x).Kept W := by
  unfold moverData
  split
  · exact hs
  · exact runPos_kept (by simp [hs]) p fun l hl => Loc.seenAt_keeps (Loc.at_keeps hl _) (fun l hl => by simp [hl]) _

@[simp] theorem execHbmDataArrival_keptBy (p : Nat) {s : State} (hs : s.Kept W) : KeptBy W (execHbmDataArrival p s) := by
  refine onPosS_kept hs _ fun _ _ => ?_
  split
  · exact hs
  · next x s' hsome =>
    have hs' : s'.Kept W := takeGranted_kept hs _ _ _ hsome
    dsimp only
    split
    · simp [hs']
    · split
      · simp [hs']
      · exact getDeliver_kept (by simp [hs']) _ _ _ _ _ (openPos_keeps (by simp [hs']) p)

@[simp] theorem execHbmWriteCommit_keptBy (p : Nat) {s : State} (hs : s.Kept W) : KeptBy W (execHbmWriteCommit p s) := by
  refine onPosS_kept hs _ fun _ _ => ?_
  split
  · exact hs
  · next x s' hsome =>
    have hs' : s'.Kept W := takeGranted_kept hs _ _ _ hsome
    dsimp only
    split
    · exact runPos_kept (hbmWrite_kept (by simp [hs']) _ _ _) p fun l hl => Loc.at_keeps hl _
    · exact landed_kept (hbmWrite_kept (by simp [hs']) _ _ _) _ _ _ _

@[simp] theorem bgLines_kept (s : State) (st n : Nat) : (bgLines s st n).Kept W ↔ s.Kept W := by
  unfold bgLines
  simp

@[simp] theorem scrubBack_kept (s : State) (st off : Nat) : (scrubBack s st off).Kept W ↔ s.Kept W := by
  unfold scrubBack
  simp

/-- The place after the last line of a stack is its first line (R345). -/
@[simp] theorem scrubRead_kept {s : State} (hs : s.Kept W) (st : Nat) : (scrubRead s st).Kept W := by
  have hcode (off e : Nat) : (hbmCode (payLines (bgLines s st 1) 8 1) off e none).Kept W := by simp [hs]
  refine (hcode _ _).withHbm fun hm => ⟨((hcode _ _).hbm hm).1, fun k hk => ?_⟩
  rcases modAt_mem hk with hold | ⟨_, _, rfl⟩
  · exact ((hcode _ _).hbm hm).2 k hold
  · have hold : s.hbm.scrub.getD st 0 < stackLines := by
      rw [List.getD_eq_getElem?_getD]
      cases hst : s.hbm.scrub[st]? with
      | none => exact by decide
      | some n => exact (hs.hbm hm).2 n (List.mem_of_getElem? hst)
    split
    · decide
    · next hwrap =>
      rw [beq_iff_eq] at hwrap
      omega

@[simp] theorem execPatrolScrub_keptBy (st : Nat) {s : State} (hs : s.Kept W) : KeptBy W (execPatrolScrub st s) := by
  unfold execPatrolScrub
  refine onUnit_kept _ _ _ ?_
  (repeat' split) <;> simp (disch := simp +contextual [hs]) [hs]

/-- A change of a distaff's check bits and marks. -/
@[simp] theorem Loc.dist_keeps {F : ByteFrame} (l : Loc) {f : Distaff → Distaff} (hf : ∀ d, (f d).mem = d.mem) : (l.dist f).Keeps F ↔ l.Keeps F :=
  Loc.keeps_congr (hf _) rfl

@[simp] theorem execDistaffScrub_closes (p : Nat) {F : ByteFrame} {s : State} (hs : (openPos s p).Keeps F) : Closes F s p (execDistaffScrub p s) := by
  refine onPos_closes hs fun l hl => ?_
  dsimp only
  split
  · exact hl
  · exact (Loc.scrub_keeps l _ _).mpr hl

@[simp] theorem execDistaffScrub_keptBy (p : Nat) {s : State} (hs : s.Kept W) : KeptBy W (execDistaffScrub p s) :=
  (execDistaffScrub_closes p (openPos_keeps hs p)).keptBy hs

@[simp] theorem cfe_keptBy (p op : Nat) {s : State} (hs : s.Kept W) : KeptBy W (cfe p op s) := by
  unfold cfe
  refine issueS_kept hs _ _ _ fun q l hl => ?_
  dsimp only
  (repeat' split) <;> simp (disch := simp +contextual [hs, hl]) [hs]

@[simp] theorem execCfeFill_keptBy (p : Nat) {s : State} (hs : s.Kept W) : KeptBy W (execCfeFill p s) := by
  unfold execCfeFill
  simp [hs]

@[simp] theorem execCfeTake_keptBy (p : Nat) {s : State} (hs : s.Kept W) : KeptBy W (execCfeTake p s) := by
  unfold execCfeTake
  simp [hs]

@[simp] theorem execCfeReadf_keptBy (p : Nat) {s : State} (hs : s.Kept W) : KeptBy W (execCfeReadf p s) := by
  unfold execCfeReadf
  simp [hs]

@[simp] theorem execCfeSet_keptBy (p : Nat) {s : State} (hs : s.Kept W) : KeptBy W (execCfeSet p s) := by
  unfold execCfeSet
  simp [hs]

@[simp] theorem execRarm_keptBy (p : Nat) {s : State} (hs : s.Kept W) : KeptBy W (execRarm p s) := by
  unfold execRarm
  refine issueW_kept hs _ _ _ fun q l hl => ?_
  dsimp only
  (repeat' split) <;> simp (disch := simp +contextual [hs, hl])

@[simp] theorem execRclose_closes (p : Nat) {F : ByteFrame} {s : State} (hs : (openPos s p).Keeps F) : Closes F s p (execRclose p s) := by
  unfold execRclose
  refine issueW_closes hs _ _ fun q l hl => ?_
  dsimp only
  (repeat' split) <;> simp (disch := simp +contextual [hs, hl])

@[simp] theorem execRclose_keptBy (p : Nat) {s : State} (hs : s.Kept W) : KeptBy W (execRclose p s) :=
  (execRclose_closes p (openPos_keeps hs p)).keptBy hs

@[simp] theorem execRcloseConvert_keptBy (p : Nat) {s : State} (hs : s.Kept W) : KeptBy W (execRcloseConvert p s) := by
  refine onPos_kept hs _ fun l hl => ?_
  split
  · exact hl
  · next c rest _ =>
    split
    · exact hl
    · have hread (t occ n : Nat) (free : Nat) : ((((l.reel fun x => { x with convs := rest, free := free, cur := none }).at_ t).strm 5
          fun x => { x with doneAt := max x.doneAt (t + occ - 1 + 4) }).scrub c.buf.base n).Keeps (ByteFrame.canon W.mem) := by simp [hl]
      dsimp only
      split
      · exact hread _ _ _ _
      · exact convOut_keeps c _ (hread _ _ _ _)

@[simp] theorem arrivalsBy_kept (s : State) (p : Nat) : (arrivalsBy s p).Kept W ↔ s.Kept W := by
  unfold arrivalsBy
  split <;> simp

@[simp] theorem reply_kept (s : State) (p t : Nat) (a : Access) (data : List Byte) (poison : List Nat) (timeout : Bool) :
    (reply s p t a data poison timeout).Kept W ↔ s.Kept W := by
  unfold reply
  simp

@[simp] theorem execReelerArrival_keptBy (p : Nat) {s : State} (hs : s.Kept W) : KeptBy W (execReelerArrival p s) := by
  refine onPosS_kept hs _ fun _ _ => ?_
  have hby : (arrivalsBy s p).Kept W := (arrivalsBy_kept s p).mpr hs
  extract_lets s₁
  split
  · exact hby
  · next a rest _ =>
    split
    · exact hby
    · extract_lets t s₂ off l drop
      have hs₂ : s₂.Kept W := hby
      have hl : l.Keeps (ByteFrame.canon W.mem) := Loc.at_keeps (openPos_keeps hs₂ p) t
      have hclose : (closePos s₂ p l).Kept W := closePos_kept hs₂ p hl
      have hdrop (code : Nat) : (drop code).Kept W := (raiseAt_kept _ _ _).mpr hclose
      clear_value s₂ l drop
      split
      · exact hdrop _
      · split
        · exact hdrop _
        · split
          · split
            · exact (reply_kept ..).mpr ((drawBytes_kept ..).mpr hs₂)
            · exact (reply_kept ..).mpr (closePos_kept hs₂ p ((Loc.scrub_keeps ..).mpr hl))
          · split
            · exact hclose
            · split
              · exact closePos_kept hs₂ p hl
              · split
                · exact hdrop _
                · exact closePos_kept hs₂ p hl

@[simp] theorem reelMisuse_kept {s : State} (hs : s.Kept W) (p t : Nat) (a : Access) : (reelMisuse s p t a).Kept W := by
  unfold reelMisuse
  simp +contextual [hs]

@[simp] theorem takePut_kept {s : State} (hs : s.Kept W) (p t : Nat) (a : Access) : (takePut s p t a).Kept W := by
  unfold takePut
  dsimp only
  split
  · simp [hs]
  · refine landed_kept (runPos_kept hs p fun l hl => ?_) _ _ _ _
    exact Loc.reelWrites_keeps (Loc.reelWork_keeps hl _ _ _) _ fun l hl => by simp [hl]

@[simp] theorem takeAdd_kept {s : State} (hs : s.Kept W) (p t : Nat) (a : Access) : (takeAdd s p t a).Kept W := by
  unfold takeAdd
  split
  · simp [hs]
  · dsimp only
    refine landed_kept (runPos_kept hs p fun l hl => foldl_keepsFrame (fun l v hl => ?_) _ (Loc.reelWork_keeps hl _ _ _)) _ _ _ _
    exact Loc.reelWrites_keeps hl _ fun l hl => by simp [hl]

@[simp] theorem cfeAct_kept {s : State} (hs : s.Kept W) (p t : Nat) (a : Access) (c : CfeArg) : (cfeAct s p t a c).Kept W := by
  unfold cfeAct
  extract_lets w set l l'
  have hl : l.Keeps (ByteFrame.canon W.mem) := (Loc.reel_keeps _ _).mpr (Loc.reelWork_keeps (openPos_keeps hs p) t 1 none)
  have hset (b : Bool) (l : Loc) : (l.dist (set b)).Keeps (ByteFrame.canon W.mem) ↔ l.Keeps (ByteFrame.canon W.mem) := Loc.dist_keeps l fun _ => rfl
  clear_value l set
  split
  · exact landed_kept (closePos_kept hs p (Loc.reelWrites_keeps ((hset _ _).mpr hl) _ fun l hl => by simp [hl])) _ _ _ _
  · have hl' : l'.Keeps (ByteFrame.canon W.mem) := (Loc.scrub_keeps ..).mpr hl
    refine (reply_kept ..).mpr (closePos_kept hs p ?_)
    split
    · exact (hset _ _).mpr hl'
    · exact hl'

@[simp] theorem waitFull_kept {s : State} (hs : s.Kept W) (p t : Nat) (a : Access) (c : CfeArg) : (waitFull s p t a c).Kept W := by
  have hwork : (runPos s p (·.reelWork t 1 none)).Kept W := runPos_kept hs p fun l hl => Loc.reelWork_keeps hl _ _ _
  unfold waitFull
  dsimp only
  split
  · exact runPos_kept hwork _ fun l hl => by simp [hl]
  · split <;> simp [hwork]

@[simp] theorem cfeExpire_kept (s : State) (p t : Nat) (a : Access) : (cfeExpire s p t a).Kept W ↔ s.Kept W := by
  unfold cfeExpire
  simp

@[simp] theorem takeCfe_kept {s : State} (hs : s.Kept W) (p t : Nat) (a : Access) (c : CfeArg) : (takeCfe s p t a c).Kept W := by
  unfold takeCfe
  dsimp only
  (repeat' split) <;> simp +contextual [hs]

@[simp] theorem takeEntry_kept {s : State} (hs : s.Kept W) (p t : Nat) (a : Access) : (takeEntry s p t a).Kept W := by
  unfold takeEntry
  split <;> simp [hs]

@[simp] theorem execReelerTake_keptBy (p : Nat) {s : State} (hs : s.Kept W) : KeptBy W (execReelerTake p s) := by
  unfold execReelerTake
  refine onPosS_kept hs _ fun l hl => ?_
  (repeat' split) <;> simp (disch := simp +contextual [hs, hl]) [hs]

@[simp] theorem execFeWaitServe_keptBy (p : Nat) {s : State} (hs : s.Kept W) : KeptBy W (execFeWaitServe p s) := by
  unfold execFeWaitServe
  refine onPosS_kept hs _ fun l hl => ?_
  (repeat' split) <;> simp (disch := simp +contextual [hs, hl]) [hs]

@[simp] theorem execFeWaitExpire_keptBy (p : Nat) {s : State} (hs : s.Kept W) : KeptBy W (execFeWaitExpire p s) := by
  unfold execFeWaitExpire
  refine onPosS_kept hs _ fun l hl => ?_
  dsimp only
  (repeat' split) <;> simp (disch := simp +contextual [hs, hl]) [hs]

@[simp] theorem execCfeReplyArrival_keptBy (p : Nat) {s : State} (hs : s.Kept W) : KeptBy W (execCfeReplyArrival p s) := by
  refine onPosS_kept hs _ fun l hl => ?_
  split
  · exact hs
  · split
    · exact hs
    · next r t s' hsome =>
      have hs' := takeReply_kept hs _ _ _ hsome
      split
      · exact hs'
      · exact closePos_kept hs' p (cfeAnswer_keeps _ _ _ _ _ (by simp [hl]))

@[simp] theorem onPort_kept (q : Nat) {r : State} (hr : r.Kept W) : KeptBy W (onPort q r) := onUnit_kept "port" 6 q hr

@[simp] theorem raisePort_kept (s : State) (q : Nat) (e : Ev) : (raisePort s q e).Kept W ↔ s.Kept W := by
  unfold raisePort
  split <;> simp

@[simp] theorem bootOrder_kept (s : State) : (bootOrder s).Kept W ↔ s.Kept W := by
  unfold bootOrder
  dsimp only
  (repeat' split) <;> simp

@[simp] theorem raiseTraining_kept (s : State) (q : Nat) (e : Ev) : (raiseTraining s q e).Kept W ↔ s.Kept W := by
  unfold raiseTraining
  split <;> simp

@[simp] theorem framesNow_kept (s : State) (q : Nat) : (framesNow s q).Kept W ↔ s.Kept W := by
  unfold framesNow
  simp

@[simp] theorem portDown_kept {s : State} (hs : s.Kept W) (q : Nat) : (portDown s q).Kept W := by
  have hdown (f : Port → Port) : (modPort (framesNow (raisePort s q (ev 0x403 q 0)) q) q f).Kept W := by simp [hs]
  exact (hdown _).withSpindles ((hdown _).spindles.map fun sp hsp => hsp)

@[simp] theorem failLane_kept {s : State} (hs : s.Kept W) (q lane : Nat) : (failLane s q lane).Kept W := by
  unfold failLane
  dsimp only
  (repeat' split) <;> simp [hs]

@[simp] theorem askNarrow_kept {s : State} (hs : s.Kept W) (q : Nat) : (askNarrow s q).Kept W := by
  unfold askNarrow
  dsimp only
  (repeat' split) <;> simp [hs]

@[simp] theorem execLaneLockLoss_keptBy (q lane : Nat) {s : State} (hs : s.Kept W) : KeptBy W (execLaneLockLoss q lane s) := by
  unfold execLaneLockLoss
  split
  · refine onUnit_kept _ _ _ ?_
    (repeat' split) <;> simp (disch := simp +contextual [hs]) [hs]
  · simp

@[simp] theorem execPlyLaneMapChange_keptBy (q : Nat) {s : State} (hs : s.Kept W) : KeptBy W (execPlyLaneMapChange q s) := by
  unfold execPlyLaneMapChange
  split <;> simp [hs]

@[simp] theorem badFrame_kept (s : State) (q : Nat) (seq : Nat) : (badFrame s q seq).Kept W ↔ s.Kept W := by
  unfold badFrame
  dsimp only
  (repeat' split) <;> simp

@[simp] theorem goodFrame_kept {s : State} (hs : s.Kept W) (q : Nat) (f : Sys2Proof.Frame) : (goodFrame s q f).Kept W := by
  unfold goodFrame
  dsimp only
  (repeat' split) <;> simp [hs]

@[simp] theorem execPlyFrameReceive_keptBy (q : Nat) (f : Sys2Proof.Frame) {s : State} (hs : s.Kept W) :
    KeptBy W (execPlyFrameReceive q f s) := by
  refine onPort_kept q ?_
  (repeat' split) <;> simp [hs]

@[simp] theorem execPlyNoFrameTimeout_keptBy (q : Nat) {s : State} (hs : s.Kept W) : KeptBy W (execPlyNoFrameTimeout q s) := by
  unfold execPlyNoFrameTimeout
  split <;> simp [hs]

@[simp] theorem startTraining_kept (boot : Bool) (s : State) (q : Nat) : (startTraining boot s q).Kept W ↔ s.Kept W := by
  unfold startTraining
  simp

@[simp] theorem failTraining_kept (s : State) (q code : Nat) (bad : List Nat) : (failTraining s q code bad).Kept W ↔ s.Kept W := by
  unfold failTraining
  simp

@[simp] theorem execPlyTraining_keptBy (q : Nat) (signal : List Nat) (locked : Locks) (ppb rawIn rawOut cls : Nat) {s : State} (hs : s.Kept W) :
    KeptBy W (execPlyTraining q signal locked ppb rawIn rawOut cls s) := by
  have hcls (cs : List Nat) : (cs.foldl (fun s _ => raiseTraining s q (ev 0xB06 (portXing q) 0)) (modPort s q fun x => { x with raw := some rawIn })).Kept W :=
    foldl_kept (fun s c hs => by simp [hs]) _ (by simp [hs])
  refine onPort_kept q ?_
  split
  · dsimp only
    split
    · split
      · simp [hs]
      · split
        · simp [hcls]
        · split <;> simp [hcls]
    · simp [hs]
  · exact hs

@[simp] theorem execPlyTrainStepTimeout_keptBy (q : Nat) {s : State} (hs : s.Kept W) (bad : List Nat) :
    KeptBy W (execPlyTrainStepTimeout q s bad) := by
  unfold execPlyTrainStepTimeout
  split <;> simp [hs]

@[simp] theorem execPlyRetrain_keptBy (q : Nat) {s : State} (hs : s.Kept W) : KeptBy W (execPlyRetrain q s) := by
  unfold execPlyRetrain
  dsimp only
  (repeat' split) <;> simp [hs]

@[simp] theorem noteWait_kept {s : State} (hs : s.Kept W) (q w : Nat) (x : PlyItem) : (noteWait s q w x).Kept W := by
  unfold noteWait
  dsimp only
  (repeat' split) <;> simp [hs]

@[simp] theorem waitItems_kept {s : State} (hs : s.Kept W) (q w : Nat) (xs rest : List PlyItem) : (waitItems s q w xs rest).Kept W := by
  unfold waitItems
  exact foldl_kept (fun s x hs => by simp [hs]) _ hs

@[simp] theorem sendWindow_kept {s : State} (hs : s.Kept W) (q w : Nat) : (sendWindow s q w).Kept W := by
  have hhold (xs : List PlyItem) : (xs.foldl (fun s x => raisePort s q (ev 0x302 4 x.bad)) s).Kept W :=
    foldl_kept (fun s x hs => by simp [hs]) _ hs
  unfold sendWindow
  dsimp only
  split <;> simp [hs, hhold]

@[simp] theorem execPlyAdmissionWindow_keptBy (q : Nat) {s : State} (hs : s.Kept W) : KeptBy W (execPlyAdmissionWindow q s) := by
  unfold execPlyAdmissionWindow
  dsimp only
  (repeat' split) <;> simp [hs]

@[simp] theorem fromEdge_kept (s : State) (q p : Nat) (a : Access) (back : Bool) : (fromEdge s q p a back).2.Kept W ↔ s.Kept W := by
  unfold fromEdge
  simp

@[simp] theorem edgeLine_kept (s : State) (q off : Nat) (a : Access) : (edgeLine s q off a).2.Kept W ↔ s.Kept W := by
  unfold edgeLine
  split <;> simp

@[simp] theorem deliver_kept (s : State) (q lat : Nat) (a : Access) : (deliver s q lat a).Kept W ↔ s.Kept W := by
  unfold deliver
  dsimp only
  (repeat' split) <;> simp

@[simp] theorem atPort_kept {s : State} (hs : s.Kept W) (q : Nat) {f : State → State} (hf : ∀ s, s.Kept W → (f s).Kept W) :
    KeptBy W (atPort s q f) := by
  refine onPort_kept q ?_
  split
  · exact hf s hs
  · exact hs

@[simp] theorem execPlyPutReceive_keptBy (q : Nat) (t : Trans) {s : State} (hs : s.Kept W) : KeptBy W (execPlyPutReceive q t s) :=
  atPort_kept hs q fun s hs => foldl_kept (fun s x hs => by simp [hs]) _ hs

@[simp] theorem execPlyGetreqReceive_keptBy (q : Nat) (t : Trans) {s : State} (hs : s.Kept W) : KeptBy W (execPlyGetreqReceive q t s) :=
  atPort_kept hs q fun s hs => foldl_kept (fun s x hs => by simp [hs]) _ hs

@[simp] theorem fromPartner_kept (s : State) (q : Nat) (a : Access) (data : List Byte) (timeout ack : Bool) :
    (fromPartner s q a data timeout ack).Kept W ↔ s.Kept W := by
  unfold fromPartner
  simp

@[simp] theorem spreadRep_kept (q : Nat) (as : List Access) (d : List Byte) {s : State} (hs : s.Kept W) : (spreadRep q as d s).1.Kept W := by
  induction as generalizing d s with
  | nil => exact hs
  | cons a as ih =>
    rw [spreadRep]
    split
    · exact hs
    · exact ih _ (by simp [hs])

@[simp] theorem execPlyGetrepReceive_keptBy (q : Nat) (t : Trans) {s : State} (hs : s.Kept W) : KeptBy W (execPlyGetrepReceive q t s) := by
  unfold execPlyGetrepReceive
  refine onUnit_kept _ _ _ ?_
  dsimp only
  (repeat' split) <;> simp (disch := simp +contextual [hs]) [hs]

@[simp] theorem execPlyAddReceive_keptBy (q : Nat) (t : Trans) {s : State} (hs : s.Kept W) : KeptBy W (execPlyAddReceive q t s) :=
  atPort_kept hs q fun _ hs => foldl_fst_kept (fun x v hx => by simp [hx]) _ hs

@[simp] theorem execPlyCfeReceive_keptBy (q : Nat) (t : Trans) {s : State} (hs : s.Kept W) : KeptBy W (execPlyCfeReceive q t s) := by
  unfold execPlyCfeReceive
  simp [hs]

@[simp] theorem execPlyCferepReceive_keptBy (q : Nat) (t : Trans) {s : State} (hs : s.Kept W) : KeptBy W (execPlyCferepReceive q t s) := by
  refine atPort_kept hs q fun s hs => ?_
  split
  · exact hs
  · exact foldl_kept (fun s a hs => by simp [hs]) _ (by simp [hs])

@[simp] theorem ackOne_kept (q src tag : Nat) {s : State} (hs : s.Kept W) : (ackOne q src tag s).Kept W := by
  unfold ackOne
  dsimp only
  split
  · exact hs
  · exact foldl_kept (fun s a hs => by simp [hs]) _ (by simp [hs])

@[simp] theorem execPlyAckReceive_keptBy (q : Nat) (t : Trans) {s : State} (hs : s.Kept W) : KeptBy W (execPlyAckReceive q t s) :=
  atPort_kept hs q fun s hs => foldl_kept (fun s _ hs => by simp [hs]) _ hs

@[simp] theorem modSend_kept (s : State) (q c : Nat) (f : Option ChanSide → Option ChanSide) : (modSend s q c f).Kept W ↔ s.Kept W := by
  unfold modSend
  simp

@[simp] theorem modRecv_kept (s : State) (q c : Nat) (f : Option ChanSide → Option ChanSide) : (modRecv s q c f).Kept W ↔ s.Kept W := by
  unfold modRecv
  simp

@[simp] theorem openDo_kept {s : State} (hs : s.Kept W) (p : Nat) (q : QEntry) {l : Loc} (hl : l.Keeps (ByteFrame.canon W.mem)) :
    (openDo s p q l).Kept W := by
  unfold openDo
  dsimp only
  (repeat' split) <;> simp_all

@[simp] theorem execCplyOpen_keptBy (p : Nat) {s : State} (hs : s.Kept W) : KeptBy W (execCplyOpen p s) := by
  unfold execCplyOpen
  refine issueS_kept hs _ _ _ fun q l hl => ?_
  dsimp only
  (repeat' split) <;> simp (disch := simp +contextual [hs, hl])

@[simp] theorem execPlyOpenReceive_keptBy (q ch : Nat) (t : Trans) {s : State} (hs : s.Kept W) : KeptBy W (execPlyOpenReceive q ch t s) := by
  unfold execPlyOpenReceive
  split <;> simp [hs]

@[simp] theorem sendDo_kept {s : State} (hs : s.Kept W) (p : Nat) (q : QEntry) (x : ChanSide) {l : Loc} (hl : l.Keeps (ByteFrame.canon W.mem)) :
    (sendDo s p q x l).Kept W := by
  unfold sendDo
  dsimp only
  (repeat' split) <;> simp_all

@[simp] theorem execCplySend_keptBy (p : Nat) {s : State} (hs : s.Kept W) : KeptBy W (execCplySend p s) := by
  unfold execCplySend
  refine onPosS_kept hs _ fun l hl => ?_
  dsimp only
  (repeat' split) <;> simp (disch := simp +contextual [hs, hl]) [hs]

@[simp] theorem execChannelCreditTimeout_keptBy (p : Nat) {s : State} (hs : s.Kept W) : KeptBy W (execChannelCreditTimeout p s) := by
  unfold execChannelCreditTimeout
  refine onPosS_kept hs _ fun l hl => ?_
  dsimp only
  (repeat' split) <;> simp (disch := simp +contextual [hs, hl]) [hs]

@[simp] theorem freeDo_kept {s : State} (hs : s.Kept W) (p : Nat) (q : QEntry) {l : Loc} (hl : l.Keeps (ByteFrame.canon W.mem)) :
    (freeDo s p q l).Kept W := by
  unfold freeDo
  dsimp only
  simp_all

@[simp] theorem execCplyFree_keptBy (p : Nat) {s : State} (hs : s.Kept W) : KeptBy W (execCplyFree p s) := by
  unfold execCplyFree
  refine issueS_kept hs _ _ _ fun q l hl => ?_
  dsimp only
  (repeat' split) <;> simp (disch := simp +contextual [hs, hl])

@[simp] theorem execPlyCreditReceive_keptBy (q : Nat) (t : Trans) {s : State} (hs : s.Kept W) : KeptBy W (execPlyCreditReceive q t s) := by
  unfold execPlyCreditReceive
  refine onUnit_kept _ _ _ ?_
  dsimp only
  (repeat' split) <;> simp (disch := simp +contextual [hs]) [hs]

@[simp] theorem hostWrite_kept {s : State} (hs : s.Kept W) (a : Nat) (bs : List Byte) (bad : List Nat) : (hostWrite s a bs bad).Kept W :=
  hs.withHif fun hm => ⟨Memory.wf_memWrite (hs.hif hm).1 a bs, (hs.hif hm).2⟩

@[simp] theorem chostDo_kept {s : State} (hs : s.Kept W) (p op : Nat) (q : QEntry) {l : Loc} (hl : l.Keeps (ByteFrame.canon W.mem)) :
    (chostDo s p op q l).Kept W := by
  unfold chostDo
  dsimp only
  simp_all [↓State.kept_mk_hif]

@[simp] theorem chost_keptBy (p op : Nat) {s : State} (hs : s.Kept W) : KeptBy W (chost p op s) := by
  unfold chost
  refine issueS_kept hs _ _ _ fun q l hl => ?_
  (repeat' split) <;> simp (disch := simp +contextual [hs, hl]) [hs]

@[simp] theorem execChostGet_keptBy (p : Nat) {s : State} (hs : s.Kept W) : KeptBy W (execChostGet p s) := by
  unfold execChostGet
  simp [hs]

@[simp] theorem execChostPut_keptBy (p : Nat) {s : State} (hs : s.Kept W) : KeptBy W (execChostPut p s) := by
  unfold execChostPut
  simp [hs]

@[simp] theorem dropXfer_kept (s : State) (x : Xfer) : (dropXfer s x).Kept W ↔ s.Kept W := by
  unfold dropXfer
  simp

@[simp] theorem noteXfer_kept (s : State) (x : Xfer) (bell : Nat) : (noteXfer s x bell).Kept W ↔ s.Kept W := by
  unfold noteXfer
  split <;> simp

@[simp] theorem xferError_kept {s : State} (hs : s.Kept W) (x : Xfer) : (xferError s x).Kept W := by
  unfold xferError
  dsimp only
  (repeat' split) <;> simp +contextual [hs]

@[simp] theorem xferDone_kept {s : State} (hs : s.Kept W) (x : Xfer) (bell : Nat) : (xferDone s x bell).Kept W := by
  unfold xferDone
  extract_lets n s₁
  have hs₁ : s₁.Kept W := by simp [s₁, hs]
  clear_value s₁
  split
  · split
    · simp [hs₁]
    · rw [noteXfer_kept]
      refine runPos_kept (by simp [hs₁]) _ fun l hl => ?_
      split <;> simp [hl]
  · rw [noteXfer_kept]
    refine hostWrite_kept ?_ _ _ _
    exact closePos_kept hs₁ _ ((Loc.scrub_keeps ..).mpr (openPos_keeps hs₁ _))

@[simp] theorem execHostTransferVisible_keptBy (p : Nat) {s : State} (hs : s.Kept W) : KeptBy W (execHostTransferVisible p s) := by
  unfold execHostTransferVisible
  dsimp only
  (repeat' split) <;> simp [hs]

@[simp] theorem execHostDataLate_keptBy (p : Nat) {s : State} (hs : s.Kept W) : KeptBy W (execHostDataLate p s) := by
  unfold execHostDataLate
  dsimp only
  (repeat' split) <;> simp [hs]

@[simp] theorem execHostAccessError_keptBy (p : Nat) {s : State} (hs : s.Kept W) : KeptBy W (execHostAccessError p s) := by
  unfold execHostAccessError
  split <;> simp [hs]

@[simp] theorem execChankPush_keptBy (p : Nat) {s : State} (hs : s.Kept W) : KeptBy W (execChankPush p s) := by
  unfold execChankPush
  split
  · exact onPos_kept hs p fun l hl => by simp [hl]
  · refine issue_kept hs p _ _ fun q l hl => ?_
    split <;> simp [hl]

@[simp] theorem execChankPop_keptBy (p : Nat) {s : State} (hs : s.Kept W) : KeptBy W (execChankPop p s) := by
  unfold execChankPop
  refine issueW_kept hs _ _ _ fun q l hl => ?_
  dsimp only
  (repeat' split) <;> simp (disch := simp +contextual [hs, hl])

@[simp] theorem hankTimeout_closes (p op code : Nat) {F : ByteFrame} {s : State} (hs : (openPos s p).Keeps F) : Closes F s p (hankTimeout p op code s) := by
  unfold hankTimeout
  refine onPos_closes hs fun l hl => ?_
  dsimp only
  (repeat' split) <;> simp (disch := simp +contextual [hs, hl]) [hl]

@[simp] theorem hankTimeout_keptBy (p op code : Nat) {s : State} (hs : s.Kept W) : KeptBy W (hankTimeout p op code s) :=
  (hankTimeout_closes p op code (openPos_keeps hs p)).keptBy hs

@[simp] theorem execHankPushTimeout_closes (p : Nat) {F : ByteFrame} {s : State} (hs : (openPos s p).Keeps F) : Closes F s p (execHankPushTimeout p s) := by
  unfold execHankPushTimeout
  simp [hs]

@[simp] theorem execHankPushTimeout_keptBy (p : Nat) {s : State} (hs : s.Kept W) : KeptBy W (execHankPushTimeout p s) :=
  (execHankPushTimeout_closes p (openPos_keeps hs p)).keptBy hs

@[simp] theorem execHankPopTimeout_closes (p : Nat) {F : ByteFrame} {s : State} (hs : (openPos s p).Keeps F) : Closes F s p (execHankPopTimeout p s) := by
  unfold execHankPopTimeout
  simp [hs]

@[simp] theorem execHankPopTimeout_keptBy (p : Nat) {s : State} (hs : s.Kept W) : KeptBy W (execHankPopTimeout p s) :=
  (execHankPopTimeout_closes p (openPos_keeps hs p)).keptBy hs

@[simp] theorem execHankMoverStart_closes (p : Nat) {F : ByteFrame} {s : State} (hs : (openPos s p).Keeps F) : Closes F s p (execHankMoverStart p s) := by
  unfold execHankMoverStart
  refine onPos_closes hs fun l hl => ?_
  (repeat' split) <;> simp (disch := simp +contextual [hs, hl]) [hl]

@[simp] theorem execHankMoverStart_keptBy (p : Nat) {s : State} (hs : s.Kept W) : KeptBy W (execHankMoverStart p s) :=
  (execHankMoverStart_closes p (openPos_keeps hs p)).keptBy hs

@[simp] theorem moverStep_kept {s : State} (hs : s.Kept W) (p j : Nat) (m : Mover) (off t : Nat) : (moverStep s p j m off t).Kept W := by
  unfold moverStep
  split <;> simp (disch := simp [hs])

@[simp] theorem execHankMoverLine_keptBy (p : Nat) {s : State} (hs : s.Kept W) : KeptBy W (execHankMoverLine p s) := by
  unfold execHankMoverLine
  dsimp only
  (repeat' split) <;> simp [hs]

@[simp] theorem execHankSpillComplete_keptBy (p : Nat) {s : State} (hs : s.Kept W) : KeptBy W (execHankSpillComplete p s) := by
  unfold execHankSpillComplete
  refine onPos_kept hs _ fun l hl => ?_
  dsimp only
  (repeat' split) <;> simp (disch := simp +contextual [hs, hl]) [hl]

@[simp] theorem execHankRefillComplete_keptBy (p : Nat) {s : State} (hs : s.Kept W) : KeptBy W (execHankRefillComplete p s) := by
  unfold execHankRefillComplete
  refine onPos_kept hs _ fun l hl => ?_
  dsimp only
  (repeat' split) <;> simp (disch := simp +contextual [hs, hl]) [hl]

@[simp] theorem execHbmGrant_keptBy (st ch : Nat) {s : State} (hs : s.Kept W) : KeptBy W (execHbmGrant st ch s) := by
  unfold execHbmGrant
  dsimp only
  (repeat' split) <;> simp +contextual [hs]

@[simp] theorem abandonRepair_kept (s : State) (j n : Nat) : (abandonRepair s j n).Kept W ↔ s.Kept W := by
  unfold abandonRepair
  simp

@[simp] theorem spindleFault_kept (s : State) (p cause stream : Nat) (e : Ev) : (spindleFault s p cause stream e).Kept W ↔ s.Kept W := by
  have hout : (modSp (raiseAt s p e) p fun sp => { sp with service := { oos := true, cause := cause, stream := stream } }).Kept W ↔ s.Kept W := by
    simp
  unfold spindleFault
  dsimp only
  split
  · simp
  · generalize modSp (raiseAt s p e) p _ = s₁ at hout ⊢
    split <;> split <;> simp [hout]

@[simp] theorem onEngine_kept (p k : Nat) {r : State} (hr : r.Kept W) : KeptBy W (onEngine p k r) := by
  unfold onEngine
  (repeat' split) <;> simp [hr]

@[simp] theorem execLogicCheck_keptBy (p k : Nat) {s : State} (hs : s.Kept W) : KeptBy W (execLogicCheck p k s) := by
  unfold execLogicCheck
  simp [hs]

/-- A dark position's distaff is the empty one. -/
@[simp] theorem goDark_kept {s : State} (hs : s.Kept W) (p cause : Nat) : (goDark s p cause).Kept W := by
  unfold goDark
  split
  · exact hs
  · exact modSp_kept (by simp [hs]) p fun sp _ => ByteFrame.canon_holds_nil _ _

@[simp] theorem execMemoryBitError_keptBy (kind p index bit : Nat) {s : State} (hs : s.Kept W) :
    KeptBy W (execMemoryBitError kind p index bit s) := by
  unfold execMemoryBitError
  split
  · split
    · refine onPos_kept hs p fun l hl => (Loc.dist_keeps l fun d => ?_).mpr hl
      split <;> rfl
    · simp
  · split
    · exact onPos_kept hs p fun l hl => by simp [hl]
    · simp
  · split
    · exact onPos_kept hs p fun l hl => by simp [hl]
    · simp
  · split
    · simp [hs]
    · simp
  · simp

@[simp] theorem execFrameOverBudget_keptBy (p k : Nat) {s : State} (hs : s.Kept W) : KeptBy W (execFrameOverBudget p k s) := by
  unfold execFrameOverBudget
  split
  · refine onPosS_kept hs _ fun l hl => ?_
    dsimp only
    (repeat' split) <;> simp (disch := simp +contextual [hs, hl]) [hs]
  · simp

@[simp] theorem execFrameOverrun_keptBy (p k : Nat) {s : State} (hs : s.Kept W) : KeptBy W (execFrameOverrun p k s) := by
  unfold execFrameOverrun
  split
  · refine onPosS_kept hs _ fun l hl => ?_
    dsimp only
    (repeat' split) <;> simp (disch := simp +contextual [hs, hl]) [hs]
  · simp

@[simp] theorem scramble_kept {s : State} (hs : s.Kept W) (p a n : Nat) : (scramble s p a n).Kept W := by
  unfold scramble
  simp +contextual [hs]

@[simp] theorem scrambleAccess_kept {s : State} (hs : s.Kept W) (a : Access) : (scrambleAccess s a).Kept W := by
  unfold scrambleAccess
  split <;> simp [hs]

@[simp] theorem scrambleAnswer_kept {s : State} (hs : s.Kept W) (a : Access) : (scrambleAnswer s a).Kept W := by
  unfold scrambleAnswer
  split
  · exact hs
  · split
    · simp [hs]
    · split <;> simp [hs]
    · exact hs

@[simp] theorem loseAccess_kept {s : State} (hs : s.Kept W) (a : Access) : (loseAccess s a).Kept W := by
  unfold loseAccess
  simp [hs]

@[simp] theorem abandonXfer_kept {s : State} (hs : s.Kept W) (x : Xfer) : (abandonXfer s x).Kept W := by
  unfold abandonXfer
  split <;> simp [hs]

@[simp] theorem losePos_kept {s : State} (hs : s.Kept W) (p : Nat) : (losePos s p).Kept W := by
  unfold losePos
  refine foldl_kept (fun s r hs => by simp [hs]) _ ?_
  exact runPos_kept hs p fun l hl => ByteFrame.canon_holds.mpr fun hm => ByteFrame.canon_holds.mp hl hm

@[simp] theorem modLan_kept (s : State) (f : Lantern → Lantern) : (modLan s f).Kept W ↔ s.Kept W := by
  unfold modLan
  simp

@[simp] theorem modSpire_kept (s : State) (i : Nat) (f : SpirePower → SpirePower) : (modSpire s i f).Kept W ↔ s.Kept W := by
  unfold modSpire
  simp

@[simp] theorem onPw_kept (p : Nat) {r : State} (hr : r.Kept W) : KeptBy W (onPw p r) := onUnit_kept "position" 624 p hr

@[simp] theorem timeTo_kept (s : State) (t : Nat) : (timeTo s t).Kept W ↔ s.Kept W := by
  unfold timeTo
  split <;> simp

@[simp] theorem powerOff_kept {s : State} (hs : s.Kept W) : (powerOff s).Kept W := by
  have hx : (s.hif.xfers.foldl abandonXfer s).Kept W := foldl_kept (fun s x hs => by simp [hs]) _ hs
  unfold powerOff
  extract_lets s₁
  exact ⟨hx.regs, hx.spindles, hx.hbm, hx.hif, hx.keep, fun hc => ⟨(hx.power hc).1, Nat.zero_le 2⟩, hx.pins⟩

@[simp] theorem trip_kept {s : State} (hs : s.Kept W) (cause site reading : Nat) : (trip s cause site reading).Kept W := by
  unfold trip
  split <;> simp [↓State.kept_mk_pins, hs]

@[simp] theorem modSite_kept (s : State) (n : Nat) (f : Site → Site) : (modSite s n f).Kept W ↔ s.Kept W := by
  unfold modSite
  simp

@[simp] theorem raiseSite_kept (s : State) (n : Nat) (e : Ev) : (raiseSite s n e).Kept W ↔ s.Kept W := by
  unfold raiseSite
  split <;> simp

@[simp] theorem excludeSensor_kept (s : State) (n e : Nat) : (excludeSensor s n e).Kept W ↔ s.Kept W := by
  unfold excludeSensor
  dsimp only
  (repeat' split) <;> simp

@[simp] theorem sampleSite_kept {s : State} (hs : s.Kept W) (n a b : Nat) : (sampleSite s n a b).Kept W := by
  unfold sampleSite
  dsimp only
  (repeat' split) <;> simp [hs]

end
end Sys2Proof.Machine
end

section
/-!
What the lantern, the thermal rules, the registers, the commit, the rings and the lines that descriptors move keep of the two invariants.
-/
namespace Sys2Proof.Machine
section
variable {W : Watch}

@[simp] theorem execSensorExcluded_keptBy (site sens : Nat) {s : State} (hs : s.Kept W) : KeptBy W (execSensorExcluded site sens s) := by
  unfold execSensorExcluded
  split <;> simp [hs]

@[simp] theorem execBlindSiteAck_keptBy (site : Nat) {s : State} (hs : s.Kept W) : KeptBy W (execBlindSiteAck site s) := by
  unfold execBlindSiteAck
  rw [keptBy_next]
  split
  · split <;> simp [hs]
  · exact hs

@[simp] theorem execBlindSiteExpire_keptBy (site : Nat) {s : State} (hs : s.Kept W) : KeptBy W (execBlindSiteExpire site s) := by
  unfold execBlindSiteExpire
  refine onUnit_kept _ _ _ ?_
  (repeat' split) <;> simp (disch := simp +contextual [hs]) [hs]

@[simp] theorem execTripComparatorFire_keptBy (site : Nat) {s : State} (hs : s.Kept W) : KeptBy W (execTripComparatorFire site s) := by
  unfold execTripComparatorFire
  simp [hs]

@[simp] theorem execHbmCattrip_keptBy (st : Nat) {s : State} (hs : s.Kept W) : KeptBy W (execHbmCattrip st s) := by
  unfold execHbmCattrip
  simp [hs]

@[simp] theorem onceEv_kept (s : State) (key : Nat) (e : Ev) (p : Option Nat) : (onceEv s key e p).Kept W ↔ s.Kept W := by
  unfold onceEv
  dsimp only
  (repeat' split) <;> simp

@[simp] theorem updateLevel_kept (vin : List (Option (Nat × Nat))) (vinCalm : List Bool) (pkg : Option (Nat × Nat)) (pkgCalm : Bool) {s : State}
    (hs : s.Kept W) (p : Nat) : (updateLevel vin vinCalm pkg pkgCalm s p).Kept W := by
  unfold updateLevel
  extract_lets w q on mine exceeds calm lv s₁ s₂ s₃ e s₄ s₅
  have hs₁ : s₁.Kept W := by simp [s₁, hs]
  have hs₂ : s₂.Kept W := by simp [s₂, hs₁]
  clear_value s₁ s₂
  have hs₃ : s₃.Kept W := by
    unfold s₃
    split
    · split <;> simp [hs₂]
    · exact hs₁
  clear_value s₃ mine on
  have hs₄ : s₄.Kept W := by
    unfold s₄
    split <;> simp [hs₃]
  clear_value s₄
  have hs₅ : s₅.Kept W := by
    unfold s₅
    split <;> simp [hs₄]
  clear_value s₅
  split
  · exact hs
  · split
    · exact hs₁
    · split <;> simp [hs₅]

@[simp] theorem railCheck_kept (row i : Nat) (h : List Nat) (s : State) : (railCheck row i h s).Kept W ↔ s.Kept W := by
  unfold railCheck
  dsimp only
  (repeat' split) <;> simp

@[simp] theorem countAllLoss_kept (s : State) (t : Nat) : (countAllLoss s t).Kept W ↔ s.Kept W := by
  unfold countAllLoss
  exact foldl_kept_iff (fun s x => by simp) _

@[simp] theorem vinCheck_kept (s : State) (i : Nat) : (vinCheck s i).Kept W ↔ s.Kept W := by
  unfold vinCheck
  dsimp only
  (repeat' split) <;> simp

@[simp] theorem countHits_kept (s : State) (i : Nat) : (countHits s i).Kept W ↔ s.Kept W := by
  unfold countHits
  dsimp only
  (repeat' split) <;> simp

@[simp] theorem markReady_kept (s : State) : (markReady s).Kept W ↔ s.Kept W := by
  unfold markReady
  simp

/-- The judgements on the rails of the four spires. -/
theorem railChecks_kept {s : State} (hs : s.Kept W) : ((List.range 4).foldl (fun s i =>
    let w := spireAt s i
    (List.range 5).foldl (fun s r => railCheck (4 + r) i (w.railHist.getD r []) s) (railCheck 2 i w.edgeHist s)) s).Kept W :=
  foldl_kept (fun s i hs => foldl_kept (fun s r hs => by simp [hs]) _ (by simp [hs])) _ hs

@[simp] theorem execLanternSample_keptBy (x : Sample) {s : State} (hs : s.Kept W) : KeptBy W (execLanternSample x s) := by
  unfold execLanternSample
  split
  · simp [hs]
  · rw [keptBy_next]
    refine foldl_kept (fun s t hs => by split <;> simp [hs]) _ ((railCheck_kept ..).mpr (railChecks_kept ?_))
    refine foldl_kept (fun s p hs => by simp [hs]) _ (foldl_kept (fun s i hs => by simp [hs]) _ ?_)
    simp [hs]

@[simp] theorem trySwitch_kept (s : State) (p : Nat) : (trySwitch s p).Kept W ↔ s.Kept W := by
  unfold trySwitch
  dsimp only
  (repeat' split) <;> simp

@[simp] theorem stepTo_kept (n : Nat) (s : State) (p : Nat) : (stepTo n s p).Kept W ↔ s.Kept W := by
  unfold stepTo
  simp

@[simp] theorem execDroopStretchStart_keptBy (p : Nat) (readings : List Nat) {s : State} (hs : s.Kept W) :
    KeptBy W (execDroopStretchStart p readings s) := by
  unfold execDroopStretchStart
  split <;> simp [hs]

@[simp] theorem execDroopStretchEnd_keptBy (p : Nat) (readings : List Nat) (lost : Nat) {s : State} (hs : s.Kept W) :
    KeptBy W (execDroopStretchEnd p readings lost s) := by
  unfold execDroopStretchEnd
  dsimp only
  (repeat' split) <;> simp [hs]

@[simp] theorem execDvfsSetpointStep_keptBy (p : Nat) (readings : List Nat) {s : State} (hs : s.Kept W) :
    KeptBy W (execDvfsSetpointStep p readings s) := by
  unfold execDvfsSetpointStep
  dsimp only
  (repeat' split) <;> simp [hs]

@[simp] theorem execPhaseFail_keptBy (p phase : Nat) {s : State} (hs : s.Kept W) : KeptBy W (execPhaseFail p phase s) := by
  unfold execPhaseFail
  dsimp only
  (repeat' split) <;> simp [hs]

@[simp] theorem execVsramConverterFail_keptBy (p : Nat) {s : State} (hs : s.Kept W) : KeptBy W (execVsramConverterFail p s) := by
  unfold execVsramConverterFail
  simp [hs]

@[simp] theorem faultLive_kept (s : State) (code : Nat) : (faultLive s code).Kept W ↔ s.Kept W := by
  unfold faultLive
  exact foldl_kept_iff (fun s x => by split <;> simp) _

@[simp] theorem faultRunning_kept (s : State) (code : Nat) : (faultRunning s code).Kept W ↔ s.Kept W := by
  unfold faultRunning
  exact foldl_kept_iff (fun s x => by split <;> simp) _

@[simp] theorem execDieEdgePhaseFail_keptBy (i : Nat) {s : State} (hs : s.Kept W) : KeptBy W (execDieEdgePhaseFail i s) := by
  unfold execDieEdgePhaseFail
  refine onUnit_kept _ _ _ ?_
  dsimp only
  (repeat' split) <;> simp (disch := simp +contextual [hs]) [↓State.kept_mk_power, hs]

@[simp] theorem execVinWindowTrip_keptBy (i : Nat) {s : State} (hs : s.Kept W) : KeptBy W (execVinWindowTrip i s) := by
  refine onUnit_kept _ _ _ ?_
  split
  · exact hs
  · have hoff := powerOff_kept hs
    generalize powerOff s = s₁ at hoff ⊢
    exact ⟨hoff.regs, hoff.spindles, hoff.hbm, hoff.hif, hoff.keep, hoff.power, hoff.pins⟩

@[simp] theorem droopCompare_kept {s : State} (hs : s.Kept W) (p : Nat) (r : List Nat) : (droopCompare s p r).Kept W := by
  have hraise (xs : List Nat) (f : PosPower → PosPower) : (xs.foldl (fun s i => raiseAt s p (ev 0x603 i 0)) (modPw s p f)).Kept W :=
    foldl_kept (fun s i hs => by simp [hs]) _ (by simp [hs])
  unfold droopCompare
  dsimp only
  split
  · exact hs
  · split
    · exact goDark_kept (hraise _ _) _ _
    · exact hraise _ _

@[simp] theorem dropMeasure_kept (s : State) (p mv : Nat) : (dropMeasure s p mv).Kept W ↔ s.Kept W := by
  unfold dropMeasure
  dsimp only
  (repeat' split) <;> simp

@[simp] theorem hbmReadout_kept {s : State} (hs : s.Kept W) (h a b : Nat) : (hbmReadout s h a b).Kept W := by
  unfold hbmReadout
  simp [hs]

@[simp] theorem execBackgroundWindow_keptBy (b : Background) {s : State} (hs : s.Kept W) : KeptBy W (execBackgroundWindow b s) := by
  unfold execBackgroundWindow
  split
  · simp [hs]
  · rw [keptBy_next]
    refine foldl_kept (fun s t hs => by split <;> simp [hs]) _ ?_
    refine foldl_kept (fun s d hs => by split <;> simp [hs]) _ ?_
    exact foldl_kept (fun s d hs => by split <;> simp [hs]) _ hs

@[simp] theorem newHigh_kept (s : State) : (newHigh s).Kept W ↔ s.Kept W := by
  unfold newHigh
  refine foldl_kept_iff (fun s j => ?_) _
  dsimp only
  split
  · rfl
  · split <;> simp

@[simp] theorem logMargin_kept (s : State) (e : MarginEntry) (ok : Bool) : (logMargin s e ok).Kept W ↔ s.Kept W := by
  unfold logMargin
  split <;> simp

@[simp] theorem measureAge_kept (p ro0 ro1 : Nat) (ok : Bool) (s : State) : (measureAge p ro0 ro1 ok s).Kept W ↔ s.Kept W := by
  unfold measureAge
  dsimp only
  (repeat' split) <;> simp

@[simp] theorem execAgeingMeasurement_keptBy (p ro0 ro1 : Nat) (corr : Int × Int) {s : State} (hs : s.Kept W) (flashOk : Bool) :
    KeptBy W (execAgeingMeasurement p ro0 ro1 corr s flashOk) := by
  unfold execAgeingMeasurement
  dsimp only
  (repeat' split) <;> simp [hs]

@[simp] theorem requestWake_kept (s : State) (p : Nat) : (requestWake s p).Kept W ↔ s.Kept W := by
  unfold requestWake
  split <;> simp

@[simp] theorem execWakeRampStart_keptBy (p : Nat) {s : State} (hs : s.Kept W) : KeptBy W (execWakeRampStart p s) := by
  unfold execWakeRampStart
  dsimp only
  (repeat' split) <;> simp [hs]

@[simp] theorem switchOn_kept (s : State) (p t : Nat) : (switchOn s p t).Kept W ↔ s.Kept W := by
  unfold switchOn
  simp

@[simp] theorem execWakeRampStep_keptBy (p : Nat) (recovered : Bool) {s : State} (hs : s.Kept W) (readings : List (Nat × List Nat)) :
    KeptBy W (execWakeRampStep p recovered s readings) := by
  unfold execWakeRampStep
  dsimp only
  (repeat' split) <;> simp [hs]

@[simp] theorem execIdlePowerGate_keptBy (p : Nat) {s : State} (hs : s.Kept W) : KeptBy W (execIdlePowerGate p s) := by
  unfold execIdlePowerGate
  dsimp only
  (repeat' split) <;> simp [hs]

@[simp] theorem execFrameSkipEnd_closes (p : Nat) {F : ByteFrame} {s : State} (hs : (openPos s p).Keeps F) : Closes F s p (execFrameSkipEnd p s) := by
  unfold execFrameSkipEnd
  refine onPos_closes hs fun l hl => ?_
  (repeat' split) <;> simp (disch := simp +contextual [hs, hl]) [hl]

@[simp] theorem execFrameSkipEnd_keptBy (p : Nat) {s : State} (hs : s.Kept W) : KeptBy W (execFrameSkipEnd p s) :=
  (execFrameSkipEnd_closes p (openPos_keeps hs p)).keptBy hs

theorem foldl_spindleKeeps {α : Type} {F : ByteFrame} {f : Spindle → α → Spindle} (hf : ∀ sp a, (f sp a).Keeps F ↔ sp.Keeps F) (xs : List α)
    (sp : Spindle) : (xs.foldl f sp).Keeps F ↔ sp.Keeps F :=
  iff_of_eq (foldl_keeps (fun sp => sp.Keeps F) (fun sp a => propext (hf sp a)) xs sp)
@[simp] theorem Spindle.countBusy_keeps {F : ByteFrame} (sp : Spindle) (t : Nat) : (sp.countBusy t).Keeps F ↔ sp.Keeps F := by
  unfold Spindle.countBusy
  exact foldl_spindleKeeps (fun sp o => by split <;> simp) _ sp

@[simp] theorem clearRc_kept {s : State} (hs : s.Kept W) (o : Nat) : (clearRc s o).Kept W := by
  have hsp : (if o % 0x400 = 0x230 then runPos s ((o - 0x100000) / 0x400) fun l => l.bubblesSeen l.sp.clock.lc else s).Kept W := by
    split
    · exact runPos_kept hs _ fun l hl => by simp [hl]
    · exact hs
  have hclear (k : Nat) (sp : Spindle) : (clearSpn k sp).Keeps (ByteFrame.canon W.mem) ↔ sp.Keeps (ByteFrame.canon W.mem) := by
    unfold clearSpn
    (repeat' split) <;> simp
  unfold clearRc
  refine ite_kept hs (ite_kept (by simp [hs]) (ite_kept (by simp [hs]) (ite_kept hs (ite_kept (by simp [hs]) (ite_kept ?_ (ite_kept ?_ hs))))))
  · dsimp only
    split <;> exact hs
  · exact (modSp_kept_iff _ _ (hclear _)).mpr hsp

@[simp] theorem captureSync_kept (s : State) (p : Nat) : (captureSync s p).Kept W ↔ s.Kept W := by
  unfold captureSync
  simp

@[simp] theorem sendMsg_kept (s : State) (kind : Nat) (bs : List Byte) : (sendMsg s kind bs).Kept W ↔ s.Kept W := by
  unfold sendMsg
  simp

@[simp] theorem execRcRegisterRead_keptBy (off n : Nat) {s : State} (hs : s.Kept W) : KeptBy W (execRcRegisterRead off n s) := by
  unfold execRcRegisterRead
  dsimp only
  (repeat' split) <;> simp [hs]

@[simp] theorem execSyncErrCapture_keptBy (p : Nat) {s : State} (hs : s.Kept W) : KeptBy W (execSyncErrCapture p s) := by
  unfold execSyncErrCapture
  simp [hs]

@[simp] theorem askCommit_kept (s : State) (tag : Nat) : (askCommit s tag).Kept W ↔ s.Kept W := by
  unfold askCommit
  simp

@[simp] theorem flushMsix_kept (s : State) : (flushMsix s).Kept W ↔ s.Kept W := by
  unfold flushMsix
  exact foldl_kept_iff (fun s x => by simp) _

@[simp] theorem execCommitGo_keptBy (tag : Nat) {s : State} (hs : s.Kept W) : KeptBy W (execCommitGo tag s) := by
  unfold execCommitGo
  split <;> simp [hs]

/-- Values staged over others lie within the bits staged with them. -/
theorem stageIn_within {o mask v : Nat} (hv : v &&& mask = v) {l : List Staged} (hl : ∀ x ∈ l, x.value &&& x.mask = x.value) :
    ∀ x ∈ stageIn o mask v l, x.value &&& x.mask = x.value := by
  induction l with
  | nil => simpa [stageIn] using hv
  | cons y ys ih =>
    have hy := hl y List.mem_cons_self
    have hys : ∀ x ∈ ys, x.value &&& x.mask = x.value := fun x hx => hl x (List.mem_cons_of_mem y hx)
    rw [stageIn]
    split
    · exact List.forall_mem_cons.mpr ⟨hv, hl⟩
    · split
      · refine List.forall_mem_cons.mpr ⟨land_eq_left_iff_testBit.mpr fun i hi => ?_, hys⟩
        rw [testBit_overlay hv] at hi
        rw [Nat.testBit_or, Bool.or_eq_true]
        split at hi
        · next hm => exact .inr hm
        · exact .inl (land_eq_left_iff_testBit.mp hy i hi)
      · exact List.forall_mem_cons.mpr ⟨hy, ih hys⟩

theorem stageWrite_within (off n v : Nat) {l : List Staged} (hl : ∀ x ∈ l, x.value &&& x.mask = x.value) :
    ∀ x ∈ stageWrite off n v l, x.value &&& x.mask = x.value := by
  unfold stageWrite
  dsimp only
  split
  · exact hl
  · exact stageIn_within (by rw [Nat.and_assoc, Nat.and_self]) hl

@[simp] theorem execRegisterWrite_keptBy (off n v : Nat) {s : State} (hs : s.Kept W) : KeptBy W (execRegisterWrite off n v s) := by
  have hmsix : State.Kept W { s with hif := { s.hif with msix := memWrite s.hif.msix (off - 0x408000) (leBytes n v) } } :=
    hs.withHif fun hm => ⟨(hs.hif hm).1, Memory.wf_memWrite (hs.hif hm).2 _ _⟩
  have hstage : State.Kept W { s with regs := { s.regs with staged := stageWrite off n v s.regs.staged } } :=
    hs.withRegs fun hc => ⟨(hs.regs hc).1, stageWrite_within off n v (hs.regs hc).2⟩
  unfold execRegisterWrite
  split
  · split
    · split <;> simp [hs]
    · split
      · simp [hs]
      · split
        · exact (keptBy_next _).mpr ((flushMsix_kept _).mpr hmsix)
        · split
          · simp [hs]
          · split
            · exact (keptBy_next _).mpr hstage
            · simp [hs]
  · simp [hs]

@[simp] theorem measure_kept (s : State) (i : Nat) (d : BitVec 512) : (measure s i d).Kept W ↔ s.Kept W := by
  unfold measure
  simp

@[simp] theorem measureMap_kept (s : State) : (measureMap s).Kept W ↔ s.Kept W := by
  unfold measureMap
  simp

@[simp] theorem dropSq_kept (s : State) (r : Nat) : (dropSq s r).Kept W ↔ s.Kept W := by
  unfold dropSq
  simp

@[simp] theorem modCq_kept (s : State) (j : Nat) (f : CqRing → CqRing) : (modCq s j f).Kept W ↔ s.Kept W := by
  unfold modCq
  simp

@[simp] theorem holdEntry_kept (s : State) (j : Nat) (e : Entry) : (holdEntry s j e).Kept W ↔ s.Kept W := by
  unfold holdEntry
  dsimp only
  (repeat' split) <;> simp

@[simp] theorem dropCq_kept (s : State) (j : Nat) : (dropCq s j).Kept W ↔ s.Kept W := by
  unfold dropCq
  exact foldl_kept_iff (fun s x => by simp) _

@[simp] theorem wakeSets_kept (s : State) : (wakeSets s).Kept W ↔ s.Kept W := by
  unfold wakeSets
  exact foldl_kept_iff (fun s j => foldl_kept_iff (fun s n => requestWake_kept s _) _) _

@[simp] theorem applyMap_kept (s : State) (l : List Staged) : (applyMap s l).Kept W ↔ s.Kept W := by
  unfold applyMap
  dsimp only
  (repeat' split) <;> simp

@[simp] theorem applyReg_kept {s : State} (hs : s.Kept W) (l : List Staged) (o : Nat) : (applyReg s l o).Kept W := by
  unfold applyReg
  extract_lets v old s₁ k s₂ pw q w
  have hs₁ : s₁.Kept W := by simp [s₁, hs]
  have hs₂ : s₂.Kept W := by simp [s₂, hs]
  clear_value s₁ s₂
  refine ite_kept hs (ite_kept (ite_kept ((setSt_kept ..).mpr hs) ?_) (ite_kept hs₂ (ite_kept (ite_kept (by simp [hs₂]) hs₂)
    (ite_kept (ite_kept (by simp [hs₂]) hs₂) (ite_kept (ite_kept (by simp [hs₂]) hs₂) (ite_kept (ite_kept hs₂ (ite_kept hs₂ (by simp [hs₂])))
    (ite_kept (ite_kept hs₂ (by simp [hs₂])) (ite_kept ?_ hs₂))))))))
  · exact hs₁.withKeep fun hc => ⟨(hs₁.keep hc).1, (hs₁.keep hc).2.1, Nat.le_add_left 1 2⟩
  · exact foldl_kept (fun s b hs => ite_kept (by simp [hs]) hs) _ hs₂

@[simp] theorem clampScale_kept (s : State) (j : Nat) : (clampScale s j).Kept W ↔ s.Kept W := by
  unfold clampScale
  simp

@[simp] theorem applySnap_kept {s : State} (hs : s.Kept W) (l : List Staged) : (applySnap s l).Kept W :=
  foldl_kept (fun _ o hs => applyReg_kept hs l o) _ ((applyMap_kept s l).mpr hs)

@[simp] theorem noteCommit_kept {s : State} (hs : s.Kept W) (code tag field : Nat) {result : Nat} (hresult : result ≤ 3) :
    (noteCommit s code result tag field).Kept W :=
  (raiseDev_kept _ _).mpr (hs.withRegs fun hc => ⟨hresult, (hs.regs hc).2⟩)

/-- A refusal is of kind 2 or 3 (Table 19.8). -/
theorem refusal_le {s : State} {l : List Staged} {r : Nat × Nat} (h : refusal s l = some r) : r.1 ≤ 3 := by
  unfold refusal at h
  dsimp only at h
  split at h
  · cases h; exact Nat.le_succ 2
  · split at h
    · cases h; exact Nat.le_succ 2
    · obtain ⟨o, -, rfl⟩ := Option.map_eq_some_iff.mp h
      exact Nat.le_refl 3

@[simp] theorem decideCommit_kept {s : State} (hs : s.Kept W) (mismatch : Nat) : (decideCommit s mismatch).Kept W := by
  unfold decideCommit
  split
  · exact hs
  · extract_lets r s₁
    have hs₁ : s₁.Kept W := hs
    clear_value s₁
    split
    · simp [hs₁]
    · next r o hr => exact noteCommit_kept hs₁ _ _ _ (refusal_le hr)

@[simp] theorem takeSnap_kept {s : State} (hs : s.Kept W) : (takeSnap s).Kept W := by
  unfold takeSnap
  split
  · exact hs
  · exact hs.withRegs fun hc => ⟨(hs.regs hc).1, fun x hx => nomatch hx⟩

@[simp] theorem bellCommit_kept {s : State} (hs : s.Kept W) : (bellCommit s).Kept W := by
  unfold bellCommit
  simp [hs]

@[simp] theorem modSq_kept (s : State) (r : Nat) (f : SqRing → SqRing) : (modSq s r f).Kept W ↔ s.Kept W := by
  unfold modSq
  simp

@[simp] theorem wakeLight_kept (s : State) : (wakeLight s).Kept W ↔ s.Kept W := by
  unfold wakeLight
  split <;> simp

@[simp] theorem execDoorbellSq_keptBy (r v : Nat) {s : State} (hs : s.Kept W) : KeptBy W (execDoorbellSq r v s) := by
  unfold execDoorbellSq
  dsimp only
  (repeat' split) <;> simp [hs]

@[simp] theorem headBell_kept (j d v : Nat) (s : State) : (headBell j d v s).Kept W ↔ s.Kept W := by
  unfold headBell
  dsimp only
  (repeat' split) <;> simp

@[simp] theorem execDoorbellCq_keptBy (j v : Nat) {s : State} (hs : s.Kept W) : KeptBy W (execDoorbellCq j v s) := by
  unfold execDoorbellCq
  simp [hs]

@[simp] theorem execDoorbellDeq_keptBy (v : Nat) {s : State} (hs : s.Kept W) : KeptBy W (execDoorbellDeq v s) := by
  unfold execDoorbellDeq
  simp [hs]

@[simp] theorem fetchOne_kept (s : State) (r : Nat) (err recErr : Bool) : (fetchOne s r err recErr).Kept W ↔ s.Kept W := by
  unfold fetchOne
  dsimp only
  (repeat' split) <;> simp

@[simp] theorem execDescriptorFetch_keptBy (err : Bool) {s : State} (hs : s.Kept W) (recErr : Bool) :
    KeptBy W (execDescriptorFetch err s recErr) := by
  unfold execDescriptorFetch
  rw [keptBy_next]
  split
  · split <;> simp [hs]
  · exact hs

@[simp] theorem putSlot_kept {s : State} (hs : s.Kept W) (e : Entry) : (putSlot s e).Kept W := by
  unfold putSlot
  split <;> simp [hs]

@[simp] theorem putEntry_kept {s : State} (hs : s.Kept W) (j : Nat) (e : Entry) : (putEntry s j e).Kept W := by
  unfold putEntry
  simp [hs]

@[simp] theorem drainHeld_kept (es : List Entry) (j : Nat) {s : State} (hs : s.Kept W) : (drainHeld es j s).Kept W := by
  induction es generalizing s with
  | nil => exact hs
  | cons e es ih =>
    rw [drainHeld]
    split
    · exact ih (by simp [hs])
    · exact hs

@[simp] theorem placeEntry_kept {s : State} (hs : s.Kept W) (e : Entry) : (placeEntry s e).Kept W := by
  unfold placeEntry
  dsimp only
  (repeat' split) <;> simp [hs]

@[simp] theorem sendVector_kept (s : State) (j : Nat) : (sendVector s j).Kept W ↔ s.Kept W := by
  unfold sendVector
  split <;> simp

@[simp] theorem execEntryWrite_keptBy {s : State} (hs : s.Kept W) : KeptBy W (execEntryWrite s) := by
  unfold execEntryWrite
  rw [keptBy_next]
  split
  · refine foldl_kept (fun s j hs => by split <;> simp [hs]) _ ?_
    refine foldl_kept (fun s e hs => by simp [hs]) _ ?_
    exact foldl_kept (fun s j hs => by simp [hs]) _ hs
  · exact hs

@[simp] theorem lineIn_kept {s : State} (hs : s.Kept W) (key a : Nat) : (lineIn s key a).2.Kept W := by
  unfold lineIn
  split <;> simp [hs]

@[simp] theorem lineOut_kept {s : State} (hs : s.Kept W) (key a : Nat) (x : Line) : (lineOut s key a x).Kept W := by
  unfold lineOut
  dsimp only
  (repeat' split) <;> simp +contextual [hs]

@[simp] theorem moveLines_kept (key src dst n : Nat) {s : State} (hs : s.Kept W) : (moveLines key src dst n s).Kept W := by
  induction n generalizing src dst s with
  | zero => exact hs
  | succ n ih => exact ih _ _ (lineOut_kept (lineIn_kept hs key src) _ _ _)

@[simp] theorem readLines_kept (key a n : Nat) {s : State} (hs : s.Kept W) : (readLines key a n s).2.Kept W := by
  induction n generalizing a s with
  | zero => exact hs
  | succ n ih => exact ih _ (lineIn_kept hs key a)

@[simp] theorem writeLines_kept (key f a : Nat) (bs : List Byte) {s : State} (hs : s.Kept W) : (writeLines key f a bs s).Kept W := by
  induction f generalizing a bs s with
  | zero => exact hs
  | succ f ih =>
    rw [writeLines.eq_def]
    dsimp only
    split
    · exact hs
    · exact ih _ _ (lineOut_kept hs _ _ _)

@[simp] theorem writeAll_kept {s : State} (hs : s.Kept W) (key a : Nat) (bs : List Byte) : (writeAll s key a bs).Kept W := by
  unfold writeAll
  simp [hs]

@[simp] theorem setDesc_kept (s : State) (d x : Desc) : (setDesc s d x).Kept W ↔ s.Kept W := by
  unfold setDesc
  split <;> simp

@[simp] theorem askReceipt_kept (s : State) (q : RcptReq) : (askReceipt s q).Kept W ↔ s.Kept W := by
  unfold askReceipt
  split <;> simp

@[simp] theorem requestReceipt_kept (s : State) (g : List Desc) : (requestReceipt s g).Kept W ↔ s.Kept W := by
  unfold requestReceipt
  dsimp only
  (repeat' split) <;> simp

@[simp] theorem settle_kept (s : State) (r : Nat) : (settle s r).Kept W ↔ s.Kept W := by
  unfold settle
  exact foldl_kept_iff (fun s x => by simp) _

@[simp] theorem complete_kept (s : State) (d : Desc) (status : Nat) : (complete s d status).Kept W ↔ s.Kept W := by
  unfold complete
  split <;> simp

@[simp] theorem finishAt_kept (s : State) (d : Desc) (status : Nat) : (finishAt s d status).Kept W ↔ s.Kept W := by
  unfold finishAt
  simp

@[simp] theorem refuse_kept (s : State) (d : Desc) : (refuse s d).Kept W ↔ s.Kept W := by
  unfold refuse
  refine (foldl_kept_iff (fun s x => complete_kept s x 1) _).trans ?_
  simp

@[simp] theorem accept_kept (s : State) (d : Desc) : (accept s d).Kept W ↔ s.Kept W := by
  unfold accept
  dsimp only
  (repeat' split) <;> simp

@[simp] theorem acceptAll_kept {s : State} (hs : s.Kept W) : (acceptAll s).Kept W := by
  unfold acceptAll
  exact foldl_kept (fun s r hs => foldl_kept (fun s d hs => by simp [hs]) _ hs) _ hs

end
end Sys2Proof.Machine
end

section
/-!
What descriptors, jobs, checkpoints, the refill, the power control and the bell keep of the two invariants.
-/
namespace Sys2Proof.Machine
section
variable {W : Watch}

/-- Of the canonical memories only a distaff's bytes decide. -/
theorem Spindle.canon_congr {m : Prop} {sp sp' : Spindle} (h : sp'.distaff.mem = sp.distaff.mem) :
    sp'.Keeps (ByteFrame.canon m) ↔ sp.Keeps (ByteFrame.canon m) :=
  (ByteFrame.canon_holds (es := sp'.pend)).trans (h ▸ ByteFrame.canon_holds.symm)

/-- Every distaff is changed but for its bytes. -/
theorem State.Kept.mapSpindles {s : State} (hs : s.Kept W) {f : Spindle × Nat → Spindle} (hf : ∀ x, (f x).distaff.mem = x.1.distaff.mem) :
    DistaffsKept W (s.spindles.zipIdx.map f) := by
  intro sp hsp
  obtain ⟨x, hx, rfl⟩ := List.mem_map.mp hsp
  exact (Spindle.canon_congr (hf x)).mpr (hs.spindles x.1 (List.fst_mem_of_mem_zipIdx hx))

@[simp] theorem onStart_keptBy {s : State} (hs : s.Kept W) (r op : Nat) {f : State → Desc → State} (hf : ∀ d, (f s d).Kept W) :
    KeptBy W (onStart s r op f) := by
  refine onUnit_kept _ _ _ ?_
  split
  · exact hf _
  · exact hs

@[simp] theorem jobReceipt_kept (s : State) (j kind : Nat) (stopped : Bool) : (jobReceipt s j kind stopped).Kept W ↔ s.Kept W := by
  unfold jobReceipt
  simp

@[simp] theorem statEntry_kept (s : State) (j : Nat) : (statEntry s j).Kept W ↔ s.Kept W := by
  unfold statEntry
  simp

@[simp] theorem execStatisticsEntry_keptBy (j : Nat) {s : State} (hs : s.Kept W) : KeptBy W (execStatisticsEntry j s) := by
  unfold execStatisticsEntry
  split <;> simp [hs]

@[simp] theorem dropWaits_kept {s : State} (hs : s.Kept W) (j : Nat) : (dropWaits s j).Kept W :=
  hs.withSpindles (hs.spindles.map fun _ hsp => hsp)

@[simp] theorem abandonXfers_kept {s : State} (hs : s.Kept W) (j : Nat) : (abandonXfers s j).Kept W := by
  unfold abandonXfers
  exact foldl_kept (fun s x hs => by simp [hs]) _ hs

@[simp] theorem releasePorts_kept (s : State) (j : Nat) : (releasePorts s j).Kept W ↔ s.Kept W := by
  unfold releasePorts
  simp

@[simp] theorem dropRepairs_kept (s : State) (j : Nat) : (dropRepairs s j).Kept W ↔ s.Kept W := by
  unfold dropRepairs
  simp

@[simp] theorem endJob_kept {s : State} (hs : s.Kept W) (j : Nat) (stopped : Bool) : (endJob s j stopped).Kept W := by
  unfold endJob
  extract_lets s₁ s₂ rest s₃ s₄ s₅ s₆
  have hs₁ : s₁.Kept W := dropWaits_kept hs j
  clear_value s₁
  have hs₂ : s₂.Kept W := by
    unfold s₂
    split <;> simp [hs₁]
  clear_value s₂
  have hs₃ : s₃.Kept W := foldl_kept (fun s d hs => by simp [hs]) rest hs₂
  clear_value s₃
  have hs₅ : s₅.Kept W := (jobReceipt_kept ..).mpr ((dropRepairs_kept _ _).mpr (abandonXfers_kept ((releasePorts_kept _ _).mpr hs₃) j))
  clear_value s₅
  have hs₆ : s₆.Kept W := by
    unfold s₆
    split <;> simp [hs₅]
  exact (modJob_kept _ _ _).mpr hs₆

@[simp] theorem execNop_keptBy (r : Nat) {s : State} (hs : s.Kept W) : KeptBy W (execNop r s) := by
  unfold execNop
  simp [hs]

@[simp] theorem execJobStop_keptBy (r : Nat) {s : State} (hs : s.Kept W) : KeptBy W (execJobStop r s) := by
  unfold execJobStop
  refine onUnit_kept _ _ _ ?_
  dsimp only
  (repeat' split) <;> simp (disch := simp +contextual [hs]) [hs]

@[simp] theorem linesIn_kept (key a n : Nat) {s : State} (hs : s.Kept W) : (linesIn key a n s).2.Kept W := by
  induction n generalizing a s with
  | zero => exact hs
  | succ n ih => exact ih _ (lineIn_kept hs key a)

@[simp] theorem linesOut_kept (key a : Nat) (ls : List Line) {s : State} (hs : s.Kept W) : (linesOut key a ls s).Kept W := by
  unfold linesOut
  exact foldl_kept (fun s x hs => by simp [hs]) _ hs

@[simp] theorem copyAll_kept {s : State} (hs : s.Kept W) (d : Desc) : (copyAll s d).Kept W := by
  unfold copyAll
  dsimp only
  split
  · exact foldl_kept (fun s i hs => by simp [hs]) _ (by simp [hs])
  · exact foldl_kept (fun s i hs => by simp [hs]) _ hs

@[simp] theorem execCopy_keptBy (r : Nat) {s : State} (hs : s.Kept W) : KeptBy W (execCopy r s) := by
  unfold execCopy
  refine onUnit_kept _ _ _ ?_
  dsimp only
  (repeat' split) <;> simp (disch := simp +contextual [hs]) [hs]

@[simp] theorem execSnapshot_keptBy (r : Nat) {s : State} (hs : s.Kept W) : KeptBy W (execSnapshot r s) := by
  unfold execSnapshot
  refine onUnit_kept _ _ _ ?_
  dsimp only
  (repeat' split) <;> simp (disch := simp +contextual [hs]) [hs]

@[simp] theorem takeShots_kept (s : State) : (takeShots s).Kept W ↔ s.Kept W := by
  unfold takeShots
  simp

@[simp] theorem snapLine_kept (s : State) (j a : Nat) (x : Line) : (snapLine s j a x).2.Kept W ↔ s.Kept W := by
  unfold snapLine
  split <;> simp

@[simp] theorem snapLines_kept (key j src dst n : Nat) {s : State} (hs : s.Kept W) : (snapLines key j src dst n s).Kept W := by
  induction n generalizing src dst s with
  | zero => exact hs
  | succ n ih => exact ih _ _ (lineOut_kept ((snapLine_kept ..).mpr (lineIn_kept hs key src)) _ _ _)

@[simp] theorem takeOne_kept {s : State} (hs : s.Kept W) (d : Desc) : (takeOne s d).Kept W := by
  unfold takeOne
  split
  · simp [hs]
  · exact (finishAt_kept ..).mpr (foldl_kept (fun s i hs => by simp [hs]) _ hs)

@[simp] theorem execSnapshotTake_keptBy (j : Nat) {s : State} (hs : s.Kept W) : KeptBy W (execSnapshotTake j s) := by
  refine onUnit_kept _ _ _ ?_
  split
  · exact hs
  · exact foldl_kept (fun s d hs => by simp [hs]) _ hs

@[simp] theorem primeSpindle_kept {s : State} (hs : s.Kept W) (j n : Nat) (bs : List Byte) : (primeSpindle s j n bs).1.Kept W := by
  unfold primeSpindle
  extract_lets p a ranges l h m es bad evs l₂ s₂
  have hl : l.Keeps (ByteFrame.canon W.mem) := by simp [l, hs]
  clear_value l h es
  have hl₂ : l₂.Keeps (ByteFrame.canon W.mem) := (Spindle.canon_congr rfl).mpr hl
  exact (modJob_kept _ _ _).mpr (closePos_kept hs p hl₂)

@[simp] theorem primeAll_kept {s : State} (hs : s.Kept W) (j : Nat) (bs : List Byte) : (primeAll s j bs).1.Kept W := by
  unfold primeAll
  refine foldl_fst_kept (fun x n hx => ?_) _ hs
  exact primeSpindle_kept hx j n bs

@[simp] theorem refuseStart_kept (s : State) (d : Desc) (reason : Nat) : (refuseStart s d reason).Kept W ↔ s.Kept W := by
  unfold refuseStart
  simp

@[simp] theorem setPower_kept (s : State) (j : Nat) (bs : List Byte) : (setPower s j bs).Kept W ↔ s.Kept W := by
  unfold setPower
  simp

@[simp] theorem setHigh_kept (s : State) (j : Nat) : (setHigh s j).Kept W ↔ s.Kept W := by
  unfold setHigh
  simp

@[simp] theorem execJobStart_keptBy (r : Nat) {s : State} (hs : s.Kept W) : KeptBy W (execJobStart r s) := by
  unfold execJobStart
  refine onUnit_kept _ _ _ ?_
  dsimp only
  (repeat' split) <;> simp (disch := simp +contextual [hs]) [hs]

@[simp] theorem failStart_kept (s : State) (j : Nat) : (failStart s j).Kept W ↔ s.Kept W := by
  unfold failStart
  split <;> simp

theorem shiftTimes_mem (n : Nat) (sp : Spindle) : (shiftTimes n sp).distaff.mem = sp.distaff.mem := by
  unfold shiftTimes
  split <;> rfl

@[simp] theorem startFlow_kept {s : State} (hs : s.Kept W) (j : Nat) : (startFlow s j).Kept W := by
  unfold startFlow
  extract_lets f gone by_ line own refetched
  have hrefetched (sp old : Spindle) : (refetched sp old).distaff.mem = sp.distaff.mem := rfl
  have hsps := hs.mapSpindles (f := fun x => if by_ x.2 = 0 then x.1 else refetched (shiftTimes (by_ x.2) x.1) x.1) fun x => by
    split
    · rfl
    · exact (hrefetched _ _).trans (shiftTimes_mem _ _)
  exact (hs.withHbm (x := { s.hbm with waiting := s.hbm.waiting ++ f.waiting.map line, granted := s.hbm.granted ++ f.granted.map line })
    hs.hbm).withSpindles hsps

@[simp] theorem beginJob_kept {s : State} (hs : s.Kept W) (j : Nat) : (beginJob s j).Kept W := by
  unfold beginJob
  split <;> simp [hs]

@[simp] theorem reenter_kept {s : State} (hs : s.Kept W) (j : Nat) : (reenter s j).Kept W := by
  unfold reenter
  simp [hs]

@[simp] theorem execCheckpoint_keptBy (r : Nat) {s : State} (hs : s.Kept W) : KeptBy W (execCheckpoint r s) := by
  unfold execCheckpoint
  refine onUnit_kept _ _ _ ?_
  dsimp only
  (repeat' split) <;> simp (disch := simp +contextual [hs]) [hs]

@[simp] theorem execCheckpointTake_keptBy (j : Nat) {s : State} (hs : s.Kept W) : KeptBy W (execCheckpointTake j s) := by
  unfold execCheckpointTake
  split <;> simp [hs]

@[simp] theorem writeSection_kept {s : State} (hs : s.Kept W) (key area k n : Nat) : (writeSection s key area k n).Kept W := by
  unfold writeSection
  simp [hs]

@[simp] theorem writeCellars_kept (key : Nat) (ns : List Nat) (a : Nat) {s : State} (hs : s.Kept W) : (writeCellars key ns a s).Kept W := by
  induction ns generalizing a s with
  | nil => exact hs
  | cons n ns ih => exact ih _ (by simp [hs])

@[simp] theorem writeImage_kept {s : State} (hs : s.Kept W) (j : Nat) (c : Ckpt) : (writeImage s j c).Kept W := by
  unfold writeImage
  refine (jobReceipt_kept ..).mpr ((modJob_kept ..).mpr (writeCellars_kept _ _ _ ?_))
  exact foldl_kept (fun s x hs => by simp [hs]) _ hs

@[simp] theorem writeImages_kept {s : State} (hs : s.Kept W) : (writeImages s).Kept W := by
  unfold writeImages
  refine foldl_kept (fun s j hs => ?_) _ hs
  split
  · split <;> simp [hs]
  · exact hs

@[simp] theorem writeHeader_kept {s : State} (hs : s.Kept W) (j counter : Nat) (rdigest : BitVec 512) : (writeHeader s j counter rdigest).Kept W := by
  unfold writeHeader
  dsimp only
  (repeat' split) <;> simp [hs]

@[simp] theorem ckptDone_kept (s : State) (d : Desc) (status : Nat) : (ckptDone s d status).Kept W ↔ s.Kept W := by
  unfold ckptDone
  split <;> simp

@[simp] theorem finishDescs_kept (s : State) : (finishDescs s).Kept W ↔ s.Kept W := by
  unfold finishDescs
  exact foldl_kept_iff (fun s x => by simp) _

/-- A counter value is taken from below the bound, or from what a reservation adds (R438). -/
@[simp] theorem takeCounter_kept {s : State} (hs : s.Kept W) (ok : Bool) : (takeCounter s ok).2.Kept W := by
  unfold takeCounter
  dsimp only
  split
  · next hnext =>
    split
    · refine hs.withKeep fun hc => ⟨?_, (hs.keep hc).2⟩
      change s.keep.next + 1 ≤ s.keep.bound + 65536
      omega
    · have hraise : (raiseDev s (ev 0x807 ringBase (ringOff s.keep))).Kept W := (raiseDev_kept _ _).mpr hs
      refine hraise.withKeep fun hc => ⟨?_, (hs.keep hc).2⟩
      change s.keep.next + 1 ≤ s.keep.bound + 65536
      omega
  · next hnext =>
    refine hs.withKeep fun hc => ⟨?_, (hs.keep hc).2⟩
    have hle := (hs.keep hc).1
    change s.keep.next + 1 ≤ s.keep.bound
    omega

@[simp] theorem signReceipt_kept {s : State} (hs : s.Kept W) (q : RcptReq) (ok : Bool) : (signReceipt s q ok).Kept W := by
  unfold signReceipt
  dsimp only
  (repeat' split) <;> simp [hs]

@[simp] theorem execReceiptSign_keptBy {s : State} (hs : s.Kept W) (flashOk : Bool) : KeptBy W (execReceiptSign s flashOk) := by
  unfold execReceiptSign
  dsimp only
  (repeat' split) <;> simp [hs]

theorem reloadSpindle_mem (x : Spindle) (full : List Nat) (cur : Spindle) : (reloadSpindle x full cur).distaff.mem = cur.distaff.mem := rfl

@[simp] theorem readSection_kept {s : State} (hs : s.Kept W) (key area k n : Nat) (x : Spindle) : (readSection s key area k n x).Kept W := by
  unfold readSection
  exact modSp_kept (by simp [hs]) _ fun sp hsp => (Spindle.canon_congr (reloadSpindle_mem _ _ _)).mpr hsp

@[simp] theorem readCellars_kept (key : Nat) (ns : List Nat) (a : Nat) {s : State} (hs : s.Kept W) : (readCellars key ns a s).Kept W := by
  induction ns generalizing a s with
  | nil => exact hs
  | cons n ns ih => exact ih _ (by simp [hs])

@[simp] theorem loadImage_kept {s : State} (hs : s.Kept W) (j : Nat) (d : Desc) (h : List Byte) (dg : BitVec 512) : (loadImage s j d h dg).Kept W := by
  unfold loadImage
  refine (modJob_kept ..).mpr (foldl_kept (fun s x hs => by split <;> simp [hs]) _ (readCellars_kept _ _ _ ?_))
  exact foldl_kept (fun s x hs => by simp [hs]) _ hs

@[simp] theorem restoreHeader_kept {s : State} (hs : s.Kept W) (d : Desc) : (restoreHeader s d).2.Kept W := by
  unfold restoreHeader
  simp [hs]

@[simp] theorem execRestore_keptBy (r : Nat) {s : State} (hs : s.Kept W) : KeptBy W (execRestore r s) := by
  unfold execRestore
  refine onUnit_kept _ _ _ ?_
  dsimp only
  (repeat' split) <;> simp (disch := simp +contextual [hs]) [hs]

@[simp] theorem refillMirrors_kept (m : List Byte) (n : Nat) {s : State} (hs : s.Kept W) : (refillMirrors m n s).Kept W := by
  unfold refillMirrors
  exact foldl_kept (fun s x hs => by simp [hs]) _ hs

@[simp] theorem refillImage_kept (m : List Byte) (base n f i : Nat) {s : State} (hs : s.Kept W) : (refillImage m base n f i s).1.Kept W := by
  induction f generalizing i s with
  | zero => exact hs
  | succ f ih =>
    rw [refillImage]
    split
    · exact ih _ hs
    · dsimp only
      split
      · simp [hs]
      · exact ih _ (lineOut_kept (lineIn_kept hs 8 _) _ _ _)

@[simp] theorem refilled_kept (s : State) (j n : Nat) : (refilled s j n).Kept W ↔ s.Kept W := by
  unfold refilled
  simp

@[simp] theorem execRefill_keptBy {s : State} (hs : s.Kept W) : KeptBy W (execRefill s) := by
  have hempty (p : Nat) : (modSp s p fun sp => { sp with distaff := { Distaff.reset with scrub := sp.distaff.scrub } }).Kept W :=
    modSp_kept hs p fun sp _ => ByteFrame.canon_holds_nil _ _
  have hmirrors (m : List Byte) (n p : Nat) := refillMirrors_kept m n (hempty p)
  unfold execRefill
  rw [keptBy_next]
  split
  · dsimp only
    refine ite_kept hs (ite_kept (by simp [hmirrors]) (ite_kept ?_ ?_))
    · exact (refilled_kept ..).mpr (refillImage_kept _ _ _ _ _ (hmirrors _ _ _))
    · exact (abandonRepair_kept ..).mpr (refillImage_kept _ _ _ _ _ (hmirrors _ _ _))
  · exact hs

@[simp] theorem cxlServe_kept {s : State} (hs : s.Kept W) (off n : Nat) (data : Option (List Byte)) : (cxlServe s off n data).Kept W := by
  unfold cxlServe
  split <;> simp [hs]

@[simp] theorem cxlTake_kept {s : State} (hs : s.Kept W) (off n : Nat) (data : Option (List Byte)) : (cxlTake s off n data).Kept W := by
  unfold cxlTake
  dsimp only
  (repeat' split) <;> simp [hs]

@[simp] theorem serveCxl_kept {s : State} (hs : s.Kept W) : (serveCxl s).Kept W := by
  unfold serveCxl
  exact foldl_kept (fun s x hs => by simp [hs]) _ hs

@[simp] theorem execHostCxlMemRead_keptBy (off n : Nat) {s : State} (hs : s.Kept W) : KeptBy W (execHostCxlMemRead off n s) := by
  unfold execHostCxlMemRead
  simp [hs]

@[simp] theorem execHostCxlMemWrite_keptBy (off : Nat) (data : List Byte) {s : State} (hs : s.Kept W) :
    KeptBy W (execHostCxlMemWrite off data s) := by
  unfold execHostCxlMemWrite
  simp [hs]

@[simp] theorem clearMeters_kept (s : State) : (clearMeters s).Kept W ↔ s.Kept W := by
  unfold clearMeters
  simp

@[simp] theorem chargeBell_kept (s : State) (d : Nat) : (chargeBell s d).1.Kept W ↔ s.Kept W := by
  unfold chargeBell
  split <;> simp

@[simp] theorem learn_kept (s : State) (d : Nat) (es : List (List Nat)) (j : Nat) : (learn s d es j).Kept W ↔ s.Kept W := by
  unfold learn
  dsimp only
  (repeat' split) <;> simp

@[simp] theorem recordPace_kept (s : State) (j : Nat) : (recordPace s j).Kept W ↔ s.Kept W := by
  unfold recordPace
  simp

@[simp] theorem rebalance_kept (s : State) (j : Nat) : (rebalance s j).Kept W ↔ s.Kept W := by
  unfold rebalance
  dsimp only
  (repeat' split) <;> simp

@[simp] theorem recordOwn_kept (s : State) (j : Nat) : (recordOwn s j).Kept W ↔ s.Kept W := by
  unfold recordOwn
  dsimp only
  (repeat' split) <;> simp

@[simp] theorem paceOut_kept (s : State) (q : Nat) : (paceOut s q).Kept W ↔ s.Kept W := by
  unfold paceOut
  simp

@[simp] theorem idleRatios_kept {s : State} (hs : s.Kept W) : (idleRatios s).Kept W := by
  unfold idleRatios
  refine foldl_kept (fun s p hs => ?_) _ hs
  split
  · simp [hs]
  · split <;> simp [hs]

@[simp] theorem clearRises_kept (s : State) : (clearRises s).Kept W ↔ s.Kept W := by
  unfold clearRises
  simp

@[simp] theorem chooseRatios_kept {s : State} (hs : s.Kept W) : (chooseRatios s).Kept W := by
  unfold chooseRatios
  refine foldl_kept (fun s q hs => by simp [hs]) _ (idleRatios_kept ((clearRises_kept _).mpr ?_))
  exact foldl_kept (fun s x hs => foldl_kept (fun s p hs => by simp [hs]) _ (by simp [hs])) _ hs

@[simp] theorem settleRatios_kept {s : State} (hs : s.Kept W) : (settleRatios s).Kept W := by
  unfold settleRatios
  split <;> simp [hs]

@[simp] theorem execRebalance_keptBy (j : Nat) {s : State} (hs : s.Kept W) : KeptBy W (execRebalance j s) := by
  unfold execRebalance
  split <;> simp [hs]

@[simp] theorem recordStretch_kept {s : State} (hs : s.Kept W) (t dt : Nat) : (recordStretch s t dt).Kept W := by
  unfold recordStretch
  refine foldl_kept (fun s p hs => by simp [hs]) _ ?_
  exact ⟨hs.regs, hs.mapSpindles fun x => shiftTimes_mem _ _, hs.hbm, hs.hif, hs.keep, hs.power, hs.pins⟩

@[simp] theorem settleLoss_kept (b : BellIn) (t : Nat) (s : State) : (settleLoss b t s).Kept W ↔ s.Kept W := by
  unfold settleLoss
  exact (foldl_kept_iff (fun s x => by split <;> simp) _).trans (countAllLoss_kept s t)

@[simp] theorem endWaits_kept (dt : Nat) {s : State} (hs : s.Kept W) (p : Nat) : (endWaits dt s p).Kept W := by
  unfold endWaits
  split
  · exact runPos_kept hs p fun l hl => Loc.at_keeps hl _
  · exact hs

@[simp] theorem closeStep_kept (s : State) (j : Nat) : (closeStep s j).Kept W ↔ s.Kept W := by
  unfold closeStep
  extract_lets v x y s₁ s₂ s₃
  have hs₂ : s₂.Kept W ↔ s.Kept W := foldl_kept_iff (fun s n => by simp) _
  clear_value s₂
  split
  · rw [raiseJob_kept, ← hs₂]
    unfold s₃
    split <;> simp
  · exact hs₂

@[simp] theorem closeAll_kept (s : State) : (closeAll s).Kept W ↔ s.Kept W := by
  unfold closeAll
  exact foldl_kept_iff (fun s x => by split <;> simp) _

@[simp] theorem clampAll_kept (s : State) : (clampAll s).Kept W ↔ s.Kept W := by
  unfold clampAll
  exact foldl_kept_iff (fun s x => by split <;> simp) _

@[simp] theorem endHalted_kept {s : State} (hs : s.Kept W) : (endHalted s).Kept W := by
  unfold endHalted
  exact foldl_kept (fun s j hs => by split <;> simp [hs]) _ hs

@[simp] theorem dropCkpt_kept (s : State) (j code : Nat) : (dropCkpt s j code).Kept W ↔ s.Kept W := by
  unfold dropCkpt
  dsimp only
  (repeat' split) <;> simp

@[simp] theorem holdJob_kept {s : State} (hs : s.Kept W) (j : Nat) : (holdJob s j).Kept W := by
  unfold holdJob
  split <;> simp [hs]

@[simp] theorem holdAll_kept {s : State} (hs : s.Kept W) : (holdAll s).Kept W := by
  unfold holdAll
  exact foldl_kept (fun s x hs => by split <;> simp [hs]) _ hs

@[simp] theorem settleStart_kept {s : State} (hs : s.Kept W) (j : Nat) : (settleStart s j).Kept W := by
  unfold settleStart
  split <;> simp [hs]

@[simp] theorem settleStarts_kept {s : State} (hs : s.Kept W) : (settleStarts s).Kept W := by
  unfold settleStarts
  exact foldl_kept (fun s x hs => by split <;> simp [hs]) _ hs

@[simp] theorem moveNumber_kept (s : State) (n c : Nat) : (moveNumber s n c).Kept W ↔ s.Kept W := by
  unfold moveNumber
  simp

@[simp] theorem remap_kept (s : State) (n : Nat) : (remap s n).Kept W ↔ s.Kept W := by
  unfold remap
  dsimp only
  (repeat' split) <;> simp

@[simp] theorem remapAll_kept {s : State} (hs : s.Kept W) : (remapAll s).Kept W := by
  unfold remapAll
  refine foldl_kept (fun s n hs => ?_) _ hs
  split
  · split <;> simp [hs]
  · simp [hs]

@[simp] theorem reportRefills_kept (s : State) : (reportRefills s).1.Kept W ↔ s.Kept W := by
  unfold reportRefills
  exact foldl_kept_iff (fun s x => by simp) _

@[simp] theorem skipGate_kept (starts : Bool) (s : State) (p : Nat) : (skipGate starts s p).Kept W ↔ s.Kept W := by
  unfold skipGate
  dsimp only
  (repeat' split) <;> simp

@[simp] theorem choosePage_kept (s : State) (j : Nat) : (choosePage s j).Kept W ↔ s.Kept W := by
  unfold choosePage
  split
  · rfl
  · split
    · split <;> simp
    · rfl

@[simp] theorem openJob_kept (fresh : Nat → Bool) {s : State} (hs : s.Kept W) (j : Nat) : (openJob fresh s j).Kept W := by
  unfold openJob
  extract_lets s₁
  have hs₁ : s₁.Kept W := by
    unfold s₁
    split <;> simp [hs]
  clear_value s₁
  split
  · exact foldl_kept (fun s n hs => by simp [hs]) _ hs₁
  · refine foldl_kept (fun s n hs => ?_) _ hs₁
    dsimp only
    have hopen : (modSp s (posOf s n) openSpindle).Kept W := modSp_kept hs _ fun sp hsp => (Spindle.canon_congr rfl).mpr hsp
    split <;> simp [hopen]

@[simp] theorem checkOutliers_kept (s : State) (p : Nat) : (checkOutliers s p).Kept W ↔ s.Kept W := by
  unfold checkOutliers
  dsimp only
  (repeat' split) <;> simp

@[simp] theorem dropPartner_kept {s : State} (hs : s.Kept W) (q : Nat) : (dropPartner s q).Kept W := by
  unfold dropPartner
  split
  · exact hs.withSpindles (hs.spindles.map fun _ hsp => hsp)
  · exact hs

@[simp] theorem bellPort_kept (slip : Nat) {s : State} (hs : s.Kept W) (q : Nat) : (bellPort slip s q).Kept W := by
  unfold bellPort
  extract_lets lth bad s₁ s₂
  have hs₁ : s₁.Kept W := foldl_kept (fun s c hs => by split <;> simp [hs]) _ (by simp [hs])
  have hs₂ : s₂.Kept W := by
    unfold s₂
    split <;> simp [hs₁]
  exact (modPort_kept ..).mpr (dropPartner_kept hs₂ q)

@[simp] theorem compareSite_kept (s : State) (n : Nat) : (compareSite s n).Kept W ↔ s.Kept W := by
  unfold compareSite
  dsimp only
  (repeat' split) <;> simp

@[simp] theorem judgeStuck_kept (s : State) (n : Nat) : (judgeStuck s n).Kept W ↔ s.Kept W := by
  unfold judgeStuck
  dsimp only
  (repeat' split) <;> simp

@[simp] theorem readCoolant_kept (s : State) (inlet outlet : Nat) : (readCoolant s inlet outlet).Kept W ↔ s.Kept W := by
  unfold readCoolant
  dsimp only
  (repeat' split) <;> simp

@[simp] theorem countIdle_kept (s : State) : (countIdle s).Kept W ↔ s.Kept W := by
  unfold countIdle
  simp

@[simp] theorem endSleep_kept {s : State} (hs : s.Kept W) : (endSleep s).Kept W := by
  unfold endSleep
  split
  · refine serveCxl_kept ((setSt_kept ..).mpr ?_)
    exact ⟨hs.regs, hs.spindles, hs.hbm, hs.hif, hs.keep, fun hc => ⟨(hs.power hc).1, Nat.zero_le 2⟩, hs.pins⟩
  · exact hs

@[simp] theorem flushDue_kept {s : State} (hs : s.Kept W) : (flushDue s).Kept W := by
  unfold flushDue
  refine foldl_kept (fun s j hs => by split <;> simp [hs]) _ ?_
  exact foldl_kept (fun s j hs => by split <;> simp [hs]) _ hs

@[simp] theorem countBell_kept (t slip : Nat) (s : State) : (countBell t slip s).Kept W ↔ s.Kept W := by
  unfold countBell
  simp

@[simp] theorem noteSlip_kept (slip n : Nat) (s : State) : (noteSlip slip n s).Kept W ↔ s.Kept W := by
  unfold noteSlip
  split
  · rfl
  · split <;> simp

@[simp] theorem bellOrder_kept {s : State} (hs : s.Kept W) : (bellOrder s).Kept W := by
  unfold bellOrder
  refine acceptAll_kept (foldl_kept (fun s j hs => by simp [hs]) _ ((reportRefills_kept _).mpr (remapAll_kept (settleStarts_kept (holdAll_kept ?_)))))
  simp [hs]

@[simp] theorem fireBell_kept (b : BellIn) (t : Nat) {s : State} (hs : s.Kept W) : (fireBell b t s).Kept W := by
  unfold fireBell
  extract_lets s₁ dt slip by_ was s₂ s₃ e s₄ js s₅ s₆ s₇ s₈ s₉ s₁₀ s₁₁ s₁₂ hf s₁₃ hb s₁₄
  have hs₁ : s₁.Kept W := flushDue_kept hs
  clear_value s₁
  have hs₂ : s₂.Kept W := foldl_kept (fun s p hs => by simp [hs]) _ ((settleLoss_kept b t s₁).mpr hs₁)
  clear_value s₂
  have hs₃ : s₃.Kept W := (noteSlip_kept ..).mpr (recordStretch_kept ((countBell_kept ..).mpr hs₂) t dt)
  clear_value s₃
  have hs₄ : s₄.Kept W := foldl_kept (fun s j hs => by simp [hs]) _ ((chargeBell_kept ..).mpr hs₃)
  clear_value s₄
  have hs₅ : s₅.Kept W := foldl_kept (fun s j hs => by simp [hs]) _ hs₄
  clear_value s₅
  have hs₆ : s₆.Kept W := foldl_kept (fun s p hs => by simp [hs]) _ hs₅
  clear_value s₆
  have hs₇ : s₇.Kept W := endSleep_kept (hs₆.withSpindles (hs₆.spindles.map fun sp hsp => (Spindle.canon_congr rfl).mpr hsp))
  clear_value s₇
  have hs₈ : s₈.Kept W := bellOrder_kept hs₇
  clear_value s₈
  have hs₉ : s₉.Kept W := foldl_kept (fun s j hs => by simp [hs]) _ hs₈
  clear_value s₉
  have hs₁₀ : s₁₀.Kept W :=
    foldl_kept (fun s q hs => by simp [hs]) _ (settleRatios_kept (foldl_kept (fun s j hs => by simp [hs]) _ hs₉))
  clear_value s₁₀
  have hs₁₁ : s₁₁.Kept W := (readCoolant_kept ..).mpr (foldl_kept (fun s n hs => by simp [hs]) _ hs₁₀)
  clear_value s₁₁
  have hs₁₂ : s₁₂.Kept W := (countIdle_kept _).mpr hs₁₁
  clear_value s₁₂
  exact (takeShots_kept _).mpr (writeImages_kept ((startCycle_kept ..).mpr hs₁₂))

@[simp] theorem execBell_keptBy (b : BellIn) {s : State} (hs : s.Kept W) : KeptBy W (execBell b s) := by
  unfold execBell
  split <;> simp [hs]

@[simp] theorem execSlipLimitExceeded_keptBy (b : BellIn) {s : State} (hs : s.Kept W) : KeptBy W (execSlipLimitExceeded b s) := by
  unfold execSlipLimitExceeded
  rw [keptBy_next]
  split
  · exact fireBell_kept b _ (foldl_kept (fun s j hs => by simp [hs]) _ hs)
  · exact hs

end
end Sys2Proof.Machine
end

section
/-!
What the flyer's, the host's, the keep's, the power's and the pins' commands keep of the two invariants.
-/
namespace Sys2Proof.Machine
section
variable {W : Watch}

@[simp] theorem vop_keptBy (p : Nat) {s : State} (hs : s.Kept W) (op useB rate : Nat) (f : F32 → F32 → F32 → F32) :
    KeptBy W (vop p s op useB rate f) := by
  refine issue_kept hs _ _ _ fun q l hl => ?_
  dsimp only
  split
  · simp [hl]
  · exact Loc.flyRun_keeps hl _ _ _ _ _ _ fun l hl => by simp [hl]

@[simp] theorem execVopAdd_keptBy (p : Nat) {s : State} (hs : s.Kept W) : KeptBy W (execVopAdd p s) := by
  unfold execVopAdd
  simp [hs]

@[simp] theorem execVopMul_keptBy (p : Nat) {s : State} (hs : s.Kept W) : KeptBy W (execVopMul p s) := by
  unfold execVopMul
  simp [hs]

@[simp] theorem execVopFma_keptBy (p : Nat) {s : State} (hs : s.Kept W) : KeptBy W (execVopFma p s) := by
  unfold execVopFma
  simp [hs]

@[simp] theorem execVopScale_keptBy (p : Nat) {s : State} (hs : s.Kept W) : KeptBy W (execVopScale p s) := by
  unfold execVopScale
  simp [hs]

@[simp] theorem execVopCopy_keptBy (p : Nat) {s : State} (hs : s.Kept W) : KeptBy W (execVopCopy p s) := by
  unfold execVopCopy
  simp [hs]

@[simp] theorem execVopExp_keptBy (p : Nat) {s : State} (hs : s.Kept W) : KeptBy W (execVopExp p s) := by
  unfold execVopExp
  simp [hs]

@[simp] theorem execVopSilu_keptBy (p : Nat) {s : State} (hs : s.Kept W) : KeptBy W (execVopSilu p s) := by
  unfold execVopSilu
  simp [hs]

@[simp] theorem execSmark_closes (p : Nat) {F : ByteFrame} {s : State} (hs : (openPos s p).Keeps F) : Closes F s p (execSmark p s) := by
  unfold execSmark
  refine issueW_closes hs _ _ fun q l hl => ?_
  dsimp only
  (repeat' split) <;> simp (disch := simp +contextual [hs, hl])

@[simp] theorem execSmark_keptBy (p : Nat) {s : State} (hs : s.Kept W) : KeptBy W (execSmark p s) :=
  (execSmark_closes p (openPos_keeps hs p)).keptBy hs

@[simp] theorem vnorm_keptBy (p : Nat) {s : State} (hs : s.Kept W) (op : Nat) : KeptBy W (vnorm p s op) := by
  refine issue_kept hs _ _ _ fun q l hl => ?_
  have hread : (l.scrub (flyPar q.word) 32).Keeps (ByteFrame.canon W.mem) := (Loc.scrub_keeps ..).mpr hl
  dsimp only
  split
  · simp [hl]
  · split
    · simp [hread]
    · split
      · simp [hread]
      · exact Loc.flyRun_keeps hread _ _ _ _ _ _ fun l hl => by simp [hl]

@[simp] theorem execVnormRms_keptBy (p : Nat) {s : State} (hs : s.Kept W) : KeptBy W (execVnormRms p s) := by
  unfold execVnormRms
  simp [hs]

@[simp] theorem execVnormLayer_keptBy (p : Nat) {s : State} (hs : s.Kept W) : KeptBy W (execVnormLayer p s) := by
  unfold execVnormLayer
  simp [hs]

@[simp] theorem vsmax_keptBy (p : Nat) {s : State} (hs : s.Kept W) (op : Nat) {f : QEntry → SmaxRec → Loc → Loc}
    (hf : ∀ q r l, l.Keeps (ByteFrame.canon W.mem) → (f q r l).Keeps (ByteFrame.canon W.mem)) : KeptBy W (vsmax p s op f) := by
  refine issue_kept hs _ _ _ fun q l hl => ?_
  have hread : (l.scrub (flyPar q.word) 64).Keeps (ByteFrame.canon W.mem) := (Loc.scrub_keeps ..).mpr hl
  dsimp only
  split
  · simp [hl]
  · split
    · simp [hread]
    · split
      · exact hf _ _ _ hread
      · simp [hread]

@[simp] theorem execVsmaxScore_keptBy (p : Nat) {s : State} (hs : s.Kept W) : KeptBy W (execVsmaxScore p s) := by
  refine vsmax_keptBy p hs _ fun q r l hl => ?_
  dsimp only
  (repeat' split) <;> first
    | exact Loc.flyRun_keeps (by simp [hl]) _ _ _ _ _ _ fun l hl => by simp [hl]
    | simp [hl]

@[simp] theorem execVsmaxMerge_keptBy (p : Nat) {s : State} (hs : s.Kept W) : KeptBy W (execVsmaxMerge p s) := by
  refine vsmax_keptBy p hs _ fun q r l hl => ?_
  split
  · simp [hl]
  · exact Loc.flyRun_keeps hl _ _ _ _ _ _ fun l hl => by simp [hl]

@[simp] theorem execVsmaxFinal_keptBy (p : Nat) {s : State} (hs : s.Kept W) : KeptBy W (execVsmaxFinal p s) := by
  refine vsmax_keptBy p hs _ fun q r l hl => ?_
  split
  · simp [hl]
  · exact Loc.flyRun_keeps hl _ _ _ _ _ _ fun l hl => by simp [hl]

@[simp] theorem execVquant_keptBy (p : Nat) {s : State} (hs : s.Kept W) : KeptBy W (execVquant p s) := by
  unfold execVquant
  refine issueW_kept hs _ _ _ fun q l hl => ?_
  dsimp only
  (repeat' split) <;> simp (disch := simp +contextual [hs, hl])

@[simp] theorem vrand_keptBy (p : Nat) {s : State} (hs : s.Kept W) (op : Nat) {out : Numeric → RandRec → KWord → Loc → Loc}
    (hout : ∀ n r w l, l.Keeps (ByteFrame.canon W.mem) → (out n r w l).Keeps (ByteFrame.canon W.mem)) : KeptBy W (vrand p s op out) := by
  refine issue_kept hs _ _ _ fun q l hl => ?_
  have hread : (l.scrub (flyPar q.word) 64).Keeps (ByteFrame.canon W.mem) := (Loc.scrub_keeps ..).mpr hl
  dsimp only
  split
  · simp [hl]
  · split
    · simp [hread]
    · split
      · simp [hread]
      · exact Loc.flyRun_keeps hread _ _ _ _ _ _ fun l hl => hout _ _ _ _ hl

@[simp] theorem execVrandDrop_keptBy (p : Nat) {s : State} (hs : s.Kept W) : KeptBy W (execVrandDrop p s) := by
  unfold execVrandDrop
  simp +contextual [hs]

@[simp] theorem execVrandBits_keptBy (p : Nat) {s : State} (hs : s.Kept W) : KeptBy W (execVrandBits p s) := by
  unfold execVrandBits
  simp +contextual [hs]

@[simp] theorem vopt_keptBy (p : Nat) {s : State} (hs : s.Kept W) (opt : Nat) : KeptBy W (vopt p s opt) := by
  refine issue_kept hs _ _ _ fun q l hl => ?_
  have hread : (l.scrub (voPar q.word) 64).Keeps (ByteFrame.canon W.mem) := (Loc.scrub_keeps ..).mpr hl
  dsimp only
  split
  · simp [hl]
  · split
    · simp [hread]
    · split
      · simp [hread]
      · split
        · simp [hread]
        · split
          · simp [hread]
          · split
            · simp [hread]
            · exact Loc.flyRun_keeps hread _ _ _ _ _ _ fun l hl => by simp [hl]

@[simp] theorem execVoptAdam_keptBy (p : Nat) {s : State} (hs : s.Kept W) : KeptBy W (execVoptAdam p s) := by
  unfold execVoptAdam
  simp [hs]

@[simp] theorem execVoptSgd_keptBy (p : Nat) {s : State} (hs : s.Kept W) : KeptBy W (execVoptSgd p s) := by
  unfold execVoptSgd
  simp [hs]

@[simp] theorem execVloss_keptBy (p : Nat) {s : State} (hs : s.Kept W) : KeptBy W (execVloss p s) := by
  refine issue_kept hs _ _ _ fun q l hl => ?_
  have hread : (l.scrub (flyPar q.word) 64).Keeps (ByteFrame.canon W.mem) := (Loc.scrub_keeps ..).mpr hl
  dsimp only
  split
  · simp [hl]
  · split
    · simp [hread]
    · split
      · simp [hread]
      · exact Loc.flyRun_keeps hread _ _ _ _ _ _ fun l hl => by simp [hl]

@[simp] theorem execVcheck_keptBy (p : Nat) {s : State} (hs : s.Kept W) : KeptBy W (execVcheck p s) := by
  unfold execVcheck
  refine issueW_kept hs _ _ _ fun q l hl => ?_
  (repeat' split) <;> simp (disch := simp +contextual [hs, hl])

@[simp] theorem linkLost_kept {s : State} (hs : s.Kept W) : (linkLost s).Kept W := by
  unfold linkLost
  split
  · exact foldl_kept (fun s x hs => by simp [hs]) _ (by simp [hs])
  · exact hs

@[simp] theorem execHostLinkDown_keptBy {s : State} (hs : s.Kept W) : KeptBy W (execHostLinkDown s) := by
  unfold execHostLinkDown
  simp [hs]

@[simp] theorem execHostLinkTrain_keptBy (width : Nat) (fast : Bool) {s : State} (hs : s.Kept W) : KeptBy W (execHostLinkTrain width fast s) := by
  unfold execHostLinkTrain
  dsimp only
  (repeat' split) <;> simp [hs]

theorem msixReset_wf : Memory.wf msixReset = true := by decide

@[simp] theorem execPerst_keptBy (level : Bool) {s : State} (hs : s.Kept W) : KeptBy W (execPerst level s) := by
  unfold execPerst
  rw [keptBy_next]
  split
  · split
    · dsimp only
      split <;> exact hs
    · exact hs
  · exact (linkLost_kept hs).withHif fun hm => ⟨((linkLost_kept hs).hif hm).1, msixReset_wf⟩

@[simp] theorem execCxlConfigRequest_keptBy (req : ConfigAccess) {s : State} (hs : s.Kept W) : KeptBy W (execCxlConfigRequest req s) := by
  unfold execCxlConfigRequest
  dsimp only
  (repeat' split) <;> simp [hs]

@[simp] theorem execCxlSnoop_keptBy (_line : Nat) {s : State} (hs : s.Kept W) : KeptBy W (execCxlSnoop _line s) := by
  unfold execCxlSnoop
  split <;> simp [hs]

@[simp] theorem doeAnswer_kept (s : State) (bs : List Byte) : (doeAnswer s bs).Kept W ↔ s.Kept W := by
  unfold doeAnswer
  split <;> simp

@[simp] theorem execGetVersion_keptBy {s : State} (hs : s.Kept W) : KeptBy W (execGetVersion s) := by
  unfold execGetVersion
  simp [hs]

@[simp] theorem execGetCapabilities_keptBy {s : State} (hs : s.Kept W) : KeptBy W (execGetCapabilities s) := by
  unfold execGetCapabilities
  simp [hs]

@[simp] theorem execNegotiateAlgorithms_keptBy {s : State} (hs : s.Kept W) : KeptBy W (execNegotiateAlgorithms s) := by
  unfold execNegotiateAlgorithms
  simp [hs]

@[simp] theorem execGetDigests_keptBy {s : State} (hs : s.Kept W) : KeptBy W (execGetDigests s) := by
  unfold execGetDigests
  simp [hs]

@[simp] theorem execGetCertificate_keptBy (slot off len : Nat) {s : State} (hs : s.Kept W) : KeptBy W (execGetCertificate slot off len s) := by
  unfold execGetCertificate
  dsimp only
  (repeat' split) <;> simp [hs]

@[simp] theorem execChallenge_keptBy (slot : Nat) (nonce : List Byte) {s : State} (hs : s.Kept W) : KeptBy W (execChallenge slot nonce s) := by
  unfold execChallenge
  dsimp only
  (repeat' split) <;> simp [hs]

@[simp] theorem execGetMeasurements_keptBy (index slot : Nat) (nonce : List Byte) {s : State} (hs : s.Kept W) :
    KeptBy W (execGetMeasurements index slot nonce s) := by
  unfold execGetMeasurements
  dsimp only
  (repeat' split) <;> simp [hs]

@[simp] theorem execSpdmUnsupported_keptBy (code : Nat) {s : State} (hs : s.Kept W) : KeptBy W (execSpdmUnsupported code s) := by
  unfold execSpdmUnsupported
  simp [hs]

@[simp] theorem execDoeDiscovery_keptBy (index : Nat) {s : State} (hs : s.Kept W) : KeptBy W (execDoeDiscovery index s) := by
  unfold execDoeDiscovery
  simp [hs]

@[simp] theorem execCdatAccess_keptBy (entry : Nat) {s : State} (hs : s.Kept W) : KeptBy W (execCdatAccess entry s) := by
  unfold execCdatAccess
  simp [hs]

@[simp] theorem sendPldm_kept (s : State) (eid : Byte) (bs : List Byte) : (sendPldm s eid bs).Kept W ↔ s.Kept W := by
  unfold sendPldm
  exact foldl_kept_iff (fun s x => by simp) _

@[simp] theorem pldm_kept (s : State) (type cmd cc : Nat) (rest : List Byte) : (pldm s type cmd cc rest).Kept W ↔ s.Kept W := by
  unfold pldm
  split <;> simp

@[simp] theorem execGetTid_keptBy {s : State} (hs : s.Kept W) : KeptBy W (execGetTid s) := by
  unfold execGetTid
  simp [hs]

@[simp] theorem execGetPldmVersion_keptBy {s : State} (hs : s.Kept W) : KeptBy W (execGetPldmVersion s) := by
  unfold execGetPldmVersion
  simp [hs]

@[simp] theorem execGetPldmTypes_keptBy {s : State} (hs : s.Kept W) : KeptBy W (execGetPldmTypes s) := by
  unfold execGetPldmTypes
  simp [hs]

@[simp] theorem execGetPldmCommands_keptBy (type : Nat) {s : State} (hs : s.Kept W) : KeptBy W (execGetPldmCommands type s) := by
  unfold execGetPldmCommands
  split <;> simp [hs]

@[simp] theorem execGetPdr_keptBy (handle : Nat) {s : State} (hs : s.Kept W) : KeptBy W (execGetPdr handle s) := by
  unfold execGetPdr
  simp [hs]

@[simp] theorem execGetPdrRepositoryInfo_keptBy {s : State} (hs : s.Kept W) : KeptBy W (execGetPdrRepositoryInfo s) := by
  unfold execGetPdrRepositoryInfo
  simp [hs]

@[simp] theorem execGetSensorReading_keptBy (sensor : Nat) {s : State} (hs : s.Kept W) : KeptBy W (execGetSensorReading sensor s) := by
  unfold execGetSensorReading
  split <;> simp [hs]

@[simp] theorem execGetStateSensorReadings_keptBy (sensor : Nat) {s : State} (hs : s.Kept W) : KeptBy W (execGetStateSensorReadings sensor s) := by
  unfold execGetStateSensorReadings
  split <;> simp [hs]

@[simp] theorem execSetEventReceiver_keptBy (addr : Nat) {s : State} (hs : s.Kept W) : KeptBy W (execSetEventReceiver addr s) := by
  unfold execSetEventReceiver
  split <;> simp [hs]

@[simp] theorem execPlatformEventMessage_keptBy {s : State} (hs : s.Kept W) : KeptBy W (execPlatformEventMessage s) := by
  unfold execPlatformEventMessage
  rw [keptBy_next]
  split
  · split
    · exact (sendPldm_kept ..).mpr hs
    · exact hs
  · exact hs

@[simp] theorem Keep.kept_mk (k : Keep) (images : List (List Stored)) (preferred floors : List Nat) (operator : Option (BitVec 1056)) (cfgFloor : Nat)
    (cfg : List Stored) (test : TestRec) (sectors : List (Option StateSector)) (ring : List (List (Nat × Nat))) (resv : Nat)
    (marginLog : List (Option MarginEntry)) (dik ak : Nat) (akCert : List Byte) (nk devid : BitVec 512) (nonce : BitVec 256) (stopped : Bool)
    (slots : List Nat) (ksvn : Nat) (cfgApplied : Bool) (log : List (Nat × Nat × BitVec 512)) (opCode op opLen : Nat) :
    Keep.Kept W ⟨images, preferred, floors, operator, cfgFloor, cfg, test, sectors, ring, resv, k.bound, k.next, marginLog, dik, ak, akCert, nk,
      devid, nonce, k.stage, stopped, slots, ksvn, cfgApplied, log, k.opState, opCode, op, opLen⟩ ↔ k.Kept W := Iff.rfl

@[simp] theorem Power.kept_mk (w : Power) (noJob deepWake : Bool) (timeUs : Nat) (wakeDue reset : Bool) (waiting : Option PowerUp) (vinBad : Bool)
    (savedBell : Nat) (modeAt slept : Option Nat) (off vaon : Bool) :
    Power.Kept W ⟨w.step, noJob, deepWake, timeUs, w.sleep, wakeDue, reset, waiting, vinBad, savedBell, modeAt, slept, off, vaon⟩ ↔ w.Kept W := Iff.rfl

@[simp] theorem modKeep_kept {s : State} (hs : s.Kept W) {f : Keep → Keep} (hf : ∀ k, k.Kept W → (f k).Kept W) : (modKeep s f).Kept W :=
  hs.withKeep (hf _ hs.keep)

/-- A change of the keep that leaves its coded fields and its counter alone. -/
@[simp] theorem modKeep_kept_iff (s : State) {f : Keep → Keep} (hf : ∀ k, (f k).Kept W ↔ k.Kept W) : (modKeep s f).Kept W ↔ s.Kept W := by
  unfold modKeep State.Kept
  rw [hf]

/-- A stage of the boot is at most 7 (Table 18.4). -/
theorem Keep.Kept.atStage {k : Keep} (hk : k.Kept W) {n : Nat} (hn : n ≤ 7) : Keep.Kept W { k with stage := n } :=
  fun hc => ⟨(hk hc).1, hn, (hk hc).2.2⟩

@[simp] theorem freshNonce_kept {s : State} (hs : s.Kept W) (ok : Bool) : (freshNonce s ok).Kept W := by
  unfold freshNonce
  simp [hs]

@[simp] theorem endOp_kept {s : State} (hs : s.Kept W) (code : Nat) : (endOp s code).Kept W := by
  refine modKeep_kept hs fun k hk hc => ⟨(hk hc).1, (hk hc).2.1, ?_⟩
  change (if code = 0 then 2 else 3) ≤ 3
  split
  · exact Nat.le_succ 2
  · exact Nat.le_refl 3

@[simp] theorem refuseOp_kept {s : State} (hs : s.Kept W) (code : Nat) : (refuseOp s code).Kept W := by
  unfold refuseOp
  simp [hs]

@[simp] theorem flashFailed_kept {s : State} (hs : s.Kept W) (region off : Nat) : (flashFailed s region off).Kept W := by
  unfold flashFailed
  simp [hs]

@[simp] theorem opRecord_kept {s : State} (hs : s.Kept W) : (opRecord s).2.Kept W := by
  unfold opRecord
  dsimp only
  (repeat' split) <;> simp [hs]

@[simp] theorem badWrite_kept (s : State) (n : Nat) : (badWrite s n).2.Kept W ↔ s.Kept W := by
  unfold badWrite
  simp

@[simp] theorem execKeepUpdate_keptBy (flashOk : Bool) {s : State} (hs : s.Kept W) (dirOk : Bool) :
    KeptBy W (execKeepUpdate flashOk s dirOk) := by
  unfold execKeepUpdate
  rw [keptBy_next]
  split
  · extract_lets r bs s₁ c t slot w s₂
    have hs₁ : s₁.Kept W := opRecord_kept hs
    have hs₂ : s₂.Kept W := by
      refine (modKeep_kept_iff _ fun k => by simp).mpr ?_
      unfold w
      split
      · exact hs₁
      · exact (badWrite_kept ..).mpr hs₁
    clear_value s₁ s₂
    split
    · simp [hs₁]
    · split
      · simp [hs₂]
      · split <;> simp [hs₂]
  · exact hs

@[simp] theorem stateWrite_kept (s : State) (ok : Bool) {f : Keep → Keep} (hf : ∀ k, (f k).Kept W ↔ k.Kept W) :
    (stateWrite s ok f).Kept W ↔ s.Kept W := by
  refine modKeep_kept_iff s fun k => ?_
  dsimp only
  split <;> simp [hf]

@[simp] theorem endState_kept {s : State} (hs : s.Kept W) (ok : Bool) {f : Keep → Keep} (hf : ∀ k, (f k).Kept W ↔ k.Kept W) :
    (endState s ok f).Kept W := by
  unfold endState
  split <;> simp [hs, hf]

@[simp] theorem execKeepEnrol_keptBy (flashOk : Bool) {s : State} (hs : s.Kept W) (ctrOk : Bool) : KeptBy W (execKeepEnrol flashOk s ctrOk) := by
  unfold execKeepEnrol
  dsimp only
  (repeat' split) <;> simp (disch := simp [hs]) [hs]

@[simp] theorem execKeepRelease_keptBy (flashOk : Bool) {s : State} (hs : s.Kept W) (ctrOk : Bool) : KeptBy W (execKeepRelease flashOk s ctrOk) := by
  unfold execKeepRelease
  dsimp only
  (repeat' split) <;> simp (disch := simp [hs]) [hs]

@[simp] theorem execKeepConfig_keptBy (flashOk : Bool) {s : State} (hs : s.Kept W) (floorOk : Bool) :
    KeptBy W (execKeepConfig flashOk s floorOk) := by
  unfold execKeepConfig
  dsimp only
  (repeat' split) <;> simp [hs]

@[simp] theorem modPower_kept {s : State} (hs : s.Kept W) {f : Power → Power} (hf : ∀ w, w.Kept W → (f w).Kept W) : (modPower s f).Kept W :=
  hs.withPower (hf _ hs.power)

/-- A change of the power state that leaves its coded fields alone. -/
@[simp] theorem modPower_kept_iff (s : State) {f : Power → Power} (hf : ∀ w, (f w).Kept W ↔ w.Kept W) : (modPower s f).Kept W ↔ s.Kept W := by
  unfold modPower State.Kept
  rw [hf]

/-- A step of the power-up is at most 14 (Table 19.1). -/
theorem Power.Kept.atStep {w : Power} (hw : w.Kept W) {n : Nat} (hn : n ≤ 14) : Power.Kept W { w with step := n } := fun hc => ⟨hn, (hw hc).2⟩

@[simp] theorem orStay_kept {o : Out} (ho : KeptBy W o) {s : State} (hs : s.Kept W) : (orStay o s).Kept W := by
  unfold orStay
  split
  · next t => exact ho t rfl
  · exact hs

theorem State.kept_iff {s : State} : s.Kept W ↔ (W.mem → MemOk s) ∧ (W.control → ControlOk s) := by
  simp only [State.Kept, distaffsKept_iff, Regs.Kept, Hbm.Kept, Hif.Kept, Keep.Kept, Power.Kept, Pins.Kept, MemOk, ControlOk]
  grind

theorem State.reset_kept : State.reset.Kept W := State.kept_iff.mpr ⟨fun _ => resetKeepsInvariants.1, fun _ => resetKeepsInvariants.2⟩

/-- What a reset keeps of the state before it: the host's bytes, the flash, the straps and, after a deep sleep, the HBM. -/
@[simp] theorem cold_kept (deep : Bool) {s : State} (hs : s.Kept W) : (cold deep s).Kept W := by
  have hz := State.reset_kept (W := W)
  have hhbm : Hbm.Kept W (if deep then { State.reset.hbm with mem := s.hbm.mem, poison := s.hbm.poison, errs := s.hbm.errs } else State.reset.hbm) := by
    split
    · exact fun hm => ⟨(hs.hbm hm).1, (hz.hbm hm).2⟩
    · exact hz.hbm
  have hkeep : s.keep.cold.Kept W := fun _ => ⟨Nat.zero_le _, Nat.zero_le _, Nat.zero_le _⟩
  exact ⟨hz.regs, hz.spindles, hhbm, fun hm => ⟨(hs.hif hm).1, (hz.hif hm).2⟩, hkeep, hz.power, hs.pins⟩

@[simp] theorem execResetAssert_keptBy (us : Nat) {s : State} (hs : s.Kept W) (fires : List Nat) : KeptBy W (execResetAssert us s fires) := by
  have hcold : (cold false (s.hif.xfers.foldl abandonXfer s)).Kept W := cold_kept false (foldl_kept (fun s x hs => by simp [hs]) _ hs)
  unfold execResetAssert
  rw [keptBy_next]
  split
  · exact hs
  · extract_lets s₁ hot th pn pw s₂
    have hs₂ : s₂.Kept W := ⟨hcold.regs, hcold.spindles, hcold.hbm, hcold.hif, hcold.keep, hcold.power, hcold.pins⟩
    clear_value s₂
    split <;> exact hs₂

@[simp] theorem execVaonRemoval_keptBy {s : State} (hs : s.Kept W) : KeptBy W (execVaonRemoval s) := by
  have hcold : (cold false (s.hif.xfers.foldl abandonXfer s)).Kept W := cold_kept false (foldl_kept (fun s x hs => by simp [hs]) _ hs)
  have hz := State.reset_kept (W := W)
  exact (keptBy_next _).mpr ⟨hcold.regs, hcold.spindles, hcold.hbm, hcold.hif, hcold.keep, hz.power, hz.pins⟩

@[simp] theorem execWakeN_keptBy (us : Nat) {s : State} (hs : s.Kept W) : KeptBy W (execWakeN us s) := by
  unfold execWakeN
  split <;> simp [hs]

@[simp] theorem stopBoot_kept {s : State} (hs : s.Kept W) {stage step : Nat} (hstage : stage ≤ 7) (hstep : step ≤ 14) (e : Ev) :
    (stopBoot s stage step e).Kept W :=
  modPower_kept (modKeep_kept ((raiseDev_kept s e).mpr hs) fun _ hk => hk.atStage hstage) fun _ hw => hw.atStep hstep

@[simp] theorem someOffset_kept (s : State) (base size : Nat) : (someOffset s base size).2.Kept W ↔ s.Kept W := by
  unfold someOffset
  simp

@[simp] theorem tryImage_kept (t : Nat) (bad slots : List Nat) (s : State) : (tryImage t bad slots s).2.Kept W ↔ s.Kept W := by
  induction slots generalizing s with
  | nil => rfl
  | cons slot rest ih =>
    rw [tryImage]
    generalize (if bad.contains slot then 1 else (imageAt s t slot).why s t) = why
    split
    · dsimp only
      split <;> simp
    · rw [ih, raiseDev_kept]

@[simp] theorem bootImage_kept (s : State) (t : Nat) (bad : List Nat) : (bootImage s t bad).2.Kept W ↔ s.Kept W := by
  unfold bootImage
  simp

@[simp] theorem takeImage_kept (s : State) (t slot : Nat) : (takeImage s t slot).Kept W ↔ s.Kept W := by
  unfold takeImage
  simp

theorem readState_kept (x : StateSector) {k : Keep} (hk : k.Kept W) : (readState x k).Kept W := fun hc => ⟨Nat.le_refl _, (hk hc).2⟩

@[simp] theorem bootState_kept (e : PowerUp) {s : State} (hs : s.Kept W) : (bootState e s).2.Kept W := by
  unfold bootState
  split
  · next x _ _ =>
    refine freshNonce_kept (modKeep_kept hs fun k hk => ?_) _
    exact Keep.Kept.atStage (k := issueAk (readState x.2 k)) (readState_kept x.2 hk) (by decide)
  · simp [hs]

@[simp] theorem bootKeep_kept (e : PowerUp) {s : State} (hs : s.Kept W) : (bootKeep e s).2.Kept W := by
  unfold bootKeep
  split
  · simp [hs]
  · extract_lets s₁ r
    have hs₁ : s₁.Kept W := modKeep_kept hs fun k hk => fun hc => ⟨(hk hc).1, Nat.le_add_left 1 6, (hk hc).2.2⟩
    have hr : r.2.Kept W := (bootImage_kept ..).mpr hs₁
    clear_value r
    split
    · simp [hr]
    · next slot _ =>
      extract_lets v b s₂
      have hb : b.2.Kept W := bootState_kept e (modKeep_kept ((takeImage_kept ..).mpr hr) fun k hk => fun hc => ⟨(hk hc).1, Nat.le_of_ble_eq_true rfl, (hk hc).2.2⟩)
      split
      · exact hb
      · split
        · exact stopBoot_kept hb (by decide) (by decide) _
        · refine (measure_kept ..).mpr (modKeep_kept ?_ fun _ hk => hk.atStage (by decide))
          exact hb

@[simp] theorem bootImages_kept (e : PowerUp) {s : State} (hs : s.Kept W) : (bootImages e s).2.Kept W := by
  unfold bootImages
  extract_lets bad r
  have hr : r.2.Kept W := (bootImage_kept ..).mpr hs
  clear_value r
  split
  · simp [hr]
  · extract_lets q
    have hq : q.2.Kept W := (bootImage_kept ..).mpr ((takeImage_kept ..).mpr hr)
    clear_value q
    split
    · simp [hq]
    · exact modKeep_kept ((takeImage_kept ..).mpr hq) fun _ hk => hk.atStage (by decide)

@[simp] theorem raiseFloors_kept (e : PowerUp) (s : State) : (raiseFloors e s).Kept W ↔ s.Kept W := by
  unfold raiseFloors
  dsimp only
  (repeat' split) <;> simp

@[simp] theorem bootRelease_kept (e : PowerUp) {s : State} (hs : s.Kept W) : (bootRelease e s).2.Kept W := by
  unfold bootRelease
  dsimp only
  refine (raiseFloors_kept ..).mpr (modKeep_kept ?_ fun _ hk => hk.atStage (by decide))
  split <;> simp [hs]

@[simp] theorem powerPositions_kept (e : PowerUp) {s : State} (hs : s.Kept W) : (powerPositions e s).Kept W := by
  unfold powerPositions
  refine foldl_kept (fun s p hs => by simp [hs]) _ (foldl_kept (fun s x hs => by simp [hs]) _ (foldl_kept (fun s m hs => ?_) _ hs))
  split <;> simp [hs]

@[simp] theorem xingFail_kept (s : State) (i raw : Nat) : (xingFail s i raw).Kept W ↔ s.Kept W := by
  unfold xingFail
  dsimp only
  (repeat' split) <;> simp

@[simp] theorem calibrate_kept (e : PowerUp) {s : State} (hs : s.Kept W) : (calibrate e s).Kept W := by
  unfold calibrate
  refine (modLan_kept ..).mpr (foldl_kept (fun s x hs => by simp [hs]) _ (foldl_kept (fun s x hs => ?_) _ hs))
  split <;> simp [hs]

@[simp] theorem placeNumber_kept (s : State) (n : Nat) : (placeNumber s n).Kept W ↔ s.Kept W := by
  unfold placeNumber
  split
  · rfl
  · split <;> simp

@[simp] theorem placeMap_kept (s : State) : (placeMap s).Kept W ↔ s.Kept W := by
  unfold placeMap
  generalize State.reset.repair = r
  generalize List.range 576 = ns
  exact (measureMap_kept _).trans ((State.kept_mk ..).trans (foldl_kept_iff (fun s n => placeNumber_kept s n) ns))

@[simp] theorem trainAll_kept (e : PowerUp) {s : State} (hs : s.Kept W) : (trainAll e s).Kept W := by
  unfold trainAll
  refine foldl_kept (fun s q hs => by split <;> simp [hs]) _ (foldl_kept (fun s h hs => ?_) _ hs)
  split <;> simp [hs]

@[simp] theorem commitCfg_kept (c : Option CfgRec) {s : State} (hs : s.Kept W) : (commitCfg c s).Kept W := by
  unfold commitCfg
  split
  · simp [hs]
  · dsimp only
    split
    · simp [hs]
    · next r o hr =>
      refine (measure_kept ..).mpr ((raiseDev_kept ..).mpr (hs.withRegs fun hc => ⟨refusal_le hr, (hs.regs hc).2⟩))

@[simp] theorem postRecords_kept {s : State} (hs : s.Kept W) : (postRecords s).Kept W := by
  unfold postRecords
  extract_lets th s₁ th' s₂
  have hs₁ : s₁.Kept W := foldl_kept (fun s i hs => by simp [hs]) _ hs
  clear_value s₁
  have hs₂ : s₂.Kept W := by
    unfold s₂
    split <;> simp [hs₁]
  split <;> simp [hs₂]

@[simp] theorem firstBell_kept (deep : Bool) (e : PowerUp) (c : Option CfgRec) {s : State} (hs : s.Kept W) : (firstBell deep e c s).Kept W := by
  unfold firstBell
  extract_lets rc t bl pw s₁ s₂ s₃
  have hs₁ : s₁.Kept W := hs.withPower fun hc => ⟨Nat.le_refl 14, (hs.power hc).2⟩
  have hs₂ : s₂.Kept W := postRecords_kept hs₁
  clear_value s₂
  have hs₃ : s₃.Kept W := by
    unfold s₃
    split <;> simp [hs₂]
  simp [hs₃]

@[simp] theorem powerSeq_kept (deep : Bool) (e : PowerUp) {s : State} (hs : s.Kept W) : (powerSeq deep e s).Kept W := by
  unfold powerSeq
  extract_lets s₁ s₂ s₃ g k b c
  have hs₂ : s₂.Kept W := (modPower_kept_iff _ fun w => by simp).mpr (cold_kept deep hs)
  clear_value s₂
  have hs₃ : s₃.Kept W := foldl_kept (fun s i hs => by simp [hs]) _ hs₂
  have hk : k.2.Kept W := bootKeep_kept e hs₃
  have hb : b.2.Kept W := bootImages_kept e hk
  have hc : c.2.Kept W := bootRelease_kept e hb
  clear_value s₃ k b c
  split
  · exact modPower_kept ((raiseDev_kept ..).mpr ((State.kept_mk ..).mpr hs₃)) fun _ hw => hw.atStep (by decide)
  · split
    · exact hk
    · split
      · exact hb
      · exact firstBell_kept _ _ _ (trainAll_kept _ ((placeMap_kept _).mpr (calibrate_kept _ (powerPositions_kept _ hc))))

@[simp] theorem tapRelease_kept (s : State) : (tapRelease s).Kept W ↔ s.Kept W := by
  unfold tapRelease
  split <;> simp

@[simp] theorem takeStraps_kept (strap : Nat) {s : State} (hs : s.Kept W) : (takeStraps strap s).Kept W :=
  hs.withPins fun _ => Nat.mod_lt _ (by decide)

@[simp] theorem execPowerUp_keptBy (e : PowerUp) {s : State} (hs : s.Kept W) : KeptBy W (execPowerUp e s) := by
  unfold execPowerUp
  dsimp only
  (repeat' split) <;> simp [hs]

@[simp] theorem execVinWithinRange_keptBy {s : State} (hs : s.Kept W) : KeptBy W (execVinWithinRange s) := by
  unfold execVinWithinRange
  dsimp only
  (repeat' split) <;> simp [hs]

@[simp] theorem execSleepRun_keptBy {s : State} (hs : s.Kept W) : KeptBy W (execSleepRun s) := by
  unfold execSleepRun
  split <;> simp [hs]

@[simp] theorem execSleepLight_keptBy {s : State} (hs : s.Kept W) : KeptBy W (execSleepLight s) := by
  unfold execSleepLight
  rw [keptBy_next]
  split
  · refine (raiseDev_kept ..).mpr ((modLan_kept ..).mpr ?_)
    exact modPower_kept hs fun w hw hc => ⟨(hw hc).1, Nat.le_succ 1⟩
  · exact hs

@[simp] theorem downPorts_kept (s : State) : (downPorts s).Kept W ↔ s.Kept W := by
  unfold downPorts
  simp

@[simp] theorem execSleepDeep_keptBy {s : State} (hs : s.Kept W) : KeptBy W (execSleepDeep s) := by
  unfold execSleepDeep
  rw [keptBy_next]
  split
  · have hoff : (powerOff (downPorts s)).Kept W := powerOff_kept ((downPorts_kept s).mpr hs)
    generalize powerOff (downPorts s) = s₁ at hoff ⊢
    exact ⟨hoff.regs, hoff.spindles, hoff.hbm, hoff.hif, hoff.keep, fun hc => ⟨(hoff.power hc).1, Nat.le_refl 2⟩, hoff.pins⟩
  · exact hs

@[simp] theorem tapSelect_kept (code : Nat) (s : State) : (tapSelect code s).Kept W ↔ s.Kept W := by
  unfold tapSelect
  split <;> simp

@[simp] theorem boundaryScan_kept (code : Nat) (cells : List Bool) (ser : Bool) (s : State) : (boundaryScan code cells ser s).Kept W ↔ s.Kept W := by
  unfold boundaryScan
  dsimp only
  (repeat' split) <;> simp [↓State.kept_mk_pins]

@[simp] theorem execBypass_keptBy {s : State} (hs : s.Kept W) (_code : Nat) : KeptBy W (execBypass s _code) := by
  unfold execBypass
  simp [hs]

@[simp] theorem execIdcode_keptBy {s : State} (hs : s.Kept W) (ev : TapEvent) : KeptBy W (execIdcode s ev) := by
  unfold execIdcode
  dsimp only
  (repeat' split) <;> simp [hs]

@[simp] theorem execSamplePreload_keptBy (cells : List Bool) {s : State} (hs : s.Kept W) (ser : Bool) : KeptBy W (execSamplePreload cells s ser) := by
  unfold execSamplePreload
  simp [hs]

@[simp] theorem execExtest_keptBy {s : State} (hs : s.Kept W) (cells : List Bool) (ser : Bool) : KeptBy W (execExtest s cells ser) := by
  unfold execExtest
  simp [hs]

@[simp] theorem execExtestPulse_keptBy {s : State} (hs : s.Kept W) (cells : List Bool) (ser : Bool) : KeptBy W (execExtestPulse s cells ser) := by
  unfold execExtestPulse
  simp [hs]

@[simp] theorem execExtestTrain_keptBy {s : State} (hs : s.Kept W) (cells : List Bool) (ser : Bool) : KeptBy W (execExtestTrain s cells ser) := by
  unfold execExtestTrain
  simp [hs]

@[simp] theorem execHighz_keptBy {s : State} (hs : s.Kept W) : KeptBy W (execHighz s) := by
  unfold execHighz
  simp [hs]

@[simp] theorem execClamp_keptBy {s : State} (hs : s.Kept W) : KeptBy W (execClamp s) := by
  unfold execClamp
  simp [hs]



@[simp] theorem execStuckEngine_keptBy (p k : Nat) {s : State} (hs : s.Kept W) : KeptBy W (execStuckEngine p k s) := by
  refine onEngine_kept p k ?_
  split
  · exact (spindleFault_kept ..).mpr (runPos_kept hs p fun l hl => Loc.at_keeps hl _)
  · exact hs

@[simp] theorem scrambleAt_kept {s : State} (hs : s.Kept W) (a n : Nat) : (scrambleAt s a n).Kept W := by
  unfold scrambleAt
  split <;> simp [hs]

/-- What is under way in the fabric, at the HBM and at the ports is none of what `Kept` speaks of. -/
theorem withNothingUnderWay_kept {s : State} (hs : s.Kept W) :
    State.Kept W { s with fabric := { s.fabric with net := [], replies := [] }, hbm := { s.hbm with waiting := [], granted := [] },
                          ports := s.ports.map fun x => { x with items := [], wire := [], sent := [], tx := [] } } :=
  ⟨hs.regs, hs.spindles, hs.hbm, hs.hif, hs.keep, hs.power, hs.pins⟩

@[simp] theorem execReferenceLost_keptBy (src : Nat) {s : State} (hs : s.Kept W) : KeptBy W (execReferenceLost src s) := by
  unfold execReferenceLost
  generalize List.range 624 = ps
  split
  · extract_lets g s₁ lost moved s₂ fb hb s₃ s₄ s₅ hf
    have hs₁ : s₁.Kept W := (raiseDev_kept ..).mpr hs
    have hs₂ : s₂.Kept W := foldl_kept (fun _ p hs => losePos_kept hs p) _ hs₁
    clear_value s₁ s₂
    have hs₃ : s₃.Kept W := foldl_kept (fun _ a hs => loseAccess_kept hs a) _ (withNothingUnderWay_kept hs₂)
    clear_value s₃
    have hs₄ : s₄.Kept W := foldl_kept (fun _ r hs => scrambleAt_kept hs _ _) _ hs₃
    clear_value s₄
    have hs₅ : s₅.Kept W := foldl_kept (fun _ x hs => by
      split
      · exact scramble_kept hs _ _ _
      · exact hostWrite_kept ((drawBytes_kept ..).mpr hs) _ _ _) _ hs₄
    clear_value s₅
    exact (keptBy_next ..).mpr hs₅
  · simp

end
end Sys2Proof.Machine
end

section
/-!
Every step keeps the two invariants: each command does (`exec_keptBy`), and the idle step moves only the device time.
-/
namespace Sys2Proof.Machine
section
variable {W : Watch}

theorem exec_keptBy (c : Instr) {s : State} (hs : s.Kept W) : KeptBy W (exec c s) := by
  cases c <;> simp [exec, hs]

theorem idle_kept {s : State} (hs : s.Kept W) : (idle s).Kept W := by
  unfold idle
  split <;> simp [hs]

theorem step_keptBy {s : State} (hs : s.Kept W) : KeptBy W (step s) := by
  unfold step
  split
  · exact (keptBy_next ..).mpr (idle_kept hs)
  · exact exec_keptBy _ (by simp [hs])

end
end Sys2Proof.Machine

open Sys2Proof Sys2Proof.Machine

/-- Settles O5: `State.Kept` with the memories watched is `MemOk`, and every step keeps it. -/
theorem stepKeepsMemory : Obligations.StepKeepsMemory := by
  intro s t hs ht
  exact State.kept_memOk.mp (step_keptBy (State.kept_memOk.mpr hs) t ht)

/-- Settles O6: `State.Kept` with the coded control fields watched is `ControlOk`, and every step keeps it. -/
theorem stepKeepsControl : Obligations.StepKeepsControl := by
  intro s t hs ht
  exact State.kept_controlOk.mp (step_keptBy (State.kept_controlOk.mpr hs) t ht)

end

section
/-!
What a ready word of stream F does: each operation of the flyer, where its fields, its record and its header are legal and nothing it reads is
poisoned, does its work (O20 to O23).
-/
namespace Sys2Proof.Machine
variable {s : State} {p : Nat} {q : QEntry}

theorem vop_ready {op useB rate : Nat} {f : F32 → F32 → F32 → F32} (h : Ready s p 3 q) (hop : isOp 0x18 121 118 op q.word = true)
    (hlegal : vopIllegal useB q.word = false)
    (hclean : Loc.clean (issuePos s p 3) (cdiv (vopN q.word) rate) 16 (vopIns op useB q.word) = true) :
    vop p s op useB rate f = .next (closePos s p
      ((issuePos s p 3).flyDo (cdiv (vopN q.word) rate) 16 (vopIns op useB q.word) (vopOut op useB f q.word))) := by
  rw [vop, issue_ready h hop]
  simp only [hlegal, Bool.false_eq_true, if_false, flyRun_clean hclean]

theorem vnorm_ready {op : Nat} {l : Loc} (h : Ready s p 3 q) (hop : isOp 0x19 121 121 op q.word = true) (hlegal : vnormBad q.word = false)
    (hl : l = (issuePos s p 3).scrub (flyPar q.word) 32) (hrec : l.poisonIn (flyPar q.word) 32 = none)
    (hok : normRecBad (op == 1) q.word (normRec (l.rdN (flyPar q.word) 32)) = false)
    (hclean : Loc.clean l (cdiv ((normRec (l.rdN (flyPar q.word) 32)).nr * (normRec (l.rdN (flyPar q.word) 32)).nc) 32) 24
      (normIns (op == 1) q.word (normRec (l.rdN (flyPar q.word) 32))) = true) :
    vnorm p s op = .next (closePos s p
      (l.flyDo (cdiv ((normRec (l.rdN (flyPar q.word) 32)).nr * (normRec (l.rdN (flyPar q.word) 32)).nc) 32) 24
        (normIns (op == 1) q.word (normRec (l.rdN (flyPar q.word) 32))) (normOut (op == 1) q.word (normRec (l.rdN (flyPar q.word) 32))))) := by
  subst hl
  rw [vnorm, issue_ready h hop]
  simp only [hlegal, hrec, hok, Bool.false_eq_true, if_false, flyRun_clean hclean]

theorem vsmax_ready {op : Nat} {f : QEntry → SmaxRec → Loc → Loc} {l : Loc} (h : Ready s p 3 q) (hop : isOp 0x1A 121 120 op q.word = true)
    (hlegal : vsmaxBad q.word = false) (hl : l = (issuePos s p 3).scrub (flyPar q.word) 64) (hrec : l.poisonIn (flyPar q.word) 64 = none)
    (hok : (smaxRec (l.rdN (flyPar q.word) 64)).ok = true) :
    vsmax p s op f = .next (closePos s p (f q (smaxRec (l.rdN (flyPar q.word) 64)) l)) := by
  subst hl
  rw [vsmax, issue_ready h hop]
  simp only [hlegal, hrec, hok, Bool.false_eq_true, if_false, if_true]

theorem vrand_ready {op : Nat} {out : Numeric → RandRec → KWord → Loc → Loc} {l : Loc} (h : Ready s p 3 q)
    (hop : isOp 0x1C 121 121 op q.word = true) (hlegal : vrandBad q.word = false) (hl : l = (issuePos s p 3).scrub (flyPar q.word) 64)
    (hrec : l.poisonIn (flyPar q.word) 64 = none) (hok : randRecBad op q.word (randRec (l.rdN (flyPar q.word) 64)) = false)
    (hclean : Loc.clean l (cdiv ((randRec (l.rdN (flyPar q.word) 64)).nr * (randRec (l.rdN (flyPar q.word) 64)).nc)
      (if fld q.word 120 120 = 0 then 128 else 16)) 24 (randIns op q.word (randRec (l.rdN (flyPar q.word) 64))) = true) :
    vrand p s op out = .next (closePos s p
      (l.flyDo (cdiv ((randRec (l.rdN (flyPar q.word) 64)).nr * (randRec (l.rdN (flyPar q.word) 64)).nc)
        (if fld q.word 120 120 = 0 then 128 else 16)) 24 (randIns op q.word (randRec (l.rdN (flyPar q.word) 64)))
        (out (numAt s p) (randRec (l.rdN (flyPar q.word) 64)) q.word))) := by
  subst hl
  rw [vrand, issue_ready h hop]
  simp only [hlegal, hrec, hok, Bool.false_eq_true, if_false, flyRun_clean hclean]

/-- A legal VOPT completes alone under the verdict of a non-finite step, and else takes its elements. -/
theorem vopt_ready {opt : Nat} {l : Loc} (h : Ready s p 3 q) (hop : isOp 0x1D 121 121 opt q.word = true) (hlegal : voptBad q.word = false)
    (hl : l = (issuePos s p 3).scrub (voPar q.word) 64) (hrec : l.poisonIn (voPar q.word) 64 = none)
    (hfmt : voBf q.word = false → (readHeader l (voHdr q.word)).fmt = 7 → bitOf q.word 120 = true)
    (hfault : voptFault (lnum s p) (readHeader l (voHdr q.word)) q.word = false)
    (hok : optRecBad s p (opt == 0) (optRec (l.rdN (voPar q.word) 64)) (readHeader l (voHdr q.word)) q.word = false) :
    vopt p s opt = .next (closePos s p (if (numAt s p).verdict then l.pop 3 (issueAt l 3) 1 (issueAt l 3 + 2) else
      l.flyRun s p q (cdiv (voN (readHeader l (voHdr q.word)) q.word) (if opt == 0 then 16 else 32)) 40
        (voIns (opt == 0) (optRec (l.rdN (voPar q.word) 64)) (readHeader l (voHdr q.word)) q.word)
        (optOut s p (opt == 0) (optRec (l.rdN (voPar q.word) 64)) (readHeader l (voHdr q.word)) q))) := by
  have hside : (!voBf q.word && (readHeader l (voHdr q.word)).fmt == 7 && !bitOf q.word 120) = false := by
    cases hb : voBf q.word
    · by_cases h7 : (readHeader l (voHdr q.word)).fmt = 7
      · simp [hfmt hb h7]
      · simp [h7]
    · simp
  subst hl
  rw [vopt, issue_ready h hop]
  simp only [hlegal, hrec, hside, hfault, hok, Bool.false_eq_true, if_false]

theorem execVquant_ready {l : Loc} {h : Header} (hq : Ready s p 3 q) (hcls : isCls 0x1B q.word = true) (hlegal : vquantBad q.word = false)
    (hl : l = (issuePos s p 3).scrub (vqHdr q.word) 64) (hh : h = readHeader l (vqHdr q.word)) (hfmt : h.fmt = 7 → bitOf q.word 119 = true)
    (hok : h.ok = true) (hin : inDist (vqSrc q.word) (vqBytes h q.word) = true) (hfault : vquantFault s p h q.word = false) :
    execVquant p s = .next (closePos s p (vquantDo s p q h l)) := by
  have hside : (h.fmt == 7 && !bitOf q.word 119) = false := by
    by_cases h7 : h.fmt = 7
    · simp [hfmt h7]
    · simp [h7]
  subst hl hh
  rw [execVquant, issue_ready hq hcls]
  simp only [hlegal, hside, hok, hin, hfault, Bool.not_true, Bool.false_eq_true, if_false]

end Sys2Proof.Machine

open Sys2Proof Sys2Proof.Machine

/-- Settles O20: each VOP through what a ready legal one does (`vop_ready`), SMARK through the rule of an issue. -/
theorem elementwiseCompletes : Obligations.ElementwiseCompletes := by
  refine ⟨?_, ?_, ?_, ?_, ?_, ?_, ?_, ?_⟩
  case refine_8 =>
    rintro s p q l h hop rfl hres hmark
    change execSmark p s = _
    rw [execSmark, issueW_ready h hop]
    simp only [hres, hmark, Bool.not_true, Bool.false_eq_true, if_false, Option.map_some, Option.getD_some]
  all_goals
    rintro s p q l h hop rfl hlegal hclean
    exact vop_ready h hop hlegal hclean

/-- Settles O21: VNORM through `vnorm_ready`, VSMAX through `vsmax_ready` and what its form does with a legal record. -/
theorem normAndSoftmaxComplete : Obligations.NormAndSoftmaxComplete := by
  refine ⟨?_, ?_, ?_, ?_, ?_⟩
  · intro s p q l h hop hlegal hl hrec hok hclean
    exact vnorm_ready h hop hlegal hl hrec hok hclean
  · intro s p q l h hop hlegal hl hrec hok hclean
    exact vnorm_ready h hop hlegal hl hrec hok hclean
  · rintro s p q l l₁ r h hq hop hlegal hl hrec rfl hok rfl rfl hbad hfault hform hclean
    change execVsmaxScore p s = _
    rw [execVsmaxScore, vsmax_ready hq hop hlegal hl hrec hok]
    simp only [hbad, hfault, hform, Bool.false_eq_true, if_false, flyRun_clean hclean]
  · intro s p q l h hop hlegal hl hrec hok hin hclean
    change execVsmaxMerge p s = _
    rw [execVsmaxMerge, vsmax_ready h hop hlegal hl hrec hok]
    simp only [hin, Bool.not_true, Bool.false_eq_true, if_false, flyRun_clean hclean]
  · intro s p q l h hop hlegal hl hrec hok hin hclean
    change execVsmaxFinal p s = _
    rw [execVsmaxFinal, vsmax_ready h hop hlegal hl hrec hok]
    simp only [hin, Bool.not_true, Bool.false_eq_true, if_false, flyRun_clean hclean]

/-- Settles O22: VQUANT through `execVquant_ready` and the poison it does not find, VRAND through `vrand_ready`. -/
theorem quantiseAndDrawComplete : Obligations.QuantiseAndDrawComplete := by
  refine ⟨?_, ?_, ?_⟩
  · rintro s p q l m h hq hcls hlegal hl hh hfmt hok hin hfault rfl hhdr hsrc
    refine (execVquant_ready hq hcls hlegal hl hh hfmt hok hin hfault).trans ?_
    rw [vquantDo]
    simp only [hhdr, hsrc]
  · intro s p q l h hop hlegal hl hrec hok hclean
    exact vrand_ready h hop hlegal hl hrec hok hclean
  · intro s p q l h hop hlegal hl hrec hok hclean
    exact vrand_ready h hop hlegal hl hrec hok hclean

/-- Settles O23: VOPT through `vopt_ready` in both verdicts, VLOSS and VCHECK through the rule of an issue. -/
theorem optimizerAndLossComplete : Obligations.OptimizerAndLossComplete := by
  refine ⟨?_, ?_, ?_, ?_, ?_⟩
  · rintro s p q l rc h hq hop hlegal hl hrec rfl rfl hfmt hfault hok
    have hdo := vopt_ready hq hop hlegal hl hrec hfmt hfault hok
    refine ⟨fun hv => ?_, fun hv hclean => ?_⟩
    · exact hdo.trans (by rw [if_pos hv])
    · exact hdo.trans (congrArg (fun l => Host.Outcome.next (closePos s p l)) ((if_neg (ne_true_of_eq_false hv)).trans (flyRun_clean hclean)))
  · rintro s p q l rc h hq hop hlegal hl hrec rfl rfl hfmt hfault hok
    have hdo := vopt_ready hq hop hlegal hl hrec hfmt hfault hok
    refine ⟨fun hv => ?_, fun hv hclean => ?_⟩
    · exact hdo.trans (by rw [if_pos hv])
    · exact hdo.trans (congrArg (fun l => Host.Outcome.next (closePos s p l)) ((if_neg (ne_true_of_eq_false hv)).trans (flyRun_clean hclean)))
  · rintro s p q l h hcls hlegal rfl hrec hok hclean
    change execVloss p s = _
    rw [execVloss, issue_ready h hcls]
    simp only [hlegal, hrec, hok, Bool.false_eq_true, if_false, flyRun_clean hclean]
  · rintro s p q l t c h hcls rfl hlegal hc ht
    change execVcheck p s = _
    rw [execVcheck, issueW_ready h hcls]
    simp only [hlegal, hc, ht, Bool.false_eq_true, if_false, Option.map_some, Option.getD_some]
  · rintro s p q l h hcls rfl hlegal hc
    change execVcheck p s = _
    rw [execVcheck, issueW_ready h hcls]
    simp only [hlegal, hc, Bool.false_eq_true, if_false, Option.map_some, Option.getD_some]

end

section
/-!
What the clock of a position leaves alone: reads, stores and writes that land change of its spindle only memory with its marks, the writes under
way, the counters and the count of outlier entries (`Spindle.core` is all else); a step of the clock moves the present and completes POPs
besides. With it what a change of one stream, half or feed port leaves of the others, and which positions exist.
-/
namespace Sys2Proof.Machine

/-! All but memory and counters -/

/-- A spindle but for the bytes of its distaff with their check bits and poison, the writes under way, the counters and the count of outliers. -/
def Spindle.core (sp : Spindle) : Spindle :=
  { sp with distaff := { sp.distaff with mem := [], poison := [], errs := [] }, pend := [], ctr := Counters.reset, outliers := 0 }

@[simp] theorem Loc.checked_core (l : Loc) (errs : List (Nat × Nat)) (poison : List Nat) (ctr : Counters) (evs : List Ev) :
    (l.checked errs poison ctr evs).sp.core = l.sp.core := rfl
@[simp] theorem Loc.setMem_core (l : Loc) (m : Mem) : (l.setMem m).sp.core = l.sp.core := rfl
@[simp] theorem Loc.setPend_core (l : Loc) (es : List Pend) : (l.setPend es).sp.core = l.sp.core := rfl
@[simp] theorem Loc.noted_core (l : Loc) (n : Nat) (nf : Bool) : (l.noted n nf).sp.core = l.sp.core := rfl
@[simp] theorem Loc.count_core (l : Loc) (f : Counters → Counters) : (l.count f).sp.core = l.sp.core := rfl
@[simp] theorem Loc.raise_core (l : Loc) (e : Ev) : (l.raise e).sp.core = l.sp.core := rfl
@[simp] theorem Loc.flag_core (l : Loc) : l.flag.sp.core = l.sp.core := rfl
@[simp] theorem Loc.push_core (l : Loc) (e : Pend) : (l.push e).sp.core = l.sp.core := rfl
@[simp] theorem Loc.tally_core (l : Loc) (t : Nat) : (l.tally t).sp.core = l.sp.core := rfl
@[simp] theorem Loc.mod_pend_core (l : Loc) (es : List Pend) : (l.mod fun p => { p with pend := es }).sp.core = l.sp.core := rfl

@[simp] theorem Loc.scrub_core (l : Loc) (a n : Nat) : (l.scrub a n).sp.core = l.sp.core := by
  obtain ⟨errs, poison, ctr, evs, heq⟩ := l.scrub_eq a n
  rw [heq, Loc.checked_core]

@[simp] theorem Loc.reading_core (l : Loc) (rs : List (Nat × Nat)) : (l.reading rs).sp.core = l.sp.core := by
  obtain ⟨errs, poison, ctr, evs, heq⟩ := l.reading_eq rs
  rw [heq, Loc.checked_core]

@[simp] theorem Loc.store_core (l : Loc) (a : Nat) (bs : List Byte) (pw : List Nat) : (l.store a bs pw).sp.core = l.sp.core := by
  obtain ⟨errs, poison, ctr, evs, heq⟩ := l.store_eq a bs pw
  rw [heq, Loc.checked_core, Loc.setMem_core]

@[simp] theorem Loc.landOne_core (l : Loc) (e : Pend) : (l.landOne e).sp.core = l.sp.core := by
  obtain ⟨errs, poison, ctr, evs, nf, n, g, -, heq⟩ := l.landOne_eq e
  rw [heq, Loc.checked_core, Loc.noted_core, Loc.setPend_core, Loc.setMem_core]

@[simp] theorem Loc.landN_core (n t : Nat) (l : Loc) : (l.landN n t).sp.core = l.sp.core := by
  induction n generalizing l with
  | zero => rfl
  | succ n ih =>
    rw [Loc.landN]
    split
    · split
      · rw [ih, Loc.landOne_core, Loc.mod_pend_core]
      · rfl
    · rfl

@[simp] theorem Loc.land_core (l : Loc) (t : Nat) : (l.land t).sp.core = l.sp.core := Loc.landN_core ..

@[simp] theorem Loc.flagW_core (l : Loc) : l.flagW.sp.core = l.sp.core := by
  unfold Loc.flagW
  split <;> simp

@[simp] theorem Loc.flagIf_core (l : Loc) (b : Bool) : (l.flagIf b).sp.core = l.sp.core := by
  unfold Loc.flagIf
  split <;> simp

@[simp] theorem Loc.wrP_core (l : Loc) (a : Nat) (bs : List Byte) (pw : List Nat) : (l.wrP a bs pw).sp.core = l.sp.core := by
  unfold Loc.wrP
  split
  · simp
  · split <;> simp

@[simp] theorem Loc.wr_core (l : Loc) (a : Nat) (bs : List Byte) : (l.wr a bs).sp.core = l.sp.core := Loc.wrP_core ..
@[simp] theorem Loc.wrG_core (l : Loc) (a : Nat) (bs : List Byte) (gs : List Nat) : (l.wrG a bs gs).sp.core = l.sp.core := Loc.wrP_core ..
@[simp] theorem Loc.wr32_core (l : Loc) (a : Nat) (v : F32) : (l.wr32 a v).sp.core = l.sp.core := Loc.wr_core ..
@[simp] theorem Loc.wr16_core (l : Loc) (a : Nat) (v : B16) : (l.wr16 a v).sp.core = l.sp.core := Loc.wr_core ..

/-- Writes that become visible later leave what writing at once leaves. -/
theorem Loc.seenAt_core {f : Loc → Loc} (hf : ∀ l, (f l).sp.core = l.sp.core) (l : Loc) (t : Nat) : (l.seenAt t f).sp.core = l.sp.core :=
  hf { l with late := some t }

theorem foldl_core {α : Type} {f : Loc → α → Loc} (hf : ∀ l a, (f l a).sp.core = l.sp.core) (xs : List α) (l : Loc) :
    (xs.foldl f l).sp.core = l.sp.core :=
  foldl_keeps (fun l => l.sp.core) hf xs l

/-! What equal cores have in common -/

section
variable {a b : Spindle} (h : a.core = b.core)
include h

theorem Spindle.streams_of_core : a.streams = b.streams := (congrArg Spindle.streams h :)
theorem Spindle.whorl_of_core : a.whorl = b.whorl := (congrArg Spindle.whorl h :)
theorem Spindle.hank_of_core : a.hank = b.hank := (congrArg Spindle.hank h :)
theorem Spindle.clock_of_core : a.clock = b.clock := (congrArg Spindle.clock h :)
theorem Spindle.carder_of_core : a.carder = b.carder := (congrArg Spindle.carder h :)
theorem Spindle.sems_of_core : a.sems = b.sems := (congrArg Spindle.sems h :)
theorem Spindle.sigs_of_core : a.sigs = b.sigs := (congrArg Spindle.sigs h :)

end

@[simp] theorem Loc.land_streams (l : Loc) (t : Nat) : (l.land t).sp.streams = l.sp.streams := Spindle.streams_of_core (l.land_core t)
@[simp] theorem Loc.land_whorl (l : Loc) (t : Nat) : (l.land t).sp.whorl = l.sp.whorl := Spindle.whorl_of_core (l.land_core t)
@[simp] theorem Loc.land_hank (l : Loc) (t : Nat) : (l.land t).sp.hank = l.sp.hank := Spindle.hank_of_core (l.land_core t)
@[simp] theorem Loc.land_clock (l : Loc) (t : Nat) : (l.land t).sp.clock = l.sp.clock := Spindle.clock_of_core (l.land_core t)
@[simp] theorem Loc.land_carder (l : Loc) (t : Nat) : (l.land t).sp.carder = l.sp.carder := Spindle.carder_of_core (l.land_core t)
@[simp] theorem Loc.scrub_streams (l : Loc) (a n : Nat) : (l.scrub a n).sp.streams = l.sp.streams := Spindle.streams_of_core (l.scrub_core a n)

/-! A step of the clock -/

/-- A step of the clock moves the present, lets POPs complete and, of the core, changes nothing else. -/
theorem Loc.at_core (l : Loc) (t : Nat) : (l.at_ t).sp.core =
    { l.sp.core with hank := l.sp.hank.settle (max l.sp.clock.lc t), clock := { l.sp.clock with lc := max l.sp.clock.lc t } } := by
  have h : ((l.tally (max l.sp.clock.lc t)).land (max l.sp.clock.lc t)).sp.core = l.sp.core := by rw [Loc.land_core, Loc.tally_core]
  calc (l.at_ t).sp.core
    _ = { ((l.tally (max l.sp.clock.lc t)).land (max l.sp.clock.lc t)).sp.core with
          hank := ((l.tally (max l.sp.clock.lc t)).land (max l.sp.clock.lc t)).sp.core.hank.settle (max l.sp.clock.lc t)
          clock := { ((l.tally (max l.sp.clock.lc t)).land (max l.sp.clock.lc t)).sp.core.clock with lc := max l.sp.clock.lc t } } := rfl
    _ = _ := by rw [h]; rfl

@[simp] theorem Loc.at_streams (l : Loc) (t : Nat) : (l.at_ t).sp.streams = l.sp.streams := (congrArg Spindle.streams (l.at_core t) :)
@[simp] theorem Loc.at_whorl (l : Loc) (t : Nat) : (l.at_ t).sp.whorl = l.sp.whorl := (congrArg Spindle.whorl (l.at_core t) :)
@[simp] theorem Loc.at_sems (l : Loc) (t : Nat) : (l.at_ t).sp.sems = l.sp.sems := (congrArg Spindle.sems (l.at_core t) :)
@[simp] theorem Loc.at_sigs (l : Loc) (t : Nat) : (l.at_ t).sp.sigs = l.sp.sigs := (congrArg Spindle.sigs (l.at_core t) :)
@[simp] theorem Loc.at_carder (l : Loc) (t : Nat) : (l.at_ t).sp.carder = l.sp.carder := (congrArg Spindle.carder (l.at_core t) :)
@[simp] theorem Loc.at_hank (l : Loc) (t : Nat) : (l.at_ t).sp.hank = l.sp.hank.settle (max l.sp.clock.lc t) :=
  (congrArg Spindle.hank (l.at_core t) :)
@[simp] theorem Loc.at_clock (l : Loc) (t : Nat) : (l.at_ t).sp.clock = { l.sp.clock with lc := max l.sp.clock.lc t } :=
  (congrArg Spindle.clock (l.at_core t) :)

/-! One stream, half or feed port -/

theorem strmOf_strm (l : Loc) (k i : Nat) (f : Stream → Stream) :
    strmOf (l.strm k f).sp i = if k = i ∧ i < l.sp.streams.length then f (strmOf l.sp i) else strmOf l.sp i := modAt_getD ..

theorem strmOf_strm_self {l : Loc} {k : Nat} (h : k < l.sp.streams.length) (f : Stream → Stream) :
    strmOf (l.strm k f).sp k = f (strmOf l.sp k) := modAt_getD_self _ _ _ _ h

theorem strmOf_strm_ne {k i : Nat} (h : i ≠ k) (l : Loc) (f : Stream → Stream) : strmOf (l.strm k f).sp i = strmOf l.sp i :=
  modAt_getD_ne _ _ _ _ _ h.symm

theorem halfOf_half_self {l : Loc} {h : Nat} (hh : h < l.sp.whorl.halves.length) (f : Half → Half) :
    halfOf (l.half h f).sp h = f (halfOf l.sp h) := modAt_getD_self _ _ _ _ hh

theorem halfOf_half_ne {h i : Nat} (hi : i ≠ h) (l : Loc) (f : Half → Half) : halfOf (l.half h f).sp i = halfOf l.sp i :=
  modAt_getD_ne _ _ _ _ _ hi.symm

theorem portOf_fport_self {l : Loc} {n : Nat} (hn : n < l.sp.whorl.ports.length) (f : FeedPort → FeedPort) :
    portOf (l.fport n f).sp n = f (portOf l.sp n) := modAt_getD_self _ _ _ _ hn

theorem portOf_fport_ne {n i : Nat} (hi : i ≠ n) (l : Loc) (f : FeedPort → FeedPort) : portOf (l.fport n f).sp i = portOf l.sp i :=
  modAt_getD_ne _ _ _ _ _ hi.symm

@[simp] theorem strmOf_land (l : Loc) (t k : Nat) : strmOf (l.land t).sp k = strmOf l.sp k := by rw [strmOf, Loc.land_streams]; rfl
@[simp] theorem strmOf_at (l : Loc) (t k : Nat) : strmOf (l.at_ t).sp k = strmOf l.sp k := by rw [strmOf, Loc.at_streams]; rfl
@[simp] theorem halfOf_land (l : Loc) (t h : Nat) : halfOf (l.land t).sp h = halfOf l.sp h := by rw [halfOf, Loc.land_whorl]; rfl
@[simp] theorem halfOf_at (l : Loc) (t h : Nat) : halfOf (l.at_ t).sp h = halfOf l.sp h := by rw [halfOf, Loc.at_whorl]; rfl
@[simp] theorem strmOf_scrub (l : Loc) (a n k : Nat) : strmOf (l.scrub a n).sp k = strmOf l.sp k := by rw [strmOf, Loc.scrub_streams]; rfl

/-- An issue changes one stream and the clock. -/
@[simp] theorem Loc.pop_whorl (l : Loc) (k t occ done : Nat) : (l.pop k t occ done).sp.whorl = l.sp.whorl := Loc.at_whorl l t

@[simp] theorem issueAt_land (l : Loc) (t k : Nat) : issueAt (l.land t) k = issueAt l k := by simp [issueAt]
@[simp] theorem engineIdle_land (l : Loc) (t k : Nat) : engineIdle (l.land t).sp k = engineIdle l.sp k := by
  unfold engineIdle
  have hreel : (l.land t).sp.reeler = l.sp.reeler := (congrArg Spindle.reeler (l.land_core t) :)
  split <;> simp [hreel]

@[simp] theorem openPos_sp (s : State) (p : Nat) : (openPos s p).sp = spAt s p := rfl
@[simp] theorem issuePos_streams (s : State) (p k : Nat) : (issuePos s p k).sp.streams = (spAt s p).streams := Loc.land_streams ..
@[simp] theorem issuePos_whorl (s : State) (p k : Nat) : (issuePos s p k).sp.whorl = (spAt s p).whorl := Loc.land_whorl ..
@[simp] theorem issuePos_hank (s : State) (p k : Nat) : (issuePos s p k).sp.hank = (spAt s p).hank := Loc.land_hank ..
@[simp] theorem issuePos_clock (s : State) (p k : Nat) : (issuePos s p k).sp.clock = (spAt s p).clock := Loc.land_clock ..
@[simp] theorem strmOf_issuePos (s : State) (p k i : Nat) : strmOf (issuePos s p k).sp i = strmOf (spAt s p) i := strmOf_land ..
@[simp] theorem halfOf_issuePos (s : State) (p k h : Nat) : halfOf (issuePos s p k).sp h = halfOf (spAt s p) h := halfOf_land ..
@[simp] theorem engineIdle_issuePos (s : State) (p k i : Nat) : engineIdle (issuePos s p k).sp i = engineIdle (spAt s p) i := engineIdle_land ..
@[simp] theorem issueAt_issuePos (s : State) (p k i : Nat) : issueAt (issuePos s p k) i = issueAt (openPos s p) i := issueAt_land ..

/-! Places of a list, with a value for those that it does not have -/

theorem getD_of_length_le {α : Type} {xs : List α} {n : Nat} (h : xs.length ≤ n) (d : α) : xs.getD n d = d := by
  rw [List.getD_eq_getElem?_getD, List.getElem?_eq_none h]
  rfl

theorem getD_map {α β : Type} (f : α → β) (xs : List α) (n : Nat) (d : α) : (xs.map f).getD n (f d) = f (xs.getD n d) := by
  rw [List.getD_eq_getElem?_getD, List.getD_eq_getElem?_getD, List.getElem?_map, Option.getD_map]

/-! Positions and streams that exist -/

/-- A position that the block does not have reads as one after reset. -/
theorem spAt_of_le {s : State} {p : Nat} (h : s.spindles.length ≤ p) : spAt s p = Spindle.reset := by
  rw [spAt, List.getD_eq_getElem?_getD, List.getElem?_eq_none h]; rfl

theorem strmOf_reset (k : Nat) : strmOf Spindle.reset k = Stream.reset := by
  change (List.replicate 6 Stream.reset).getD k Stream.reset = Stream.reset
  rw [List.getD_eq_getElem?_getD, List.getElem?_replicate]
  split <;> rfl

/-- A stream that differs from one after reset is one that a position of the block has. -/
theorem exists_of_strmOf_ne {s : State} {p k : Nat} (h : strmOf (spAt s p) k ≠ Stream.reset) :
    p < s.spindles.length ∧ k < (spAt s p).streams.length := by
  constructor
  · refine Decidable.byContradiction fun hp => ?_
    exact h (by rw [spAt_of_le (Nat.le_of_not_lt hp), strmOf_reset])
  · refine Decidable.byContradiction fun hk => ?_
    exact h (by rw [strmOf, List.getD_eq_getElem?_getD, List.getElem?_eq_none (Nat.le_of_not_lt hk)]; rfl)

/-- A word at the head of a stream is one of a stream and a position that exist. -/
theorem exists_of_head {s : State} {p k : Nat} {q : QEntry} (h : (strmOf (spAt s p) k).queue.head? = some q) :
    p < s.spindles.length ∧ k < (spAt s p).streams.length :=
  exists_of_strmOf_ne fun hr => by rw [hr] at h; cases h

theorem exists_of_ready {s : State} {p k : Nat} {q : QEntry} (h : Ready s p k q) : p < s.spindles.length ∧ k < (spAt s p).streams.length :=
  exists_of_head h.2.2.1

end Sys2Proof.Machine
end

section
/-!
Commands of one position (O7): each answers what a step of its position leaves (`closesAt_exec`), and a step of a position stays confined to it.
-/
namespace Sys2Proof.Machine

/-! What the events of a step bring -/

/-- What an event of a position's step leaves as it was of jobs, pins and the host interface. -/
def State.eventless (s : State) : List Job × Pins × Hif :=
  (s.jobs.map jobCore, { s.pins with alert := false }, { s.hif with due := [], alerts := [] })

theorem map_modAt_of_eq {α β : Type} (l : List α) (i : Nat) {f : α → α} {g : α → β} (h : ∀ x, g (f x) = g x) : (modAt l i f).map g = l.map g := by
  refine List.ext_getElem? fun k => ?_
  rw [List.getElem?_map, List.getElem?_map, modAt_getElem?]
  split
  · rw [Option.map_map]
    exact congrArg (Option.map · _) (funext h)
  · rfl

@[simp] theorem alertFor_eventless (s : State) (code body : Nat) : (alertFor s code body).eventless = s.eventless := by
  unfold alertFor
  split <;> rfl

@[simp] theorem postEv_eventless (s : State) (e : Ev) (j lnum p : Option Nat) : (postEv s e j lnum p).eventless = s.eventless :=
  alertFor_eventless ..

theorem modJob_eventless (s : State) (j : Nat) {f : Job → Job} (h : ∀ b, jobCore (f b) = jobCore b) : (modJob s j f).eventless = s.eventless := by
  rw [State.eventless, State.eventless, modJob, map_modAt_of_eq _ _ h]

@[simp] theorem faultJob_eventless (s : State) (j code : Nat) (stop all : Bool) : (faultJob s j code stop all).eventless = s.eventless :=
  modJob_eventless _ _ fun _ => rfl

@[simp] theorem raiseAt_eventless (s : State) (p : Nat) (e : Ev) : (raiseAt s p e).eventless = s.eventless := by
  unfold raiseAt
  dsimp only
  split
  · split
    · simp
    · rw [faultJob_eventless, postEv_eventless]
  · simp

@[simp] theorem setNf_eventless (s : State) (p : Nat) : (setNf s p).eventless = s.eventless := by
  unfold setNf
  split
  · exact modJob_eventless _ _ fun _ => rfl
  · rfl

@[simp] theorem tallyChan_eventless (s : State) (p : Nat) (l : Loc) : (tallyChan s p l).eventless = s.eventless := by
  unfold tallyChan
  split
  · dsimp only
    split <;> rfl
  · rfl

@[simp] theorem closePos_eventless (s : State) (p : Nat) (l : Loc) : (closePos s p l).eventless = s.eventless := by
  unfold closePos
  dsimp only
  rw [foldl_keeps State.eventless fun s e => raiseAt_eventless s p e]
  split
  · exact (setNf_eventless ..).trans (tallyChan_eventless s p l)
  · exact tallyChan_eventless s p l

/-! A step stays confined to its position -/

theorem confined_closePos (s : State) (p : Nat) (l : Loc) : Confined p s (closePos s p l) := by
  obtain ⟨hjobs, hpins, hhif⟩ : _ ∧ _ ∧ _ := by simpa only [State.eventless, Prod.mk.injEq] using closePos_eventless s p l
  refine ⟨fun x hx => closePos_spAt_ne s p x l hx, ?_, ?_, ?_, ?_, ?_, ?_, ?_, ?_, ?_, ?_, ?_, ?_, ?_, ?_, hjobs, hpins, hhif⟩
  all_goals simp

/-- Stall counts of channels alone. -/
theorem tallyChan_ports_map (s : State) (p : Nat) (l : Loc) :
    (tallyChan s p l).ports.map (fun x => { x with chStall := [] }) = s.ports.map fun x => { x with chStall := [] } := by
  unfold tallyChan
  split
  · dsimp only
    split
    · rfl
    · exact map_modAt_of_eq _ _ fun _ => rfl
  · rfl

theorem closePos_ports_map (s : State) (p : Nat) (l : Loc) :
    (closePos s p l).ports.map (fun x => { x with chStall := [] }) = s.ports.map fun x => { x with chStall := [] } := by
  rw [← tallyChan_ports_map s p l]
  unfold closePos
  dsimp only
  rw [foldl_keeps State.ports fun s e => raiseAt_ports s p e]
  split <;> simp

/-! Commands of one position -/

/-- Every next state of the answer is what a step of position p leaves. -/
def ClosesAt (s : State) (p : Nat) (o : Out) : Prop := ∀ t, o = .next t → ∃ l, t = closePos s p l

@[simp] theorem closesAt_closePos (s : State) (p : Nat) (l : Loc) : ClosesAt s p (.next (closePos s p l)) :=
  fun _ ht => ⟨l, (Host.Outcome.next.inj ht).symm⟩

@[simp] theorem closesAt_self (s : State) (p : Nat) : ClosesAt s p (.next s) := fun _ ht =>
  ⟨openPos s p, by rw [closePos_open, Host.Outcome.next.inj ht]⟩

@[simp] theorem closesAt_fault (s : State) (p : Nat) (f : Fault) : ClosesAt s p (.fault f) := fun _ ht => by cases ht

@[simp] theorem closesAt_ite (s : State) (p : Nat) (c : Prop) [Decidable c] (a b : Out) :
    ClosesAt s p (if c then a else b) ↔ (c → ClosesAt s p a) ∧ (¬ c → ClosesAt s p b) := by
  split <;> simp [*]

@[simp] theorem closesAt_issueW (s : State) (p k : Nat) (want : KWord → Bool) (body : QEntry → Loc → Option Loc) :
    ClosesAt s p (issueW s p k want body) := by
  intro t ht
  obtain rfl | ⟨q, l, -, -, rfl⟩ := issueW_next ht
  · exact closesAt_self _ p _ rfl
  · exact ⟨l, rfl⟩

@[simp] theorem closesAt_issue (s : State) (p k : Nat) (want : KWord → Bool) (body : QEntry → Loc → Loc) :
    ClosesAt s p (issue s p k want body) := closesAt_issueW s p k want _

@[simp] theorem closesAt_onPos (s : State) (p : Nat) (f : Loc → Loc) : ClosesAt s p (onPos s p f) := by
  unfold onPos
  split
  · exact closesAt_closePos s p _
  · exact closesAt_fault s p _
theorem closesAt_execChankPush (p : Nat) (s : State) : ClosesAt s p (execChankPush p s) := by
  unfold execChankPush
  split <;> simp

theorem closesAt_exec {c : Instr} {p : Nat} (h : localPos c = some p) (s : State) : ClosesAt s p (exec c s) := by
  cases c <;> simp only [localPos, reduceCtorEq, Option.some.injEq] at h <;> subst h <;>
    simp [exec, execDly, execJump, execLoop, execSwait, execSwaitTimeout, execSsig, execSsigAct, execFaultMarkerDispatch, execTreadleFetch,
      execFetchLineArrival, execMload, execMstream, execMshape, execMsplit, execPromotion, drainIssue, dataIssue, execMdrainSetup, execMdrainSwap,
      execMdrainDrain, execMdrainSpill, execMdrainResume, execDataOpStart, execTfeed, execFeedWordEnter, execTtransTranspose, execTtransFmask,
      execTrot, execTsample, vop, execVopAdd, execVopMul, execVopFma, execVopScale, execVopCopy, execVopExp, execVopSilu, execSmark, vnorm,
      execVnormRms, execVnormLayer, vsmax, execVsmaxScore, execVsmaxMerge, execVsmaxFinal, execVquant, vrand, execVrandDrop, execVrandBits, vopt,
      execVoptAdam, execVoptSgd, execVloss, execVcheck, execDistaffScrub, closesAt_execChankPush, execChankPop, hankTimeout, execHankPushTimeout,
      execHankPopTimeout, execHankMoverStart, execHankSpillComplete, execHankRefillComplete, execRarm, execRclose, execRcloseConvert,
      execFrameSkipEnd]

end Sys2Proof.Machine

open Sys2Proof Sys2Proof.Machine

/-- Settles O7: a command of one position answers what a step of it leaves, and that is confined to it. -/
theorem localCommandsStayConfined : Obligations.LocalCommandsStayConfined := by
  intro c p s t hc ht
  obtain ⟨l, rfl⟩ := closesAt_exec hc s t ht
  exact ⟨confined_closePos s p l, closePos_ports s p l, closePos_ports_map s p l⟩

end

section
/-!
Commands that store nothing to their distaff (O8): the frame of one byte, and that each of them keeps every frame.
-/
namespace Sys2Proof.Machine

/-- The frame of the byte at `a` of position p as the state has it: once the writes under way have landed where no copy goes to it, and now where
no write does. -/
def byteFrame (s : State) (p a : Nat) : ByteFrame :=
  { live := True
    soon := fun x b => Uncopied s p a ∧ x = a ∧ b = soonByte s p a
    now := fun x b => Settled s p a ∧ x = a ∧ b = distByte s p a }

/-- The distaffs of a state whose memories are canonical are canonical. -/
theorem distaff_wf {s : State} (h : MemOk s) (p : Nat) : Memory.wf (spAt s p).distaff.mem = true := by
  have hkept : (openPos s p).Keeps (ByteFrame.canon True) := openPos_keeps (State.kept_memOk.mpr h) p
  exact ByteFrame.canon_holds.mp hkept trivial

/-- A step starts with the frame of each byte. -/
theorem openPos_keeps_byteFrame {s : State} (h : MemOk s) (p a : Nat) : (openPos s p).Keeps (byteFrame s p a) := by
  intro _
  refine ⟨distaff_wf h p, ?_, ?_⟩
  · rintro x b ⟨hu, rfl, rfl⟩
    exact ⟨hu, rfl⟩
  · rintro x b ⟨hset, rfl, rfl⟩
    exact ⟨hset, rfl⟩

/-- A step of a position that keeps the frame of a byte leaves it as that frame says. -/
theorem closePos_byte {s : State} {p a : Nat} {l : Loc} (h : l.Keeps (byteFrame s p a)) :
    (Uncopied s p a → soonByte (closePos s p l) p a = soonByte s p a) ∧
    (Settled s p a → distByte (closePos s p l) p a = distByte s p a) := by
  by_cases hp : p < s.spindles.length
  · obtain ⟨-, hsoon, hnow⟩ := h trivial
    rw [soonByte, distByte, closePos_spAt s p l hp]
    exact ⟨fun hu => (hsoon a _ ⟨hu, rfl, rfl⟩).2, fun hs => (hnow a _ ⟨hs, rfl, rfl⟩).2⟩
  · rw [soonByte, distByte, closePos_spAt_out s p p l (Nat.le_of_not_lt hp)]
    exact ⟨fun _ => rfl, fun _ => rfl⟩

/-- A command that stores nothing keeps every frame. -/
theorem exec_closes_of_storeless {F : ByteFrame} {c : Instr} {s : State} {p : Nat} (hc : storelessPos c = some p)
    (hs : (openPos s p).Keeps F) : Closes F s p (exec c s) := by
  cases c <;> simp only [storelessPos, reduceCtorEq, Option.some.injEq] at hc <;> subst hc <;> simp [exec, hs]

end Sys2Proof.Machine

open Sys2Proof Sys2Proof.Machine

/-- Settles O8: a command that stores nothing keeps the frame of each byte of its distaff. -/
theorem storelessCommandsKeepTheDistaff : Obligations.StorelessCommandsKeepTheDistaff := by
  intro c p s t a hmem hc ht
  obtain ⟨l, hl, rfl⟩ := exec_closes_of_storeless hc (openPos_keeps_byteFrame hmem p a) t ht
  exact (closePos_byte hl).symm

end

section
/-!
What the operations of the flyer leave alone (O24, O25): of its position a word of stream F changes memory with its marks and writes under way,
the counters, stream F, the present and the POPs that complete (`FlyerLeaves`), and it stores only where its word or its record says.
-/
namespace Sys2Proof.Machine

/-! The count of outlier entries -/

@[simp] theorem Loc.scrub_outliers (l : Loc) (a n : Nat) : (l.scrub a n).sp.outliers = l.sp.outliers := by
  obtain ⟨errs, poison, ctr, evs, heq⟩ := l.scrub_eq a n
  rw [heq]; rfl

@[simp] theorem Loc.reading_outliers (l : Loc) (rs : List (Nat × Nat)) : (l.reading rs).sp.outliers = l.sp.outliers := by
  obtain ⟨errs, poison, ctr, evs, heq⟩ := l.reading_eq rs
  rw [heq]; rfl

theorem Loc.outliers_le_landOne (l : Loc) (e : Pend) : l.sp.outliers ≤ (l.landOne e).sp.outliers := by
  obtain ⟨errs, poison, ctr, evs, nf, n, g, -, heq⟩ := l.landOne_eq e
  rw [heq]
  exact Nat.le_add_right ..

theorem Loc.outliers_le_landN (n t : Nat) (l : Loc) : l.sp.outliers ≤ (l.landN n t).sp.outliers := by
  induction n generalizing l with
  | zero => exact Nat.le_refl _
  | succ n ih =>
    rw [Loc.landN]
    split
    · next e rest _ =>
      split
      · exact Nat.le_trans (Loc.outliers_le_landOne (l.mod fun p => { p with pend := rest }) e) (ih _)
      · exact Nat.le_refl _
    · exact Nat.le_refl _

theorem Loc.outliers_le_land (l : Loc) (t : Nat) : l.sp.outliers ≤ (l.land t).sp.outliers := Loc.outliers_le_landN ..
theorem Loc.outliers_le_at (l : Loc) (t : Nat) : l.sp.outliers ≤ (l.at_ t).sp.outliers := Loc.outliers_le_land (l.tally _) _

/-! What an operation of the flyer leaves -/

/-- From the spindle a to b only memory with its marks, the writes under way and the counters have changed. -/
def Spindle.Calm (a b : Spindle) : Prop := b.core = a.core ∧ a.outliers ≤ b.outliers

/-- From the spindle a to b only what the flyer owns has changed. -/
structure FlyerLeaves (a b : Spindle) : Prop where
  core : ∃ f t, b.core =
    { a.core with streams := modAt a.streams 3 f, hank := a.hank.settle t, clock := { a.clock with lc := t } }
  outliers : a.outliers ≤ b.outliers

theorem Spindle.Calm.refl (a : Spindle) : a.Calm a := ⟨rfl, Nat.le_refl _⟩

theorem Spindle.Calm.trans {a b c : Spindle} (h : a.Calm b) (h' : b.Calm c) : a.Calm c := ⟨h'.1.trans h.1, Nat.le_trans h.2 h'.2⟩

theorem FlyerLeaves.calm {a b c : Spindle} (h : FlyerLeaves a b) (h' : b.Calm c) : FlyerLeaves a c where
  core := by
    obtain ⟨f, t, heq⟩ := h.core
    exact ⟨f, t, h'.1.trans heq⟩
  outliers := Nat.le_trans h.outliers h'.2

theorem issuePos_calm (s : State) (p k : Nat) : (spAt s p).Calm (issuePos s p k).sp := ⟨Loc.land_core .., (openPos s p).outliers_le_land _⟩
theorem Loc.scrub_calm (l : Loc) (a n : Nat) : l.sp.Calm (l.scrub a n).sp := ⟨l.scrub_core a n, Nat.le_of_eq (l.scrub_outliers a n).symm⟩
theorem Loc.reading_calm (l : Loc) (rs : List (Nat × Nat)) : l.sp.Calm (l.reading rs).sp := ⟨l.reading_core rs, Nat.le_of_eq (l.reading_outliers rs).symm⟩

theorem modAt_comp {α : Type} (l : List α) (i : Nat) (f g : α → α) : modAt (modAt l i f) i g = modAt l i fun x => g (f x) := by
  refine List.ext_getElem? fun k => ?_
  simp only [modAt_getElem?]
  split
  · rw [Option.map_map]; rfl
  · rfl

/-- A change of stream F. -/
theorem FlyerLeaves.strm {a : Spindle} {l : Loc} (h : FlyerLeaves a l.sp) (g : Stream → Stream) : FlyerLeaves a (l.strm 3 g).sp where
  core := by
    obtain ⟨f, t, heq⟩ := h.core
    refine ⟨fun x => g (f x), t, ?_⟩
    calc (l.strm 3 g).sp.core
      _ = { l.sp.core with streams := modAt l.sp.core.streams 3 g } := rfl
      _ = _ := by
        rw [heq]
        exact congrArg (fun xs => { a.core with streams := xs, hank := a.hank.settle t, clock := { a.clock with lc := t } }) (modAt_comp ..)
  outliers := h.outliers

theorem FlyerLeaves.kill {a : Spindle} {l : Loc} (h : FlyerLeaves a l.sp) : FlyerLeaves a (l.kill 3).sp := h.strm _

/-- A step of the clock. -/
theorem Spindle.Calm.at_ {a : Spindle} {l : Loc} (h : a.Calm l.sp) (t : Nat) : FlyerLeaves a (l.at_ t).sp where
  core := by
    refine ⟨id, max l.sp.clock.lc t, ?_⟩
    have hstreams : modAt a.streams 3 id = a.streams := by
      refine List.ext_getElem? fun k => ?_
      rw [modAt_getElem?]
      split <;> simp
    rw [hstreams]
    calc (l.at_ t).sp.core
      _ = { l.sp.core with hank := l.sp.core.hank.settle (max l.sp.clock.lc t), clock := { l.sp.core.clock with lc := max l.sp.clock.lc t } } :=
        l.at_core t
      _ = _ := by rw [h.1]; rfl
  outliers := Nat.le_trans h.2 (l.outliers_le_at t)

theorem Spindle.Calm.pop {a : Spindle} {l : Loc} (h : a.Calm l.sp) (t occ done : Nat) : FlyerLeaves a (l.pop 3 t occ done).sp := (h.at_ t).strm _

theorem Spindle.Calm.reject {a : Spindle} {l : Loc} (h : a.Calm l.sp) (code da db : Nat) (q : QEntry) : FlyerLeaves a (l.reject 3 code da db q).sp :=
  (h.pop ..).kill

theorem FlyerLeaves.consume {a : Spindle} {l : Loc} (h : FlyerLeaves a l.sp) (s : State) (p : Nat) (q : QEntry) (off : Nat) :
    FlyerLeaves a (l.consume s p 3 q off).sp := h.kill

/-- An operation whose work changes only memory with its marks, the writes under way and the counters. -/
theorem Spindle.Calm.flyRun {a : Spindle} {l : Loc} (h : a.Calm l.sp) (s : State) (p : Nat) (q : QEntry) (occ late : Nat) (rs : List (Nat × Nat))
    {f : Loc → Loc} (hf : ∀ l : Loc, l.sp.Calm (f l).sp) : FlyerLeaves a (l.flyRun s p q occ late rs f).sp := by
  have hread : FlyerLeaves a ((l.fly occ late).reading rs).sp := FlyerLeaves.calm (h.pop ..) (Loc.reading_calm ..)
  unfold Loc.flyRun
  split
  · exact hread.consume s p q _
  · exact hread.calm (hf { (l.fly occ late).reading rs with late := some (flyDone l occ late) })

theorem FlyerLeaves.flyerKeeps {s t : State} {p : Nat} (h : FlyerLeaves (spAt s p) (spAt t p)) : FlyerKeeps p s t := by
  obtain ⟨⟨f, u, hcore⟩, hout⟩ := h
  have hlc : (spAt t p).clock.lc = u := (congrArg (fun sp => sp.clock.lc) hcore :)
  have hclock : { (spAt t p).clock with lc := (spAt s p).clock.lc } = (spAt s p).clock :=
    (congrArg (fun sp => { sp.clock with lc := (spAt s p).clock.lc }) hcore :)
  have hstreams : (spAt t p).streams = modAt (spAt s p).streams 3 f := (congrArg Spindle.streams hcore :)
  refine ⟨(congrArg Spindle.sems hcore :), (congrArg Spindle.sigs hcore :), (congrArg Spindle.whorl hcore :), (congrArg Spindle.carder hcore :),
    .inr ?_, (congrArg Spindle.reeler hcore :), (congrArg (fun sp => sp.distaff.full) hcore :), (congrArg (fun sp => sp.distaff.scrub) hcore :),
    (congrArg Spindle.skipping hcore :), (congrArg Spindle.service hcore :), (congrArg Spindle.fetchFree hcore :),
    (congrArg Spindle.syncErr hcore :), (congrArg Spindle.marked hcore :), (congrArg Spindle.halfRun hcore :),
    (congrArg Spindle.fendPhase hcore :), hout, hclock, fun k hk => ?_⟩
  · rw [hlc]
    exact (congrArg Spindle.hank hcore :)
  · rw [strmOf, hstreams, modAt_getD_ne _ _ _ _ _ hk.symm]; rfl

theorem flyerKeeps_refl (p : Nat) (s : State) : FlyerKeeps p s s :=
  ⟨rfl, rfl, rfl, rfl, .inl rfl, rfl, rfl, rfl, rfl, rfl, rfl, rfl, rfl, rfl, rfl, Nat.le_refl _, rfl, fun _ _ => rfl⟩

/-! Bytes outside ranges -/

theorem byteFrame_apart {s : State} {p a off n : Nat} (h : a < off ∨ off + n ≤ a) : (byteFrame s p a).Apart off n := by
  rintro x b (⟨-, rfl, -⟩ | ⟨-, rfl, -⟩) <;> exact h

theorem bytesOutside_refl (rs : List (Nat × Nat)) (p : Nat) (s : State) : BytesOutside rs p s s := fun _ _ => ⟨fun _ => rfl, fun _ => rfl⟩

/-- A step that stores only in some ranges changes no byte outside them. -/
theorem bytesOutside_closePos {rs : List (Nat × Nat)} {s : State} {p : Nat} {l : Loc}
    (h : ∀ a, (∀ r ∈ rs, (byteFrame s p a).Apart r.1 r.2) → l.Keeps (byteFrame s p a)) : BytesOutside rs p s (closePos s p l) :=
  fun a ha => closePos_byte (h a fun r hr => byteFrame_apart (ha r hr))

/-- A word of stream F whose effect stores only in some ranges, and else changes only what the flyer owns. -/
theorem issue_flyerKeeps {s t : State} {p : Nat} {q : QEntry} {want : KWord → Bool} {body : QEntry → Loc → Loc} {rs : List (Nat × Nat)}
    (hmem : MemOk s) (hq : (strmOf (spAt s p) 3).queue.head? = some q) (ht : issue s p 3 want body = .next t)
    (hbytes : ∀ F, (∀ r ∈ rs, ByteFrame.Apart F r.1 r.2) → ∀ l, l.Keeps F → l = issuePos s p 3 → (body q l).Keeps F)
    (hleaves : FlyerLeaves (spAt s p) (body q (issuePos s p 3)).sp) : BytesOutside rs p s t ∧ FlyerKeeps p s t := by
  obtain rfl | ⟨q', ⟨hq', -⟩, rfl⟩ := issue_next ht
  · exact ⟨bytesOutside_refl rs p t, flyerKeeps_refl p t⟩
  · obtain rfl : q' = q := Option.some.inj (hq'.symm.trans hq)
    refine ⟨bytesOutside_closePos fun a ha => ?_, FlyerLeaves.flyerKeeps ?_⟩
    · exact hbytes _ ha _ (Loc.land_keeps (openPos_keeps_byteFrame hmem p a) _) rfl
    · rwa [closePos_spAt s p _ (exists_of_head hq).1]

/-! The elementwise operations -/

@[simp] theorem Loc.wrP_outliers (l : Loc) (a : Nat) (bs : List Byte) (pw : List Nat) : (l.wrP a bs pw).sp.outliers = l.sp.outliers := by
  unfold Loc.wrP
  split
  · obtain ⟨errs, poison, ctr, evs, heq⟩ := l.store_eq a bs pw
    rw [heq]; rfl
  · split <;> rfl

@[simp] theorem Loc.flagIf_outliers (l : Loc) (b : Bool) : (l.flagIf b).sp.outliers = l.sp.outliers := by
  unfold Loc.flagIf Loc.flagW
  split
  · split <;> rfl
  · rfl

theorem wrVals_calm (bf : Bool) (a : Nat) (vs : List F32) (l : Loc) : l.sp.Calm (wrVals bf a vs l).sp := ⟨Loc.wr_core .., Nat.le_of_eq (Loc.wrP_outliers ..).symm⟩

theorem Spindle.Calm.flagIf {a : Spindle} {l : Loc} (h : a.Calm l.sp) (b : Bool) : a.Calm (l.flagIf b).sp :=
  h.trans ⟨l.flagIf_core b, Nat.le_of_eq (l.flagIf_outliers b).symm⟩

theorem vopOut_calm (op useB : Nat) (f : F32 → F32 → F32 → F32) (w : KWord) (l : Loc) : l.sp.Calm (vopOut op useB f w l).sp :=
  (wrVals_calm ..).flagIf _

theorem normOut_calm (layer : Bool) (w : KWord) (r : NormRec) (l : Loc) : l.sp.Calm (normOut layer w r l).sp := by
  unfold normOut
  extract_lets bf stat gamma beta rows ys st l₀ l₁
  have h₀ : l.sp.Calm l₀.sp := wrVals_calm ..
  refine Spindle.Calm.flagIf ?_ _
  unfold l₁
  split
  · exact h₀.trans (wrVals_calm ..)
  · exact h₀

theorem mergeOut_calm (r : SmaxRec) (l : Loc) : l.sp.Calm (mergeOut r l).sp := (wrVals_calm ..).flagIf _
theorem finalOut_calm (w : KWord) (r : SmaxRec) (l : Loc) : l.sp.Calm (finalOut w r l).sp := (wrVals_calm ..).flagIf _

theorem vop_flyerKeeps {op useB rate : Nat} {f : F32 → F32 → F32 → F32} {s t : State} {p : Nat} {q : QEntry} (hmem : MemOk s)
    (hq : (strmOf (spAt s p) 3).queue.head? = some q) (ht : vop p s op useB rate f = .next t) :
    BytesOutside [(vopD q.word, vopN q.word * esz (bitOf q.word 117))] p s t ∧ FlyerKeeps p s t := by
  refine issue_flyerKeeps hmem hq ht (fun F hout l hl _ => ?_) ?_
  · have hd : F.Apart (vopD q.word) (vopN q.word * esz (bitOf q.word 117)) := hout _ List.mem_cons_self
    dsimp only
    split
    · exact Loc.reject_keeps hl _ _ _ _ _
    · exact Loc.flyRun_keeps hl _ _ _ _ _ _ fun l hl => vopOut_keeps _ _ _ hl hd
  · dsimp only
    split
    · exact (issuePos_calm s p 3).reject ..
    · exact (issuePos_calm s p 3).flyRun _ _ _ _ _ _ fun l => vopOut_calm ..

/-! Normalisation and the rows of attention -/

theorem vnorm_flyerKeeps {op : Nat} {s t : State} {p : Nat} {q : QEntry} {r : NormRec} (hmem : MemOk s)
    (hq : (strmOf (spAt s p) 3).queue.head? = some q) (hr : r = normRec ((issuePos s p 3).rdN (flyPar q.word) 32)) (ht : vnorm p s op = .next t) :
    BytesOutside ([(r.dst, r.nr * r.nc * esz (bitOf q.word 120))] ++ (if bitOf q.word 119 then [(r.sa, r.nr * 8)] else [])) p s t ∧
      FlyerKeeps p s t := by
  have hrec : r = normRec (((issuePos s p 3).scrub (flyPar q.word) 32).rdN (flyPar q.word) 32) := by rw [hr, Loc.rdN, Loc.rdN, Loc.scrub_mem]
  refine issue_flyerKeeps hmem hq ht (fun F hout l hl heq => ?_) ?_
  · subst heq
    have hdst : F.Apart r.dst (r.nr * r.nc * esz (bitOf q.word 120)) := hout _ (List.mem_append_left _ List.mem_cons_self)
    have hstat (h : bitOf q.word 119 = true) : F.Apart r.sa (r.nr * 8) := hout (r.sa, r.nr * 8) (List.mem_append_right _ (by rw [if_pos h]; exact List.mem_cons_self))
    have hread := (Loc.scrub_keeps (issuePos s p 3) (flyPar q.word) 32).mpr hl
    dsimp only
    rw [← hrec]
    split
    · exact Loc.reject_keeps hl _ _ _ _ _
    · split
      · exact (Loc.consume_keeps ..).mpr (Loc.pop_keeps hread _ _ _ _)
      · split
        · exact Loc.reject_keeps hread _ _ _ _ _
        · exact Loc.flyRun_keeps hread _ _ _ _ _ _ fun l hl => normOut_keeps _ hl hdst hstat
  · have hread := (issuePos_calm s p 3).trans (Loc.scrub_calm (issuePos s p 3) (flyPar q.word) 32)
    dsimp only
    split
    · exact (issuePos_calm s p 3).reject ..
    · split
      · exact (hread.pop ..).consume ..
      · split
        · exact hread.reject ..
        · exact hread.flyRun _ _ _ _ _ _ fun l => normOut_calm ..

/-- A form of VSMAX that stores only in one range that its record names. -/
theorem vsmax_flyerKeeps {op off n : Nat} {f : QEntry → SmaxRec → Loc → Loc} {s t : State} {p : Nat} {q : QEntry} {r : SmaxRec} (hmem : MemOk s)
    (hq : (strmOf (spAt s p) 3).queue.head? = some q) (hr : r = smaxRec ((issuePos s p 3).rdN (flyPar q.word) 64)) (ht : vsmax p s op f = .next t)
    (hbytes : ∀ F, ByteFrame.Apart F off n → ∀ l, l.Keeps F → (f q r l).Keeps F)
    (hleaves : ∀ (a : Spindle) (l : Loc), a.Calm l.sp → FlyerLeaves a (f q r l).sp) : BytesOutside [(off, n)] p s t ∧ FlyerKeeps p s t := by
  have hrec : r = smaxRec (((issuePos s p 3).scrub (flyPar q.word) 64).rdN (flyPar q.word) 64) := by rw [hr, Loc.rdN, Loc.rdN, Loc.scrub_mem]
  refine issue_flyerKeeps hmem hq ht (fun F hout l hl heq => ?_) ?_
  · subst heq
    have hread := (Loc.scrub_keeps (issuePos s p 3) (flyPar q.word) 64).mpr hl
    dsimp only
    rw [← hrec]
    split
    · exact Loc.reject_keeps hl _ _ _ _ _
    · split
      · exact (Loc.consume_keeps ..).mpr (Loc.pop_keeps hread _ _ _ _)
      · split
        · exact hbytes F (hout _ List.mem_cons_self) _ hread
        · exact Loc.reject_keeps hread _ _ _ _ _
  · have hread := (issuePos_calm s p 3).trans (Loc.scrub_calm (issuePos s p 3) (flyPar q.word) 64)
    dsimp only
    rw [← hrec]
    split
    · exact (issuePos_calm s p 3).reject ..
    · split
      · exact (hread.pop ..).consume ..
      · split
        · exact hleaves _ _ hread
        · exact hread.reject ..

end Sys2Proof.Machine

open Sys2Proof Sys2Proof.Machine

/-- Settles O24: each of the seven operations through what a VOP may store and what the flyer owns (`vop_flyerKeeps`). -/
theorem elementwiseStoresOnlyItsArray : Obligations.ElementwiseStoresOnlyItsArray := by
  intro c s t p q hmem hc hq ht
  simp only [List.mem_cons, List.not_mem_nil, or_false] at hc
  obtain rfl | rfl | rfl | rfl | rfl | rfl | rfl := hc <;> exact vop_flyerKeeps hmem hq ht

/-- Settles O25: VNORM through `vnorm_flyerKeeps`, MERGE and FINAL through `vsmax_flyerKeeps`. -/
theorem rowsStoreOnlyTheirOutputs : Obligations.RowsStoreOnlyTheirOutputs := by
  intro s t p q rn rs hmem hq hrn hrs
  refine ⟨?_, fun ht => ?_, fun ht => ?_⟩
  · rintro (ht | ht) <;> exact vnorm_flyerKeeps hmem hq hrn ht
  · change execVsmaxMerge p s = _ at ht
    rw [execVsmaxMerge] at ht
    refine vsmax_flyerKeeps hmem hq hrs ht (fun F hout l hl => ?_) fun a l ha => ?_
    · split
      · exact Loc.reject_keeps hl _ _ _ _ _
      · exact Loc.flyRun_keeps hl _ _ _ _ _ _ fun l hl => mergeOut_keeps hl hout
    · split
      · exact ha.reject ..
      · exact ha.flyRun _ _ _ _ _ _ fun l => mergeOut_calm ..
  · change execVsmaxFinal p s = _ at ht
    rw [execVsmaxFinal] at ht
    refine vsmax_flyerKeeps hmem hq hrs ht (fun F hout l hl => ?_) fun a l ha => ?_
    · split
      · exact Loc.reject_keeps hl _ _ _ _ _
      · exact Loc.flyRun_keeps hl _ _ _ _ _ _ fun l hl => finalOut_keeps hl hout
    · split
      · exact ha.reject ..
      · exact ha.flyRun _ _ _ _ _ _ fun l => finalOut_calm ..

end

section
/-!
What a word of the flyer reads and what is read of what it wrote (O26): the writes that the sc of issue makes visible are visible once, numbers
read back as they were written, and a write under way is what its range reads as once it has landed where no other goes there.
-/
namespace Sys2Proof.Machine

/-! Writes land once -/

/-- No write under way is due by sc t. -/
def Loc.Landed (l : Loc) (t : Nat) : Prop := ∀ e rest, l.sp.pend = e :: rest → t < e.at_

theorem Loc.landN_of_landed {l : Loc} {t : Nat} (h : l.Landed t) (n : Nat) : l.landN n t = l := by
  cases n with
  | zero => rfl
  | succ n =>
    rw [Loc.landN]
    split
    · next e rest hp => exact if_neg (Nat.not_le_of_lt (h e rest hp))
    · rfl

theorem Loc.landOne_pend_length (l : Loc) (e : Pend) : (l.landOne e).sp.pend.length = l.sp.pend.length := by
  obtain ⟨errs, poison, ctr, evs, nf, n, g, -, heq⟩ := l.landOne_eq e
  rw [heq]
  exact List.length_map ..

theorem Loc.landed_landN {n t : Nat} {l : Loc} (h : l.sp.pend.length ≤ n) : (l.landN n t).Landed t := by
  induction n generalizing l with
  | zero =>
    intro e rest hp
    rw [Loc.landN] at hp
    rw [hp] at h
    cases h
  | succ n ih =>
    rw [Loc.landN]
    split
    · next e rest hp =>
      split
      · refine ih ?_
        rw [Loc.landOne_pend_length]
        rw [hp] at h
        exact Nat.le_of_succ_le_succ h
      · next hlt =>
        intro e' rest' hp'
        obtain ⟨rfl, -⟩ := List.cons.inj (hp.symm.trans hp')
        exact Nat.lt_of_not_le hlt
    · next hp =>
      intro e rest hp'
      cases hp.symm.trans hp'

theorem Loc.landed_land (l : Loc) (t : Nat) : (l.land t).Landed t := Loc.landed_landN (Nat.le_refl _)

/-- A step of the clock to a sc whose writes are visible changes no byte. -/
theorem Loc.at_mem_of_landed {l : Loc} {t : Nat} (h : l.Landed (max l.sp.clock.lc t)) : (l.at_ t).sp.distaff.mem = l.sp.distaff.mem := by
  have ht : (l.tally (max l.sp.clock.lc t)).Landed (max l.sp.clock.lc t) := h
  unfold Loc.at_ Loc.land
  dsimp only
  rw [Loc.landN_of_landed ht]
  rfl

/-- A word reads what its sc of issue finds. -/
theorem issuePos_at_mem (s : State) (p k : Nat) :
    ((issuePos s p k).at_ (issueAt (issuePos s p k) k)).sp.distaff.mem = (issuePos s p k).sp.distaff.mem := by
  refine Loc.at_mem_of_landed ?_
  have hmax : max (issuePos s p k).sp.clock.lc (issueAt (issuePos s p k) k) = issueAt (openPos s p) k := by
    rw [issueAt_issuePos, issuePos_clock, issueAt, openPos_sp, ← Nat.max_assoc, Nat.max_self]
  rw [hmax]
  exact Loc.landed_land _ _

/-! Numbers as bytes -/

theorem leNat_leBytes (n v : Nat) : leNat (leBytes n v) = v % 256 ^ n := by
  induction n generalizing v with
  | zero => rw [leBytes, leNat, Nat.pow_zero, Nat.mod_one]
  | succ n ih =>
    rw [leBytes, leNat, ih, BitVec.toNat_ofNat, Nat.pow_succ' (m := 256), Nat.mod_mul]

/-- Element i of values written one after the other, each as n bytes. -/
theorem getElem?_flatMap_of_length {α β : Type} {g : α → List β} {n : Nat} (hg : ∀ x, (g x).length = n) (xs : List α) (i : Nat) {j : Nat} (hj : j < n) :
    (xs.flatMap g)[n * i + j]? = xs[i]?.bind fun x => (g x)[j]? := by
  induction xs generalizing i with
  | nil => simp
  | cons x xs ih =>
    rw [List.flatMap_cons]
    cases i with
    | zero => rw [List.getElem?_append_left (by rw [hg]; omega)]; simp
    | succ i =>
      rw [List.getElem?_append_right (by rw [hg, Nat.mul_succ]; omega), hg, show n * (i + 1) + j - n = n * i + j by rw [Nat.mul_succ]; omega, ih]
      rfl

/-- What is read of bytes that a memory holds. -/
theorem memRead_of_bytes {m : Mem} {a : Nat} {bs : List Byte} (h : ∀ k, k < bs.length → memGet m (a + k) = bs.getD k 0#8) {k n : Nat} {xs : List Byte}
    (hxs : xs.length = n) (hin : k + n ≤ bs.length) (hsub : ∀ j, j < n → bs[k + j]? = xs[j]?) : memRead m (a + k) n = xs := by
  refine List.ext_getElem? fun j => ?_
  rw [memRead_getElem?]
  split
  · next hj =>
    rw [← hsub j hj, Nat.add_assoc, h _ (by omega), List.getD_eq_getElem?_getD, List.getElem?_eq_getElem (by omega)]
    rfl
  · next hj => rw [List.getElem?_eq_none (by omega)]

/-- The bytes of a value as a VOP writes it. -/
def valBytes (bf : Bool) (v : F32) : List Byte := if bf then leBytes 2 (narrow16 v).toNat else leBytes 4 v.toNat

theorem length_valBytes (bf : Bool) (v : F32) : (valBytes bf v).length = esz bf := by cases bf <;> exact leBytes_length ..

/-- Values that a memory holds read back as they were written: in BF16 rounded to bfloat16. -/
theorem readVals_of_bytes {l : Loc} {bf : Bool} {a : Nat} {vs : List F32}
    (h : ∀ k, k < (vs.flatMap (valBytes bf)).length → memGet l.sp.distaff.mem (a + k) = (vs.flatMap (valBytes bf)).getD k 0#8) {n i : Nat}
    (hn : vs.length = n) (hi : i < n) :
    (readVals l bf a n)[i]? = vs[i]?.map fun v => if bf then widen16 (narrow16 v) else canon32 v := by
  have hv : vs[i]? = some vs[i] := List.getElem?_eq_getElem (by omega)
  have hlen : (vs.flatMap (valBytes bf)).length = vs.length * esz bf := valBytes_length bf vs
  have hread : memRead l.sp.distaff.mem (a + esz bf * i) (esz bf) = valBytes bf vs[i] := by
    refine memRead_of_bytes h (length_valBytes ..) ?_ fun j hj => ?_
    · rw [hlen, Nat.mul_comm (esz bf), ← Nat.succ_mul]
      exact Nat.mul_le_mul_right _ (by omega)
    · rw [getElem?_flatMap_of_length (length_valBytes bf) vs i hj, hv]; rfl
  rw [readVals, List.getElem?_map, List.getElem?_range hi, hv, Option.map_some, Option.map_some]
  congr 1
  cases bf with
  | false =>
    have hnat : l.rdN (a + 4 * i) 4 = vs[i].toNat := by
      rw [Loc.rdN, memNat, show memRead l.sp.distaff.mem (a + 4 * i) 4 = leBytes 4 vs[i].toNat from hread, leNat_leBytes]
      exact Nat.mod_eq_of_lt vs[i].isLt
    simp only [Bool.false_eq_true, if_false, Loc.rd32, hnat, BitVec.ofNat_toNat, BitVec.setWidth_eq]
  | true =>
    have hnat : l.rdN (a + 2 * i) 2 = (narrow16 vs[i]).toNat := by
      rw [Loc.rdN, memNat, show memRead l.sp.distaff.mem (a + 2 * i) 2 = leBytes 2 (narrow16 vs[i]).toNat from hread, leNat_leBytes]
      exact Nat.mod_eq_of_lt (narrow16 vs[i]).isLt
    simp only [if_true, Loc.rd16, hnat, BitVec.ofNat_toNat, BitVec.setWidth_eq]

/-! Writes under way -/

/-- Where no other write goes, a byte reads as the write under way leaves it. -/
theorem memGet_soonOf_insPend_self {m : Mem} {e : Pend} {k : Nat} (hm : Memory.wf m = true) {es : List Pend} (hno : NoWriteTo (e.off + k) es)
    (hk : k < e.data.length) : memGet (soonOf m (insPend e es)) (e.off + k) = e.data.getD k 0#8 := by
  induction es generalizing m with
  | nil =>
    rw [insPend, soonOf_cons, soonOf, List.foldl_nil, memGet_memWrite hm, if_pos (by omega), Nat.add_sub_cancel_left]
  | cons y ys ih =>
    rw [insPend]
    split
    · rw [soonOf_cons, memGet_soonOf_of_noWriteTo (Memory.wf_memWrite hm ..) hno, memGet_memWrite hm, if_pos (by omega), Nat.add_sub_cancel_left]
    · exact ih (Memory.wf_memWrite hm ..) fun x hx => hno x (List.mem_cons_of_mem y hx)

/-- A flag set by a write changes no byte. -/
theorem memGet_soon_flagIf {l : Loc} (hm : Memory.wf l.sp.distaff.mem = true) (b : Bool) (x : Nat) :
    memGet (l.flagIf b).sp.soon x = memGet l.sp.soon x := by
  unfold Loc.flagIf Loc.flagW
  split
  · split
    · rfl
    · exact memGet_soonOf_insPend (e := { Pend.bytes _ 0 [] [] with nf := true }) hm (.inr (Nat.zero_le x)) _
  · rfl

/-- What a write that becomes visible later leaves in its range. -/
theorem memGet_soon_wr {l : Loc} {t a k : Nat} {bs : List Byte} (hlate : l.late = some t) (hm : Memory.wf l.sp.distaff.mem = true)
    (hno : NoWriteTo (a + k) l.sp.pend) (hk : k < bs.length) : memGet (l.wr a bs).sp.soon (a + k) = bs.getD k 0#8 := by
  have hne : bs.isEmpty = false := by
    cases bs with
    | nil => cases hk
    | cons b bs => rfl
  have hwr : l.wr a bs = l.push { Pend.bytes t a bs [] with reel := l.reeler } := by
    rw [Loc.wr, Loc.wrP, hlate]
    simp only [hne, Bool.false_eq_true, if_false]
  rw [hwr]
  exact memGet_soonOf_insPend_self (e := { Pend.bytes t a bs [] with reel := l.reeler }) hm hno hk

/-! The elementwise operations -/

/-- What is read depends on the memory alone. -/
theorem readVals_congr {l l' : Loc} (h : l'.sp.distaff.mem = l.sp.distaff.mem) (bf : Bool) (a n : Nat) : readVals l' bf a n = readVals l bf a n := by
  simp only [readVals, Loc.rd16, Loc.rd32, Loc.rdN, h]

theorem vopVals_congr {l l' : Loc} (h : l'.sp.distaff.mem = l.sp.distaff.mem) (op useB : Nat) (f : F32 → F32 → F32 → F32) (w : KWord) :
    vopVals op useB f w l' = vopVals op useB f w l := by
  simp only [vopVals, readVals_congr h, Loc.rd32, Loc.rdN, h]

/-- The frame that no write goes to a byte of position p. -/
def noWriteFrame (s : State) (p a : Nat) : ByteFrame := { live := True, soon := fun _ _ => False, now := fun x b => x = a ∧ b = distByte s p a }

theorem openPos_keeps_noWriteFrame {s : State} {p a : Nat} (hmem : MemOk s) (h : NoWriteTo a (spAt s p).pend) :
    (openPos s p).Keeps (noWriteFrame s p a) := by
  intro _
  refine ⟨distaff_wf hmem p, fun _ _ hf => hf.elim, ?_⟩
  rintro x b ⟨rfl, rfl⟩
  exact ⟨h, rfl⟩

/-- What a VOP leaves: each element of d reads, once the write has landed, as its result. -/
theorem vop_result {op useB rate i : Nat} {f : F32 → F32 → F32 → F32} {s : State} {p : Nat} {q : QEntry} (hmem : MemOk s) (hq : Ready s p 3 q)
    (hno : ∀ e ∈ (spAt s p).pend, e.off + e.data.length ≤ vopD q.word ∨ vopD q.word + vopN q.word * esz (bitOf q.word 117) ≤ e.off)
    (hi : i < vopN q.word) {t : State}
    (ht : t = closePos s p ((issuePos s p 3).flyDo (cdiv (vopN q.word) rate) 16 (vopIns op useB q.word) (vopOut op useB f q.word))) :
    (readVals (soonLoc t p) (bitOf q.word 117) (vopD q.word) (vopN q.word))[i]? =
      ((vopVals op useB f q.word (issuePos s p 3))[i]?).map fun v => if bitOf q.word 117 then widen16 (narrow16 v) else canon32 v := by
  let l : Loc := { ((issuePos s p 3).fly (cdiv (vopN q.word) rate) 16).reading (vopIns op useB q.word) with
    late := some (flyDone (issuePos s p 3) (cdiv (vopN q.word) rate) 16) }
  have hread : l.sp.distaff.mem = (issuePos s p 3).sp.distaff.mem := by
    obtain ⟨errs, poison, ctr, evs, heq⟩ := ((issuePos s p 3).fly (cdiv (vopN q.word) rate) 16).reading_eq (vopIns op useB q.word)
    change (Loc.reading _ _).sp.distaff.mem = _
    rw [heq]
    exact issuePos_at_mem s p 3
  have hsoon : (soonLoc t p).sp.distaff.mem = (vopOut op useB f q.word l).sp.soon := by
    change (spAt t p).soon = _
    rw [ht, closePos_spAt s p _ (exists_of_ready hq).1]; rfl
  rw [← vopVals_congr hread op useB f q.word]
  refine readVals_of_bytes (fun k hk => ?_) (vopVals_length ..) hi
  have hk' : k < vopN q.word * esz (bitOf q.word 117) := by
    rw [show (List.flatMap (valBytes (bitOf q.word 117)) _).length = _ from valBytes_length .., vopVals_length] at hk
    exact hk
  have hframe : l.Keeps (noWriteFrame s p (vopD q.word + k)) := by
    have hopen := openPos_keeps_noWriteFrame (a := vopD q.word + k) hmem fun e he => (hno e he).elim (fun h => .inr (by omega)) fun h => .inl (by omega)
    exact (Loc.reading_keeps ..).mpr (Loc.pop_keeps (Loc.land_keeps hopen _) _ _ _ _)
  obtain ⟨hwf, -, hnow⟩ := hframe trivial
  have hwr : (wrVals (bitOf q.word 117) (vopD q.word) (vopVals op useB f q.word l) l).Keeps (ByteFrame.canon True) :=
    wrVals_keeps (ByteFrame.canon_holds.mpr fun _ => hwf) (ByteFrame.canon_apart _ _ _)
  rw [hsoon, vopOut, memGet_soon_flagIf (ByteFrame.canon_holds.mp hwr trivial)]
  exact memGet_soon_wr rfl hwf (hnow _ _ ⟨rfl, rfl⟩).1 hk

end Sys2Proof.Machine

open Sys2Proof Sys2Proof.Machine

/-- Settles O26: each of ADD, MUL and COPY through what a ready VOP does (`vop_ready`) and what it leaves in d (`vop_result`). -/
theorem vopWritesTheResult : Obligations.VopWritesTheResult := by
  intro s p op c q f hc hmem hq hop hlegal hclean hno
  simp only [List.mem_cons, List.not_mem_nil, or_false, Prod.mk.injEq] at hc
  obtain ⟨rfl, rfl, rfl⟩ | ⟨rfl, rfl, rfl⟩ | ⟨rfl, rfl, rfl⟩ := hc <;>
    exact ⟨_, vop_ready hq hop hlegal hclean, fun i hi => vop_result hmem hq hno hi rfl⟩

end

section
/-!
The treadle (O10, O11): DLY, FEND, HALT, markers, fetches, arrivals, and the words that redirect a stream.
-/
namespace Sys2Proof.Machine
variable {s : State} {p k : Nat} {q : QEntry}

/-- A head word is there to be matched on. -/
theorem queue_of_head? {es : List QEntry} (h : es.head? = some q) : es = q :: es.tail := by
  cases es with
  | nil => cases h
  | cons e es => rw [List.head?_cons, Option.some.injEq] at h; rw [h]; rfl

/-- Where the words before it leave the stream alive, a word of a whorl stream does its work. -/
theorem pumpThen_alive {t : Nat} {f : Loc → Loc} {l : Loc} (h : (strmOf (pumped s p k t l).sp k).dead = false) :
    pumpThen s p k t f l = f (pumped s p k t l) := by
  simp only [pumpThen, h, Bool.and_false, Bool.false_eq_true, if_false]

/-- A legal word that ends the frame retires, once nothing of its engine is in flight and the time of its sc is known. -/
theorem endFrame_ready {cls : Nat} {l : Loc} (h : Ready s p k q) (hcls : isCls cls q.word = true) (hl : l = pumpAll s p k (openPos s p))
    (hres : reservedClear q.word [(127, 122), (7, 0)] = true) (hidle : engineIdle l.sp k = true) (hdead : (strmOf l.sp k).dead = false)
    (hknown : clockKnown s p (fenceAt l k) = true) :
    endFrame p k cls s = .next (noteRetire (closePos s p (retire k (fenceAt l k) (cls == 6) (fld q.word 7 0) l)) p (fenceAt l k)) := by
  obtain ⟨hp, hk, hq, hm, hn⟩ := h
  subst hl
  rw [endFrame, if_pos hk, if_pos hp]
  dsimp only
  rw [show (strmOf (openPos s p).sp k).queue = _ from queue_of_head? hq]
  simp only [hm, hn, hcls, hres, hidle, hdead, hknown, Option.isNone_none, Bool.and_self, Bool.not_true, Bool.not_false, Bool.false_eq_true,
    if_true, if_false]

/-- Where the treadle fetches next there is a stream, and a stream that is not past its last word gets the line. -/
theorem execTreadleFetch_chosen (hp : p < 624) (hch : chooseStream s p (spAt s p) = some k)
    (hnext : (strmOf (spAt s p) k).next < (strmOf (spAt s p) k).len) :
    execTreadleFetch p s = .next (runPos s p fun l => fetchLine k (max l.sp.clock.lc l.sp.fetchFree) (l.at_ (max l.sp.clock.lc l.sp.fetchFree))) := by
  rw [execTreadleFetch, onPos_lt _ _ _ hp, runPos, runPos, fetchStep]
  simp only [openPos_sp, hch, hnext, if_true]

/-- The fetch that the treadle presents for a stream in sc t. -/
def fetchOf (k t : Nat) (l : Loc) : Fetch :=
  let q := strmOf l.sp k
  let m := l.scrub (q.base + 16 * q.next) (16 * keepOf q)
  { woff := q.next, due := t + 5, words := (List.range (keepOf q)).map fun i => BitVec.ofNat 128 (m.rdN (q.base + 16 * q.next + 16 * i) 16),
    poison := m.poisonIn (q.base + 16 * q.next) (16 * keepOf q) }

/-- The stream after its line is presented. -/
theorem strmOf_fetchLine (t : Nat) {l : Loc} (hk : k < l.sp.streams.length) : strmOf (fetchLine k t l).sp k =
    { strmOf l.sp k with flights := (strmOf l.sp k).flights ++ [fetchOf k t l], next := (strmOf l.sp k).next + keepOf (strmOf l.sp k) } := by
  have hlen : k < (l.scrub ((strmOf l.sp k).base + 16 * (strmOf l.sp k).next) (16 * keepOf (strmOf l.sp k))).sp.streams.length := by
    rwa [Loc.scrub_streams]
  have hscrub := strmOf_scrub l ((strmOf l.sp k).base + 16 * (strmOf l.sp k).next) (16 * keepOf (strmOf l.sp k)) k
  exact (strmOf_strm_self (l := Loc.mod _ _) hlen _).trans
    (congrArg (fun q : Stream => { q with flights := q.flights ++ [fetchOf k t l], next := q.next + keepOf (strmOf l.sp k) }) hscrub)

theorem execFetchLineArrival_clean {f : Fetch} {fs : List Fetch} (hp : p < 624) (hk : k < 6) (hf : (strmOf (spAt s p) k).flights = f :: fs)
    (hctrl : (strmOf (spAt s p) k).ctrl = []) (hclean : f.poison = none) :
    execFetchLineArrival p k s = .next (runPos s p fun l => ((l.strm k fun x => { x with flights := fs }).at_ f.due).strm k (absorb f.entries)) := by
  rw [execFetchLineArrival, if_pos hk, onPos_lt _ _ _ hp, runPos, runPos]
  simp only [openPos_sp, hf, hctrl, List.isEmpty_nil, if_true, lineArrives, hclean]

/-- A step of one stream of the treadle. -/
theorem strmOf_runPos_strm {s : State} {p k : Nat} (h : p < s.spindles.length ∧ k < (spAt s p).streams.length) (f : Stream → Stream) :
    strmOf (spAt (runPos s p fun l => l.strm k f) p) k = f (strmOf (spAt s p) k) := by
  rw [runPos_spAt _ _ _ h.1, strmOf_strm_self h.2]
  rfl

theorem jumpStep_legal {st : Stream} {rest : List QEntry} (hctrl : st.ctrl = q :: rest) (hcls : clsOf q.word = 1)
    (hres : reservedClear q.word [(127, 122), (95, 64)] = true) (hin : targetIn st q = true) : jumpStep st = redirect q st := by
  simp [jumpStep, hctrl, hcls, hres, hin]

/-- The rounds that a LOOP has left. -/
def roundsLeft (q : QEntry) (c : LoopCtr) : Nat := if c.armed then c.value else fld q.word 63 40 - 1

theorem loopStep_legal {st : Stream} {rest : List QEntry} (hctrl : st.ctrl = q :: rest) (hcls : clsOf q.word = 2)
    (hres : reservedClear q.word [(127, 122), (121, 119), (95, 64), (63, 40)] = true) (hc : fld q.word 63 40 ≠ 0) (hin : targetIn st q = true) :
    loopStep st = if roundsLeft q (st.loops.getD (fld q.word 121 119) ⟨0, false⟩) = 0
      then absorb rest { st with ctrl := [], loops := modAt st.loops (fld q.word 121 119) fun _ => ⟨0, false⟩ }
      else redirect q { st with loops := modAt st.loops (fld q.word 121 119) fun _ =>
        ⟨roundsLeft q (st.loops.getD (fld q.word 121 119) ⟨0, false⟩) - 1, true⟩ } := by
  simp only [loopStep, hctrl, hcls, hres, hin, beq_iff_eq, hc, roundsLeft, Bool.not_true, Bool.false_or, Bool.false_eq_true, if_true, if_false, beq_self_eq_true]

/-- Words that are taken change no loop counter. -/
theorem absorb_loops (es : List QEntry) (st : Stream) : (absorb es st).loops = st.loops := by
  induction es generalizing st with
  | nil => rfl
  | cons e es ih =>
    rw [absorb]
    split
    · rfl
    · dsimp only
      split
      · rfl
      · rw [ih]; rfl

end Sys2Proof.Machine

open Sys2Proof Sys2Proof.Machine

/-- Settles O10: each command of the treadle through the rule of its form. -/
theorem treadleCompletes : Obligations.TreadleCompletes := by
  refine ⟨?_, ?_, ?_, ?_, ?_, ?_⟩
  · rintro s p k t q l h hcls hres hc rfl rfl hdead
    change execDly p k s = _
    rw [execDly, issue_ready h hcls]
    simp only [hres, beq_iff_eq, hc, Bool.not_true, Bool.false_or, if_false, pumpThen_alive hdead]
  · intro s p k q l h hcls hl hres hidle hdead hknown
    exact endFrame_ready h hcls hl hres hidle hdead hknown
  · intro s p k q l h hcls hl hres hidle hdead hknown
    exact endFrame_ready h hcls hl hres hidle hdead hknown
  · intro s p k code q hp hk hq hm hcode
    change execFaultMarkerDispatch p k s = _
    rw [execFaultMarkerDispatch, if_pos hk, onPos_lt _ _ _ hp, runPos, runPos, openPos_sp, queue_of_head? hq]
    simp only [hm, hcode, if_true]
  · intro s p k hp hch hnext
    have hex : p < s.spindles.length ∧ k < (spAt s p).streams.length :=
      exists_of_strmOf_ne fun hr => by rw [hr] at hnext; exact absurd hnext (Nat.lt_irrefl 0)
    have hstrm := strmOf_fetchLine (k := k) (max (spAt s p).clock.lc (spAt s p).fetchFree)
      (l := (openPos s p).at_ (max (spAt s p).clock.lc (spAt s p).fetchFree)) (by rw [Loc.at_streams]; exact hex.2)
    rw [strmOf_at] at hstrm
    refine ⟨_, _, execTreadleFetch_chosen hp hch hnext, ?_, rfl, ?_, (congrArg (strmOf · k) (runPos_spAt _ _ _ hex.1)).trans hstrm⟩
    · exact congrArg Stream.next (strmOf_at ..)
    · rw [fetchOf, strmOf_at]
      exact (List.length_map ..).trans List.length_range
  · intro s p k f fs hp hk hf hctrl hclean
    have hex : p < s.spindles.length ∧ k < (spAt s p).streams.length :=
      exists_of_strmOf_ne fun hr => by rw [hr] at hf; cases hf
    refine ⟨_, execFetchLineArrival_clean hp hk hf hctrl hclean, ?_⟩
    have hlen : k < ((openPos s p).strm k fun x => { x with flights := fs }).sp.streams.length := by
      rw [show (Loc.strm _ _ _).sp.streams.length = _ from modAt_length ..]; exact hex.2
    rw [runPos_spAt _ _ _ hex.1, strmOf_strm_self (by rwa [Loc.at_streams]), strmOf_at, strmOf_strm_self hex.2]
    rfl

/-- Settles O11: a JUMP through `jumpStep_legal`, a LOOP through `loopStep_legal` with the rounds it has left. -/
theorem jumpsRedirect : Obligations.JumpsRedirect := by
  refine ⟨?_, ?_⟩
  · intro s p k q rest hp hk hf hctrl hcls hres hin
    have hex : p < s.spindles.length ∧ k < (spAt s p).streams.length :=
      exists_of_strmOf_ne fun hr => by rw [hr] at hctrl; cases hctrl
    refine ⟨runPos s p fun l => l.strm k jumpStep, ?_, ?_⟩
    · change execJump p k s = _
      simp only [execJump, if_pos hk, onPos_lt _ _ _ hp, hf, if_true]
    · rw [strmOf_runPos_strm hex, jumpStep_legal hctrl hcls hres hin]; rfl
  · intro s p k c v armed q rest hp hk hf hctrl hcls hres hcount hc hin hloop
    have hex : p < s.spindles.length ∧ k < (spAt s p).streams.length :=
      exists_of_strmOf_ne fun hr => by rw [hr] at hctrl; cases hctrl
    have hctr : (strmOf (spAt s p) k).loops.getD (fld q.word 121 119) ⟨0, false⟩ = ⟨v, armed⟩ := by
      rw [List.getD_eq_getElem?_getD, hloop]; rfl
    refine ⟨runPos s p fun l => l.strm k loopStep, ?_, ?_⟩
    · change execLoop p k s = _
      simp only [execLoop, if_pos hk, onPos_lt _ _ _ hp, hf, if_true]
    · have hleft : roundsLeft q ⟨v, armed⟩ = if armed then v else c - 1 := by rw [roundsLeft, hcount]
      rw [strmOf_runPos_strm hex, loopStep_legal hctrl hcls hres (by rwa [hcount]) hin, hctr, hleft]
      intro left
      refine ⟨fun hne => ?_, fun heq => ?_⟩
      · rw [if_neg hne]
        refine ⟨rfl, rfl, rfl, ?_⟩
        rw [redirect, modAt_getElem?, if_pos rfl, hloop]; rfl
      · rw [if_pos heq, absorb_loops]
        refine ⟨?_, rfl⟩
        rw [modAt_getElem?, if_pos rfl, hloop]; rfl

end

section
/-!
The whorl, the bobbin and the twister (O14 to O19): what their ready words do, and what MSPLIT, SETUP and TSAMPLE leave.
-/
namespace Sys2Proof.Machine
variable {s : State} {p k : Nat} {q : QEntry}

theorem isCls_inWhorl {c : Nat} {w : KWord} (hcls : isCls c w = true) (hin : inWhorl s p k = true) : (isCls c w && inWhorl s p k) = true := by
  rw [hcls, hin]; rfl

/-- What stands first of a list that is not empty. -/
theorem pluckMin_ne_nil {α : Type} {f : α → Bool} {key : α → Nat} {xs rest : List α} {x : α} (h : pluckMin f key xs = some (x, rest)) : xs ≠ [] := by
  rintro rfl
  cases h

/-- A legal data op of the bobbin is queued in the later of the sc of its path and the sc of its bank. -/
theorem dataIssue_ready {op t₁ t₂ : Nat} {l : Loc} (h : Ready s p k q) (hop : isOp 0x0C 121 119 op q.word = true) (hin : inWhorl s p k = true)
    (hl : l = issuePos s p k) (hlegal : drainBad l.sp.whorl.split op (halfOf l.sp k).layout q.word = false)
    (hrow : (bobRow l.sp.whorl.split k (halfOf l.sp k).layout (fld q.word 73 64) (drainNr q.word)).isSome = true)
    (hpath : pathFree (halfOf l.sp k) (issueAt l k) = some t₁)
    (hbank : (if op != 4 && bitOf q.word 118 then bankFree (halfOf l.sp k) (1 - (halfOf l.sp k).layout.live) (issueAt l k)
      else some (issueAt l k)) = some t₂) (hdead : (strmOf (pumped s p k (max t₁ t₂) l).sp k).dead = false) :
    dataIssue s p k op = .next (closePos s p
      (queueOp k (max t₁ t₂) (op != 4 && bitOf q.word 118) (bitOf q.word 117) q (pumped s p k (max t₁ t₂) l))) := by
  have hwant : (isOp 0x0C 121 119 op q.word && inWhorl s p k) = true := by rw [hop, hin]; rfl
  subst hl
  rw [dataIssue, drainIssue, issueW_ready h hwant]
  simp only [hpath, hbank, hlegal, Option.isNone_eq_false_iff.mpr hrow, Bool.or_self, Bool.false_eq_true, if_false, Option.map_some, Option.getD_some,
    pumpThen_alive hdead]

/-- The half streams on the bank of its first data op that has not started. -/
def onDataBank (x : Half) : Bool :=
  match x.drain.find? (·.doneAt.isNone), x.strm with
  | some d, some o => o.bank == d.bank
  | _, _ => false

theorem onDataBank_of_ne {x : Half} {d : DataOp} (hd : x.drain.find? (·.doneAt.isNone) = some d) (h : ∀ o, x.strm = some o → o.bank ≠ d.bank) :
    onDataBank x = false := by
  unfold onDataBank
  rw [hd]
  cases hs : x.strm with
  | none => rfl
  | some o => exact beq_false_of_ne (h o hs)

/-- A word of stream T on a channel with room. -/
theorem makeRoom_of_lt {port : Nat} {l : Loc} (h : (portOf l.sp port).fifo.length < 64) : makeRoom s p port l = l := by
  have hroom : decide (64 ≤ (portOf l.sp port).fifo.length) = false := decide_eq_false (by omega)
  unfold makeRoom
  dsimp only
  split
  · exact drive_none (by simp only [hroom, Bool.false_eq_true, if_false]) _
  · rfl

/-- A stream whose words may issue has not died. -/
theorem alive_of_ready (h : Ready s p k q) : (strmOf (spAt s p) k).dead = false := by
  have hm : mayIssueOn s p k (spAt s p) = true := h.2.2.2.1
  simp only [mayIssueOn, Bool.and_eq_true, Bool.not_eq_true'] at hm
  exact hm.1.1.2

/-- A half that has nothing in flight has no word of its ports to take. -/
theorem pumpAll_idle {l : Loc} (h : engineIdle l.sp k = true) : pumpAll s p k l = l := by
  unfold pumpAll
  split
  next hk =>
    refine pumpWhile_not ?_
    have hidle : (halfOf l.sp k).load.isNone = true ∧ (halfOf l.sp k).strm.isNone = true := by
      obtain rfl | rfl : k = 0 ∨ k = 1 := by omega
      all_goals simp_all [engineIdle]
    obtain ⟨hl, hs⟩ := hidle
    simp_all
  · rfl

theorem msplitPump_idle {on : Bool} {l : Loc} (h₀ : engineIdle l.sp 0 = true) (h₁ : engineIdle l.sp 1 = true) : msplitPump s p on l = l := by
  rw [msplitPump, pumpAll_idle h₀, pumpAll_idle h₁, ite_self]

/-! MSPLIT's modes (R130, R164) -/

theorem msplitDo_same {on : Bool} {t : Nat} {l : Loc} (h : on = l.sp.whorl.split) : msplitDo on t l = l := if_pos (beq_iff_eq.mpr h)

theorem msplitDo_ne {on : Bool} {t : Nat} {l : Loc} (h : on ≠ l.sp.whorl.split) : (msplitDo on t l).sp.whorl =
    (if on then enterSplit l.sp else leaveSplit (t + 1) (l.dropCheck 1 t).sp).whorl := by
  rw [msplitDo, if_neg (by simpa using h)]
  cases on <;> rfl

theorem msplitDo_split (on : Bool) (t : Nat) (l : Loc) : (msplitDo on t l).sp.whorl.split = on := by
  by_cases h : on = l.sp.whorl.split
  · rw [msplitDo_same h, h]
  · rw [msplitDo_ne h]
    cases on <;> rfl

theorem msplitDo_clear {on : Bool} {t : Nat} {l : Loc} (h : on ≠ l.sp.whorl.split) (i : Nat) (hi : i < 2) :
    (halfOf (msplitDo on t l).sp i).tot = [] ∧ (halfOf (msplitDo on t l).sp i).used = [] := by
  rw [halfOf, msplitDo_ne h]
  obtain rfl | rfl : i = 0 ∨ i = 1 := by omega
  all_goals cases on <;> exact ⟨rfl, rfl⟩

end Sys2Proof.Machine

open Sys2Proof Sys2Proof.Machine

/-- Settles O14: each word through the rule of an issue, with what the half has taken by then. -/
theorem whorlIssueCompletes : Obligations.WhorlIssueCompletes := by
  refine ⟨?_, ?_, ?_, ?_⟩
  · rintro s p k q l₀ l h hcls hin hlegal rfl hload rfl hdead hwaits
    change execMload p k s = _
    rw [execMload, issueW_ready h (isCls_inWhorl hcls hin)]
    simp only [hlegal, hload, hdead, hwaits, Bool.false_eq_true, if_false, Option.map_some, Option.getD_some]
  · rintro s p k t row q l h hcls hin hlegal rfl hdead hstrm hat
    change execMstream p k s = _
    rw [execMstream, issueW_ready h (isCls_inWhorl hcls hin)]
    simp only [hlegal, hdead, hstrm, hat, Option.isSome_none, Bool.false_eq_true, if_false, Option.map_some, Option.getD_some]
  · rintro s p k t row q l₀ l h hcls hin hlegal rfl hdead hstrm hat rfl halive
    change execMshape p k s = _
    rw [execMshape, issueW_ready h (isCls_inWhorl hcls hin)]
    simp only [hlegal, hdead, hstrm, hat, Option.isSome_none, Bool.false_eq_true, if_false, Option.map_some, Option.getD_some, pumpThen_alive halive]
  · rintro s p t q l h hcls hres rfl hdead hfree rfl
    change execMsplit p s = _
    rw [execMsplit, issueW_ready h hcls]
    simp only [hres, hdead, hfree, Bool.not_true, Bool.false_eq_true, if_false, if_true, Option.map_some, Option.getD_some]

/-- Settles O16: SETUP and SWAP through the rule of an issue, the data ops through `dataIssue_ready`, and a data op's start and a promotion where no
word of the half is to be taken first. -/
theorem bobbinCompletes : Obligations.BobbinCompletes := by
  refine ⟨?_, ?_, ?_, ?_, ?_, ?_, ?_⟩
  · rintro s p k q l h hop hin hlegal rfl hdead hidle
    change execMdrainSetup p k s = _
    rw [execMdrainSetup, drainIssue, issueW_ready h (by rw [hop, hin]; rfl)]
    simp only [issuePos_whorl, hlegal, hdead, hidle, Bool.false_eq_true, if_false, if_true, Option.map_some, Option.getD_some]
  · rintro s p k t q l m h hop hin rfl hlegal hbank rfl hdead
    change execMdrainSwap p k s = _
    rw [execMdrainSwap, drainIssue, issueW_ready h (by rw [hop, hin]; rfl)]
    simp only [hlegal, hbank, Bool.not_true, Bool.false_eq_true, if_false, Option.map_some, Option.getD_some, pumpThen_alive hdead]
  · rintro s p k t₁ t₂ q l m h hop hin hl hlegal hrow hpath hbank rfl hdead
    exact dataIssue_ready h hop hin hl hlegal hrow hpath hbank hdead
  · rintro s p k t₁ t₂ q l m h hop hin hl hlegal hrow hpath hbank rfl hdead
    exact dataIssue_ready h hop hin hl hlegal hrow hpath hbank hdead
  · rintro s p k t₁ t₂ q l m h hop hin hl hlegal hrow hpath rfl rfl hdead
    exact dataIssue_ready h hop hin hl hlegal hrow hpath rfl hdead
  · intro s p h d hp hh hpow hd hhanded hstrm
    have hbank : onDataBank (halfOf (spAt s p) h) = false := onDataBank_of_ne hd hstrm
    change execDataOpStart p h s = _
    rw [execDataOpStart, if_pos hh, onPos_lt _ _ _ hp, runPos, runPos]
    simp only [hpow, Bool.not_true, Bool.false_eq_true, if_false]
    rw [pumpWhile_not]
    · cases hs : (halfOf (spAt s p) h).strm with
      | none => simp only [openPos_sp, hd, hhanded, hs, Bool.or_self, Bool.false_eq_true, if_false]
      | some o => simp only [openPos_sp, hd, hhanded, hs, beq_false_of_ne (hstrm o hs), Bool.or_self, Bool.false_eq_true, if_false]
    · exact hbank
  · intro s p h g rest hp hh hpow hg
    have hne : (halfOf (openPos s p).sp h).handed.isEmpty = false := by
      cases heq : (halfOf (openPos s p).sp h).handed with
      | nil => exact absurd heq (pluckMin_ne_nil hg)
      | cons x xs => rfl
    change execPromotion p h s = _
    rw [execPromotion, if_pos hh, onPos_lt _ _ _ hp, runPos, runPos]
    simp only [hpow, Bool.not_true, Bool.false_eq_true, if_false, pumpWhile_not (c := (·.handed.isEmpty)) hne, openPos_sp, hg]

/-- Settles O17: nothing is to be taken first, so SETUP writes its layout into the cleared half. -/
theorem setupClearsThePartition : Obligations.SetupClearsThePartition := by
  intro s p k q h hop hin hlegal hidle hk
  have hidle' : engineIdle (issuePos s p k).sp k = true := by simpa using hidle
  have hdead : (strmOf (issuePos s p k).sp k).dead = false := by simpa using alive_of_ready h
  have hhalf : k < ((issuePos s p k).pop k (fenceAt (issuePos s p k) k) 1 (fenceAt (issuePos s p k) k + 2)).sp.whorl.halves.length := by simpa using hk
  refine ⟨_, bobbinCompletes.1 s p k q _ h hop hin hlegal rfl (by rwa [pumpAll_idle hidle']) (by rwa [pumpAll_idle hidle']), ?_⟩
  rw [pumpAll_idle hidle', closePos_spAt _ _ _ (exists_of_ready h).1, setupDo, halfOf_half_self hhalf]
  refine ⟨rfl, rfl, rfl, rfl, rfl, rfl, fun i hi => ?_⟩
  rw [halfOf_half_ne hi, halfOf, Loc.pop_whorl, issuePos_whorl]
  rfl

/-- Settles O15: neither half has a word to take, so MSPLIT acts at once; entering and leaving the split clear both partitions. -/
theorem splitSetsTheMode : Obligations.SplitSetsTheMode := by
  intro s p q h hcls hres hidle₀ hidle₁
  have hidle : ∀ i, i < 2 → engineIdle (issuePos s p 0).sp i = true := fun i hi => by
    obtain rfl | rfl : i = 0 ∨ i = 1 := by omega
    all_goals simpa
  have hpump := msplitPump_idle (s := s) (p := p) (on := bitOf q.word 121) (hidle 0 (by omega)) (hidle 1 (by omega))
  have hfree : msplitFree (bitOf q.word 121) (issuePos s p 0) = true := by simp [msplitFree, hidle₀, hidle₁]
  refine ⟨_, whorlIssueCompletes.2.2.2 s p _ q _ h hcls hres rfl (by rw [hpump]; simpa using alive_of_ready h) (by rwa [hpump]) rfl, ?_⟩
  rw [hpump, closePos_spAt _ _ _ (exists_of_ready h).1]
  exact ⟨msplitDo_split .., fun hne => msplitDo_clear (by simpa [eq_comm] using hne), fun heq => by rw [msplitDo_same (by simp [heq])]; simp⟩

/-- Settles O18: each word through the rule of an issue with its checks passed, and a channel's words where the port has room. -/
theorem twisterCompletes : Obligations.TwisterCompletes := by
  refine ⟨?_, ?_, ?_, ?_, ?_, ?_, ?_, ?_, ?_⟩
  · rintro s p q l h hcls rfl hdead hport hlegal hroom hfmt hin hshadow
    change execTfeed p s = _
    rw [execTfeed, issueW_ready h hcls]
    simp only [hdead, hport, hlegal, hroom, hfmt, hin, hshadow, Bool.not_true, Bool.or_self, Bool.false_eq_true, if_false, if_true, Option.map_some, Option.getD_some]
  · rintro s p q l l1 h hcls rfl hdead hport hlegal hroom hfmt rfl hfault hshadow
    change execTfeed p s = _
    rw [execTfeed, issueW_ready h hcls]
    simp only [hdead, hport, hlegal, hroom, hfmt, hfault, hshadow, Bool.not_true, Bool.false_eq_true, if_false, Option.map_some, Option.getD_some]
  · rintro s p q l h hop rfl hlegal hroom hfmt hin
    change execTtransTranspose p s = _
    rw [execTtransTranspose, issueW_ready h hop]
    simp only [hlegal, hroom, hfmt, hin, Bool.not_true, Bool.false_eq_true, if_false, if_true, Option.map_some, Option.getD_some]
  · rintro s p q l l1 h hop rfl hlegal hroom hfmt rfl hpoison hfault
    change execTtransTranspose p s = _
    rw [execTtransTranspose, issueW_ready h hop]
    simp only [Loc.headPoison, hlegal, hroom, hfmt, hpoison, hfault, Bool.not_true, Bool.false_eq_true, if_false, Option.map_some, Option.map_none,
      Option.getD_none, Option.getD_some]
  · rintro s p q l h hop rfl hlegal hroom
    change execTtransFmask p s = _
    rw [execTtransFmask, issueW_ready h hop]
    simp only [hlegal, hroom, Bool.false_eq_true, if_false, if_true, Option.map_some, Option.getD_some]
  · rintro s p q l l1 r ho hd h hcls hlegal rfl hclean rfl rfl hrec hok hform hroom rfl rfl hsrc
    change execTrot p s = _
    rw [execTrot, issueW_ready h hcls]
    by_cases hfmt : rotSfmt q.word = 0
    · obtain ⟨hpoison, hfault⟩ := hsrc hfmt
      simp only [hfmt, if_true] at hpoison hfault
      simp only [Loc.headPoison, hlegal, hclean, hrec, hok, hform, hroom, hfmt, hpoison, hfault, bne_self_eq_false, Bool.not_true, Bool.false_eq_true,
        if_false, if_true, Option.map_some, Option.map_none, Option.getD_none, Option.getD_some]
    · have hne : (rotSfmt q.word != 0) = true := bne_iff_ne.mpr hfmt
      simp only [hlegal, hclean, hrec, hok, hform, hroom, hfmt, hne, Bool.not_true, Bool.false_eq_true, if_false, if_true, Option.map_some, Option.getD_some]
  · rintro s p q l h hcls rfl hlegal
    change execTsample p s = _
    rw [execTsample, issue_ready h hcls]
    simp only [hlegal, Bool.false_eq_true, if_false]
  · rintro s p port it rest hp hport hlive hchan hkind hfifo
    change execFeedWordEnter p port s = _
    have hmask : (it.kind == FeedKind.fmask) = false := beq_false_of_ne hkind
    have hfull : (portOf (openPos s p).sp port).fifo.length < 64 := hfifo
    rw [execFeedWordEnter, if_pos hport, onPos_lt _ _ _ hp, hlive, if_pos rfl, runPos, runPos, feedEnter]
    simp only [openPos_sp, hchan, hmask, makeRoom_of_lt hfull, hfifo, Bool.false_eq_true, if_false, if_true]
  · rintro s p port it rest hp hport hlive hchan hkind
    change execFeedWordEnter p port s = _
    rw [execFeedWordEnter, if_pos hport, onPos_lt _ _ _ hp, hlive, if_pos rfl, runPos, runPos, feedEnter]
    simp only [openPos_sp, hchan, hkind, beq_self_eq_true, if_true]

/-- Settles O19: the shadow is all that TSAMPLE changes of its port, and its port is all that it changes of the feed ports. -/
theorem shadowWaitsAtItsPort : Obligations.ShadowWaitsAtItsPort := by
  intro s p q h hcls hlegal hport
  obtain ⟨-, -, -, -, -, -, htsample, -⟩ := twisterCompletes
  have hpops : ∀ n t, portOf ((issuePos s p 2).pop 2 t 1 t).sp n = portOf (spAt s p) n := fun n t => by
    rw [portOf, Loc.pop_whorl, issuePos_whorl]
    rfl
  refine ⟨_, htsample s p q _ h hcls rfl hlegal, ?_⟩
  rw [closePos_spAt _ _ _ (exists_of_ready h).1]
  exact ⟨by rw [portOf_fport_self (by simpa using hport), hpops], fun n hn => by rw [portOf_fport_ne hn, hpops]⟩

end

section
/-!
Rules of the shared units: patrol scrub (O31), the channels (O32, O33), host transfers (O34, O35) and the bell's count (O43).
-/
namespace Sys2Proof.Machine
variable {s : State} {p : Nat}

theorem onPosS_lt (hp : p < 624) (f : Loc → State) : onPosS s p f = .next (f (openPos s p)) := if_pos hp

/-! The sides of the channels -/

/-- What a closed step leaves of a port: all but the stall counts of its channels. -/
theorem closePos_portAt (s : State) (p : Nat) (l : Loc) (n : Nat) :
    { portAt (closePos s p l) n with chStall := [] } = { portAt s n with chStall := [] } := by
  have h := congrArg (List.getD · n { Port.reset with chStall := [] }) (closePos_ports_map s p l)
  exact (getD_map (fun x : Port => { x with chStall := [] }) _ n Port.reset).symm.trans (h.trans (getD_map _ _ n Port.reset))

@[simp] theorem sendSide_closePos (s : State) (p : Nat) (l : Loc) (n c : Nat) : sendSide (closePos s p l) n c = sendSide s n c :=
  (congrArg (fun x => x.send.getD c none) (closePos_portAt s p l n) :)

@[simp] theorem recvSide_closePos (s : State) (p : Nat) (l : Loc) (n c : Nat) : recvSide (closePos s p l) n c = recvSide s n c :=
  (congrArg (fun x => x.recv.getD c none) (closePos_portAt s p l n) :)

theorem sendSide_reset (c : Nat) : Port.reset.send.getD c none = none := by
  rw [List.getD_eq_getElem?_getD]
  rw [show Port.reset.send = List.replicate 8 none from rfl, List.getElem?_replicate]
  split <;> rfl

theorem sendSide_some_lt {n c : Nat} {x : ChanSide} (h : sendSide s n c = some x) : n < s.ports.length ∧ c < (portAt s n).send.length := by
  constructor
  · refine Decidable.byContradiction fun hn => ?_
    rw [sendSide, portAt, getD_of_length_le (Nat.le_of_not_lt hn) Port.reset, sendSide_reset] at h
    cases h
  · refine Decidable.byContradiction fun hc => ?_
    rw [sendSide, getD_of_length_le (Nat.le_of_not_lt hc)] at h
    cases h

theorem sendSide_modSend_of_lt {n c : Nat} {f : Option ChanSide → Option ChanSide} (hn : n < s.ports.length) (hc : c < (portAt s n).send.length) :
    sendSide (modSend s n c f) n c = f (sendSide s n c) := by
  rw [sendSide, portAt, modSend, modPort, modAt_getD_self _ _ _ _ hn]
  exact modAt_getD_self _ _ _ _ hc

theorem sendSide_modSend_ne {n c m d : Nat} {f : Option ChanSide → Option ChanSide} (h : (m, d) ≠ (n, c)) :
    sendSide (modSend s n c f) m d = sendSide s m d := by
  rw [sendSide, portAt, modSend, modPort, modAt_getD]
  split
  next hm =>
    obtain ⟨rfl, -⟩ := hm
    exact modAt_getD_ne _ _ _ _ _ fun hcd => h (by rw [hcd])
  · rfl

theorem sendSide_modSend_self {n c : Nat} {x : ChanSide} {f : Option ChanSide → Option ChanSide} (h : sendSide s n c = some x) :
    sendSide (modSend s n c f) n c = f (some x) := by
  rw [sendSide_modSend_of_lt (sendSide_some_lt h).1 (sendSide_some_lt h).2, h]

theorem recvSide_modSend (n c m d : Nat) (f : Option ChanSide → Option ChanSide) : recvSide (modSend s n c f) m d = recvSide s m d := by
  rw [recvSide, portAt, modSend, modPort, modAt_getD]
  split
  · rfl
  · rfl

theorem lnumOf_of_portReady {n : Nat} (h : portReady s p n = true) : lnumOf s p = some (lnum s p) := by
  unfold portReady at h
  cases hl : lnumOf s p with
  | none => simp [jobAt, hl] at h
  | some k => rw [lnum, hl]; rfl

/-- A port that is up and the job's is bound to the side that its position's number opened. -/
theorem boundTo_of_portReady {n : Nat} {x : ChanSide} (h : portReady s p n = true) (hx : x.spd = lnum s p) : boundTo s (some x) p = true := by
  rw [boundTo, lnumOf_of_portReady h, hx]
  exact beq_self_eq_true _

theorem port_lt_of_up {n : Nat} (h : (portAt s n).state = 2) : n < s.ports.length := by
  refine Decidable.byContradiction fun hn => ?_
  rw [portAt, getD_of_length_le (Nat.le_of_not_lt hn) Port.reset] at h
  cases h

theorem atPort_up {n : Nat} (f : State → State) (hn : n < 6) (h : (portAt s n).state = 2) : atPort s n f = .next (f s) := by
  rw [atPort, onPort, onUnit_lt _ _ _ _ hn, if_pos h]

/-! Host transfers -/

theorem dropXfer_xfers (s : State) (x : Xfer) : (dropXfer s x).hif.xfers = s.hif.xfers.erase x := by
  unfold dropXfer
  dsimp only
  induction s.hif.xfers with
  | nil => rfl
  | cons y ys ih =>
    rw [pluck, List.erase_cons]
    cases hy : y == x with
    | true => rfl
    | false =>
      rw [← ih]
      cases pluck (· == x) ys <;> rfl

theorem closePos_xfers (s : State) (p : Nat) (l : Loc) : (closePos s p l).hif.xfers = s.hif.xfers :=
  (congrArg (fun x => x.2.2.xfers) (closePos_eventless s p l) :)

theorem closePos_host (s : State) (p : Nat) (l : Loc) : (closePos s p l).hif.host = s.hif.host :=
  (congrArg (fun x => x.2.2.host) (closePos_eventless s p l) :)

theorem noteXfer_xfers (s : State) (x : Xfer) (bell : Nat) : (noteXfer s x bell).hif.xfers = s.hif.xfers := by
  unfold noteXfer
  split <;> rfl

theorem noteXfer_host (s : State) (x : Xfer) (bell : Nat) : (noteXfer s x bell).hif.host = s.hif.host := by
  unfold noteXfer
  split <;> rfl

theorem spAt_noteXfer (s : State) (x : Xfer) (bell p : Nat) : spAt (noteXfer s x bell) p = spAt s p := by
  unfold noteXfer
  split <;> rfl

theorem payBytes_parts (s : State) (k n : Nat) : (payBytes s k n).hif = s.hif ∧ (payBytes s k n).spindles = s.spindles := by
  unfold payBytes
  split <;> exact ⟨rfl, rfl⟩

theorem distByte_closePos_of_mem {l : Loc} (h : l.sp.distaff.mem = (spAt s p).distaff.mem) (a : Nat) :
    distByte (closePos s p l) p a = distByte s p a := by
  by_cases hp : p < s.spindles.length
  · rw [distByte, closePos_spAt _ _ _ hp, h]; rfl
  · rw [distByte, closePos_spAt_out _ _ _ _ (by omega)]; rfl

/-- Where the data of a PUT go, and what it leaves in flight. -/
theorem xferDone_put {x : Xfer} (hput : x.get = false) (bell : Nat) :
    (xferDone s x bell).hif.xfers = s.hif.xfers.erase x ∧
      (xferDone s x bell).hif.host = memWrite s.hif.host x.host (memRead (spAt s x.pos).distaff.mem x.local_ (64 * x.lines)) ∧
      ∀ a, distByte (xferDone s x bell) x.pos a = distByte s x.pos a := by
  obtain ⟨hhif, hsps⟩ := payBytes_parts s x.job (64 * x.lines)
  have hsp : spAt (payBytes s x.job (64 * x.lines)) x.pos = spAt s x.pos := by rw [spAt, hsps]; rfl
  unfold xferDone
  simp only [hput, Bool.false_eq_true, if_false]
  refine ⟨?_, ?_, fun a => ?_⟩
  · rw [noteXfer_xfers, hostWrite]
    dsimp only
    rw [dropXfer_xfers, closePos_xfers, hhif]
  · rw [noteXfer_host, hostWrite, dropXfer]
    dsimp only
    rw [closePos_host, hhif, Loc.rd, Loc.scrub_mem, openPos_sp, hsp]
  · rw [distByte, spAt_noteXfer]
    refine (distByte_closePos_of_mem (by rw [Loc.scrub_mem, openPos_sp]) a).trans ?_
    rw [distByte, hsp]
    rfl

/-! Patrol scrub -/

theorem payLines_hbm (s : State) (k n : Nat) : (payLines s k n).hbm = s.hbm := by
  unfold payLines
  split <;> rfl

theorem hbmCode_one_corr (s : State) (off : Nat) : (hbmCode s off 1 none).hbm.corr = modAt s.hbm.corr (stackOf off) (sat32 · 1) := by
  unfold hbmCode
  dsimp only
  split
  next h => cases h
  · rw [if_pos rfl]
    split
    · rfl
    · rw [raiseDev_hbm]

/-- One symbol in error counts on the stack that the line's address lies in. -/
theorem scrubRead_corr {n : Nat} (h : hbmErrs s (stackLine n (s.hbm.scrub.getD n 0)) = 1) :
    (scrubRead s n).hbm.corr = modAt s.hbm.corr (stackOf (stackLine n (s.hbm.scrub.getD n 0))) (sat32 · 1) := by
  rw [scrubRead]
  dsimp only
  rw [h, hbmCode_one_corr, payLines_hbm]
  rfl

/-- After reset, but with the next line to scrub of stack 0 one past its lines, which is a line of stack 2 with one symbol in error. -/
def pastStack : State :=
  { State.reset with hbm := { State.reset.hbm with scrub := [stackLines], errs := [(hbmLineNo (stackLine 0 stackLines), 1)] } }

theorem pastStack_errs : hbmErrs pastStack (stackLine 0 (pastStack.hbm.scrub.getD 0 0)) = 1 := by decide

theorem pastStack_stack : stackOf (stackLine 0 (pastStack.hbm.scrub.getD 0 0)) = 2 := by decide

end Sys2Proof.Machine

open Sys2Proof Sys2Proof.Machine

/-- Settles O32: each command with its checks passed; the sides of a port through the rules of `modSend`. -/
theorem channelsComplete : Obligations.ChannelsComplete := by
  refine ⟨?_, ?_, ?_, ?_, ?_, ?_, ?_⟩
  · rintro s p q l h hop rfl hlegal hport hsend hrecv
    change execCplyOpen p s = _
    rw [execCplyOpen, issueS_ready h hop]
    simp only [hlegal, hport, hsend, hrecv, Bool.or_self, Bool.not_true, Bool.false_eq_true, if_false]
  · intro s p q x hp hq hwait hm hop hlegal hport hx hspd hcr hin
    change execCplySend p s = _
    rw [execCplySend, onPosS_lt hp, openPos_sp, queue_of_head? hq]
    simp only [hwait, hm, hop, hlegal, hport, hx, boundTo_of_portReady hport hspd, hcr, hin, Option.isNone_none, Option.getD_some, Bool.and_self,
      Bool.not_true, Bool.false_eq_true, if_false]
  · rintro s p t q x hp hq hwait hm hop hlegal hport hx hspd hcr hsince rfl
    change execCplySend p s = _
    rw [execCplySend, onPosS_lt hp, openPos_sp, queue_of_head? hq]
    simp only [hwait, hm, hop, hlegal, hport, hx, boundTo_of_portReady hport hspd, hcr, hsince, Option.isNone_none, Option.isSome_none,
      Option.getD_some, Bool.and_self, Bool.not_true, Bool.false_eq_true, if_false, if_true]
  · rintro s p q l h hop rfl hok hcount hport hbound
    change execCplyFree p s = _
    rw [execCplyFree, issueS_ready h hop]
    simp only [hok, hport, hbound, beq_false_of_ne hcount, Bool.not_true, Bool.or_self, Bool.false_eq_true, if_false]
  · intro s p t q x hp hsince hq hruns hop hx hcr
    change execChannelCreditTimeout p s = _
    rw [execChannelCreditTimeout, onPosS_lt hp, openPos_sp, hsince, queue_of_head? hq]
    simp only [hruns, hop, hx, hcr, Option.getD_some, bne_self_eq_false, Bool.not_true, Bool.or_self, Bool.false_eq_true, if_false]
  · intro s n ch t hn hch hstate hlen
    change ∃ u x, execPlyOpenReceive n ch t s = _ ∧ _
    rw [execPlyOpenReceive, if_pos hch, atPort_up _ hn hstate]
    exact ⟨_, _, rfl, sendSide_modSend_of_lt (port_lt_of_up hstate) hlen, rfl, rfl, rfl, rfl, rfl, rfl⟩
  · intro s n t x hn hstate hx hcr
    change ∃ u, execPlyCreditReceive n t s = _ ∧ _
    rw [execPlyCreditReceive, atPort_up _ hn hstate]
    simp only [hx, if_neg (Nat.not_lt.mpr hcr)]
    refine ⟨_, rfl, ?_⟩
    split
    · rw [runPos, sendSide_closePos, sendSide_modSend_self hx]
    · rw [sendSide_modSend_self hx]

/-- Settles O33: what closes the step of its position leaves every side alone, and its own side changes as `sendDo` says. -/
theorem sendTakesOneCredit : Obligations.SendTakesOneCredit := by
  intro s p q x hp hq hwait hm hop hlegal hport hx hspd hcr hin
  refine ⟨_, channelsComplete.2.1 s p q x hp hq hwait hm hop hlegal hport hx hspd hcr hin, ?_, fun n c h => ?_, fun n c => ?_⟩
  · rw [sendDo, sendSide_modSend_self (by rwa [sendSide_closePos])]
  · rw [sendDo, sendSide_modSend_ne h, sendSide_closePos]
  · rw [sendDo, recvSide_modSend, recvSide_closePos]

/-- Settles O34: each transfer command with the transfer that it finds. -/
theorem hostTransfersComplete : Obligations.HostTransfersComplete := by
  refine ⟨?_, ?_, ?_, ?_, ?_, ?_⟩
  · rintro s p q l h hop rfl hlegal hcount
    change execChostGet p s = _
    rw [execChostGet, chost, issueS_ready h hop]
    simp only [hlegal, ge_iff_le, if_neg (Nat.not_le.mpr hcount), Bool.false_eq_true, if_false]
  · rintro s p q l h hop rfl hlegal hcount
    change execChostPut p s = _
    rw [execChostPut, chost, issueS_ready h hop]
    simp only [hlegal, ge_iff_le, if_neg (Nat.not_le.mpr hcount), Bool.false_eq_true, if_false]
  · intro s p x hp hx hlate
    change execHostTransferVisible p s = _
    rw [execHostTransferVisible, onPosS_lt hp]
    simp only [hx, hlate, Bool.false_eq_true, if_false]
  · intro s p x hp hx hlate
    change ∃ n, execHostTransferVisible p s = _
    rw [execHostTransferVisible, onPosS_lt hp]
    simp only [hx, hlate, if_true]
    exact ⟨_, rfl⟩
  · intro s p x hp hx
    change execHostDataLate p s = _
    rw [execHostDataLate, onPosS_lt hp]
    simp only [hx]
  · intro s p x hp hx
    change execHostAccessError p s = _
    rw [execHostAccessError, onPosS_lt hp]
    simp only [hx]

/-- Settles O35: `xferDone` writes what it read of the window to the host's bytes, which are canonical. -/
theorem putMovesTheWindowToTheHost : Obligations.PutMovesTheWindowToTheHost := by
  intro s p x hok hp hx hlate hput
  obtain ⟨-, hhost, -⟩ := hok
  have hpos : x.pos = p := by
    have := List.find?_some hx
    simp only [Bool.and_eq_true, beq_iff_eq] at this
    exact this.1
  subst hpos
  obtain ⟨hxfers, hmem, hdist⟩ := xferDone_put (s := s) hput (max (x.frame + 2) s.bell.count)
  refine ⟨_, hostTransfersComplete.2.2.1 s x.pos x hp hx hlate, hxfers, fun i hi => ?_, fun a ha => ?_, hdist⟩
  · rw [hmem, memGet_memWrite hhost, memRead_length, if_pos (by omega), Nat.add_sub_cancel_left, List.getD_eq_getElem?_getD, memRead_getElem?, if_pos hi]
    rfl
  · rw [hmem, memGet_memWrite_outside hhost _ _ _ (by rwa [memRead_length])]

/-- Refutes O31: the statement takes any scrub count, and where it is past its stack's lines (`MemOk` excludes it) the line it names, and so the
count of corrected errors, is another stack's. -/
theorem not_patrolScrubMends : ¬ Obligations.PatrolScrubMends := by
  rintro ⟨hread, -⟩
  obtain ⟨t, ht, -, -, -, -, hone, -⟩ := hread pastStack 0 _ (by decide) rfl rfl (by decide) rfl rfl (by decide) (by decide)
  obtain ⟨-, hcorr⟩ := hone pastStack_errs
  obtain rfl : scrubRead pastStack 0 = t := Host.Outcome.next.inj ht
  rw [scrubRead_corr pastStack_errs, pastStack_stack, modAt_getElem?] at hcorr
  exact absurd hcorr (by decide)

end

section
/-!
The counts and times of the bell generator that only a bell, a read of its slot and the advance of time change: what each step of a bell leaves of
them, for O43.
-/
namespace Sys2Proof.Machine

/-- BEL_COUNT, the time of the last bell, BEL_REFTIME, BEL_SLIP_TOTAL and BEL_SLIP_COUNT. -/
def BellGen.marks (b : BellGen) : Nat × Nat × Nat × Nat × Nat := (b.count, b.lastBell, b.refTime, b.slipTotal, b.slipCount)

/-- The accesses that wait for the end of the light sleep state. -/
abbrev Waits := List (Nat × Nat × Option (List Byte))

/-- What only a bell's own rules move: the bell generator's counts and times, and what the light sleep state holds. -/
def State.marks (s : State) : (Nat × Nat × Nat × Nat × Nat) × Waits × Bool × Nat × Bool :=
  (s.bell.marks, s.hif.cxlWait, s.power.wakeDue, s.power.sleep, s.hbm.selfRefresh)

theorem foldl_marks {α : Type} {f : State → α → State} (hf : ∀ s a, (f s a).marks = s.marks) (xs : List α) (s : State) :
    (xs.foldl f s).marks = s.marks := foldl_keeps State.marks hf xs s

theorem ite_marks {c : Prop} [Decidable c] (a b : State) : (if c then a else b).marks = if c then a.marks else b.marks := apply_ite State.marks c a b

/-! Changes of a state that leave them alone -/

section
variable (s : State) (pending : List Instr) (regs : Regs) (jobs : List Job) (map : List Nat) (xing : List (Nat × Nat)) (spindles : List Spindle)
  (fabric : Fabric) (ports : List Port) (lantern : Lantern) (thermal : Thermal) (keep : Keep) (repair : Repair) (pins : Pins)
  (syncCap : List (Nat × Nat)) (images : List (BitVec 512 × SavedJob)) (free : Nat)

@[simp] theorem State.marks_mk : State.marks ⟨pending, s.bell, regs, jobs, map, xing, spindles, fabric, s.hbm, ports, s.hif, lantern, thermal,
    keep, repair, s.power, pins, syncCap, images, free⟩ = s.marks := rfl

@[simp] theorem State.marks_mk_hif (sq : List SqRing) (cq : List CqRing) (due : List Entry) (turn fetched : Nat) (descs : List Desc)
    (receipts : List RcptReq) (signed : Nat) (link : Bool) (width : Nat) (fast perst : Bool) (host : Mem) (hostPoison : List Nat) (xfers : List Xfer)
    (shots : List Shot) (msix : Mem) (msixPend : List Nat) (out : List OutMsg) (evRecv : Option Nat) (alerts : List (List Byte))
    (cxl : List (Nat × Nat)) :
    State.marks ⟨pending, s.bell, regs, jobs, map, xing, spindles, fabric, s.hbm, ports, ⟨sq, cq, due, turn, fetched, descs, receipts, signed,
      link, width, fast, perst, host, hostPoison, xfers, shots, msix, msixPend, out, evRecv, alerts, s.hif.cxlWait, cxl⟩, lantern, thermal,
      keep, repair, s.power, pins, syncCap, images, free⟩ = s.marks := rfl

@[simp] theorem State.marks_mk_hbm (mem : Mem) (poison : List Nat) (errs : List (Nat × Nat)) (waiting granted : List HbmAcc)
    (credits : List (Nat × Nat)) (cycle : Nat) (corr uncorr bg corrSeen : List Nat) (hot : List Bool) (scrub : List Nat)
    (back : List (Option Nat)) (passes : List Nat) :
    State.marks ⟨pending, s.bell, regs, jobs, map, xing, spindles, fabric, ⟨mem, poison, errs, waiting, granted, credits, cycle, corr, uncorr,
      bg, corrSeen, hot, scrub, back, passes, s.hbm.selfRefresh⟩, ports, s.hif, lantern, thermal, keep, repair, s.power, pins, syncCap, images,
      free⟩ = s.marks := rfl

@[simp] theorem State.marks_mk_power (step : Nat) (noJob deepWake : Bool) (timeUs : Nat) (reset : Bool) (waiting : Option PowerUp) (vinBad : Bool)
    (savedBell : Nat) (modeAt slept : Option Nat) (off vaon : Bool) :
    State.marks ⟨pending, s.bell, regs, jobs, map, xing, spindles, fabric, s.hbm, ports, s.hif, lantern, thermal, keep, repair,
      ⟨step, noJob, deepWake, timeUs, s.power.sleep, s.power.wakeDue, reset, waiting, vinBad, savedBell, modeAt, slept, off, vaon⟩, pins, syncCap,
      images, free⟩ = s.marks := rfl

end

theorem marks_of_parts {s t : State} (hbell : t.bell = s.bell) (hwait : t.hif.cxlWait = s.hif.cxlWait) (hpower : t.power = s.power)
    (hhbm : t.hbm = s.hbm) : t.marks = s.marks := by
  rw [State.marks, State.marks, hbell, hwait, hpower, hhbm]

@[simp] theorem modSp_marks (s : State) (p : Nat) (f : Spindle → Spindle) : (modSp s p f).marks = s.marks := rfl
@[simp] theorem modJob_marks (s : State) (j : Nat) (f : Job → Job) : (modJob s j f).marks = s.marks := rfl
@[simp] theorem modPw_marks (s : State) (p : Nat) (f : PosPower → PosPower) : (modPw s p f).marks = s.marks := rfl
@[simp] theorem modLan_marks (s : State) (f : Lantern → Lantern) : (modLan s f).marks = s.marks := rfl
@[simp] theorem modSite_marks (s : State) (n : Nat) (f : Site → Site) : (modSite s n f).marks = s.marks := rfl
@[simp] theorem modPort_marks (s : State) (n : Nat) (f : Port → Port) : (modPort s n f).marks = s.marks := rfl
@[simp] theorem modCq_marks (s : State) (j : Nat) (f : CqRing → CqRing) : (modCq s j f).marks = s.marks := rfl
@[simp] theorem modKeep_marks (s : State) (f : Keep → Keep) : (modKeep s f).marks = s.marks := rfl
@[simp] theorem setSt_marks (s : State) (o v : Nat) : (setSt s o v).marks = s.marks := rfl
@[simp] theorem addDue_marks (s : State) (e : Entry) : (addDue s e).marks = s.marks := rfl
@[simp] theorem sendMsg_marks (s : State) (kind : Nat) (bs : List Byte) : (sendMsg s kind bs).marks = s.marks := rfl
@[simp] theorem faultJob_marks (s : State) (j code : Nat) (stop all : Bool) : (faultJob s j code stop all).marks = s.marks := rfl
@[simp] theorem hbmWrite_marks (s : State) (off : Nat) (bs : List Byte) (bad : Bool) : (hbmWrite s off bs bad).marks = s.marks := rfl
@[simp] theorem bgLines_marks (s : State) (h n : Nat) : (bgLines s h n).marks = s.marks := rfl
@[simp] theorem hostWrite_marks (s : State) (a : Nat) (bs : List Byte) (bad : List Nat) : (hostWrite s a bs bad).marks = s.marks := rfl
@[simp] theorem dropXfer_marks (s : State) (x : Xfer) : (dropXfer s x).marks = s.marks := rfl

@[simp] theorem alertFor_marks (s : State) (code body : Nat) : (alertFor s code body).marks = s.marks :=
  marks_of_parts (alertFor_bell ..) (by simp) (alertFor_power ..) (alertFor_hbm ..)
@[simp] theorem postEv_marks (s : State) (e : Ev) (j lnum p : Option Nat) : (postEv s e j lnum p).marks = s.marks :=
  marks_of_parts (postEv_bell ..) (by simp) (postEv_power ..) (postEv_hbm ..)
@[simp] theorem raiseDev_marks (s : State) (e : Ev) : (raiseDev s e).marks = s.marks :=
  marks_of_parts (raiseDev_bell ..) (by simp) (raiseDev_power ..) (raiseDev_hbm ..)
@[simp] theorem raiseJob_marks (s : State) (j : Nat) (e : Ev) : (raiseJob s j e).marks = s.marks :=
  marks_of_parts (raiseJob_bell ..) (by simp) (raiseJob_power ..) (raiseJob_hbm ..)
@[simp] theorem raiseAt_marks (s : State) (p : Nat) (e : Ev) : (raiseAt s p e).marks = s.marks :=
  marks_of_parts (raiseAt_bell ..) (by simp) (raiseAt_power ..) (raiseAt_hbm ..)
@[simp] theorem setNf_marks (s : State) (p : Nat) : (setNf s p).marks = s.marks :=
  marks_of_parts (setNf_bell ..) (by simp) (setNf_power ..) (setNf_hbm ..)
@[simp] theorem tallyChan_marks (s : State) (p : Nat) (l : Loc) : (tallyChan s p l).marks = s.marks :=
  marks_of_parts (tallyChan_bell ..) (by simp) (tallyChan_power ..) (tallyChan_hbm ..)
@[simp] theorem closePos_marks (s : State) (p : Nat) (l : Loc) : (closePos s p l).marks = s.marks := by
  obtain ⟨-, -, hhif⟩ : _ ∧ _ ∧ _ := by simpa only [State.eventless, Prod.mk.injEq] using closePos_eventless s p l
  exact marks_of_parts (closePos_bell ..) (congrArg Hif.cxlWait hhif :) (closePos_power ..) (closePos_hbm ..)

@[simp] theorem runPos_marks (s : State) (p : Nat) (f : Loc → Loc) : (runPos s p f).marks = s.marks := closePos_marks ..

@[simp] theorem payLines_marks (s : State) (k n : Nat) : (payLines s k n).marks = s.marks := by
  unfold payLines
  split <;> simp

@[simp] theorem payBytes_marks (s : State) (k n : Nat) : (payBytes s k n).marks = s.marks := by
  unfold payBytes
  split <;> simp

@[simp] theorem drawBytes_marks (s : State) (n : Nat) : (drawBytes s n).2.marks = s.marks := by
  simp [drawBytes]

@[simp] theorem shotWrite_marks (s : State) (who : Option Nat) (a : Nat) (bs : List Byte) : (shotWrite s who a bs).marks = s.marks := by
  unfold shotWrite
  split <;> simp

@[simp] theorem addFlits_marks (s : State) (fs : List Flit) : (addFlits s fs).marks = s.marks := by
  simp [addFlits]

@[simp] theorem moveLate_marks (s : State) (x : LateFlit) (d : Nat) : (moveLate s x d).marks = s.marks := by
  simp [moveLate]

@[simp] theorem enterLate_marks (s : State) (x : LateFlit) : (enterLate s x).marks = s.marks := by
  unfold enterLate
  split <;> simp

@[simp] theorem settleLates_marks (t : Nat) (x0 : Nat) (s : State) : (settleLates t x0 s).marks = s.marks := by
  induction x0 generalizing s with
  | zero => rfl
  | succ n ih =>
    rw [settleLates]
    split
    · rw [ih, enterLate_marks, State.marks_mk]
    · rfl

@[simp] theorem presentLates_marks (s : State) (t : Nat) : (presentLates s t).marks = s.marks := by
  simp [presentLates]

@[simp] theorem stretchAt_marks (s : State) (y : Spell) : (stretchAt s y).marks = s.marks := by
  unfold stretchAt
  split <;> simp

@[simp] theorem countLoss_marks (t : Nat) (s : State) (p : Nat) : (countLoss t s p).marks = s.marks := by
  simp [countLoss]

@[simp] theorem addLost_marks (s : State) (p t lost : Nat) : (addLost s p t lost).marks = s.marks := by
  simp [addLost]

@[simp] theorem startCycle_marks (c : Nat) (s : State) : (startCycle c s).marks = s.marks := by
  simp [startCycle]

@[simp] theorem hbmCode_marks (s : State) (off e : Nat) (who : Option Nat) : (hbmCode s off e who).marks = s.marks := by
  unfold hbmCode
  dsimp only
  (repeat' split) <;> simp

@[simp] theorem raisePort_marks (s : State) (q : Nat) (e : Ev) : (raisePort s q e).marks = s.marks := by
  unfold raisePort
  split <;> simp

@[simp] theorem framesNow_marks (s : State) (q : Nat) : (framesNow s q).marks = s.marks := by
  simp [framesNow]

@[simp] theorem portDown_marks (s : State) (q : Nat) : (portDown s q).marks = s.marks := by
  simp [portDown]

@[simp] theorem failLane_marks (s : State) (q lane : Nat) : (failLane s q lane).marks = s.marks := by
  unfold failLane
  dsimp only
  (repeat' split) <;> simp

@[simp] theorem askNarrow_marks (s : State) (q : Nat) : (askNarrow s q).marks = s.marks := by
  unfold askNarrow
  dsimp only
  (repeat' split) <;> simp

@[simp] theorem abandonRepair_marks (s : State) (j n : Nat) : (abandonRepair s j n).marks = s.marks := by
  simp [abandonRepair]

@[simp] theorem scramble_marks (s : State) (p a n : Nat) : (scramble s p a n).marks = s.marks := by
  simp [scramble]

@[simp] theorem abandonXfer_marks (s : State) (x : Xfer) : (abandonXfer s x).marks = s.marks := by
  unfold abandonXfer
  dsimp only
  split
  · rw [scramble_marks, dropXfer_marks]
  · rw [hostWrite_marks, drawBytes_marks, dropXfer_marks]

@[simp] theorem raiseSite_marks (s : State) (n : Nat) (e : Ev) : (raiseSite s n e).marks = s.marks := by
  unfold raiseSite
  split <;> simp

@[simp] theorem excludeSensor_marks (s : State) (n e : Nat) : (excludeSensor s n e).marks = s.marks := by
  unfold excludeSensor
  dsimp only
  (repeat' split) <;> simp

@[simp] theorem countAllLoss_marks (s : State) (t : Nat) : (countAllLoss s t).marks = s.marks := by
  exact foldl_marks (countLoss_marks t) _ s

@[simp] theorem trySwitch_marks (s : State) (p : Nat) : (trySwitch s p).marks = s.marks := by
  unfold trySwitch
  dsimp only
  (repeat' split) <;> simp

@[simp] theorem stepTo_marks (n : Nat) (s : State) (p : Nat) : (stepTo n s p).marks = s.marks := by
  simp [stepTo]

@[simp] theorem requestWake_marks (s : State) (p : Nat) : (requestWake s p).marks = s.marks := by
  unfold requestWake
  split <;> simp

@[simp] theorem measure_marks (s : State) (i : Nat) (d : BitVec 512) : (measure s i d).marks = s.marks := by
  simp [measure]

@[simp] theorem measureMap_marks (s : State) : (measureMap s).marks = s.marks := by
  simp [measureMap]

@[simp] theorem dropSq_marks (s : State) (r : Nat) : (dropSq s r).marks = s.marks := by
  simp [dropSq]

@[simp] theorem holdEntry_marks (s : State) (j : Nat) (e : Entry) : (holdEntry s j e).marks = s.marks := by
  unfold holdEntry
  dsimp only
  (repeat' split) <;> simp

@[simp] theorem dropCq_marks (s : State) (j : Nat) : (dropCq s j).marks = s.marks := by
  unfold dropCq
  refine (foldl_marks (fun s x => ?_) _ _).trans ?_
  · simp
  · rfl

@[simp] theorem wakeSets_marks (s : State) : (wakeSets s).marks = s.marks := by
  exact foldl_marks (fun s j => foldl_marks (fun s n => requestWake_marks s _) _ s) _ s

@[simp] theorem applyMap_marks (s : State) (l : List Staged) : (applyMap s l).marks = s.marks := by
  unfold applyMap
  dsimp only
  split
  · rfl
  · rw [wakeSets_marks, measureMap_marks, State.marks_mk]

@[simp] theorem applyReg_marks (s : State) (l : List Staged) (o : Nat) : (applyReg s l o).marks = s.marks := by
  have hwakes : ∀ (w : Nat) (v : Nat) (t : State),
      ((List.range 64).foldl (fun s b => if v.testBit b then requestWake s (posOf s (64 * w + b)) else s) t).marks = t.marks := fun w v =>
    foldl_marks (fun s b => by split <;> simp) _
  simp only [applyReg, ite_marks, hwakes, dropSq_marks, dropCq_marks, setSt_marks, modPort_marks, modJob_marks, State.marks_mk,
    State.marks_mk_power, ite_self]

@[simp] theorem clampScale_marks (s : State) (j : Nat) : (clampScale s j).marks = s.marks := by
  simp [clampScale]

@[simp] theorem applySnap_marks (s : State) (l : List Staged) : (applySnap s l).marks = s.marks := by
  exact (foldl_marks (fun s o => by rw [applyReg_marks]) _ _).trans (applyMap_marks s l)

@[simp] theorem noteCommit_marks (s : State) (code result tag field : Nat) : (noteCommit s code result tag field).marks = s.marks := by
  simp [noteCommit]

@[simp] theorem decideCommit_marks (s : State) (mismatch : Nat) : (decideCommit s mismatch).marks = s.marks := by
  unfold decideCommit
  dsimp only
  (repeat' split) <;> simp

@[simp] theorem takeSnap_marks (s : State) : (takeSnap s).marks = s.marks := by
  unfold takeSnap
  split <;> simp

@[simp] theorem bellCommit_marks (s : State) : (bellCommit s).marks = s.marks := by
  simp [bellCommit]

@[simp] theorem lineIn_marks (s : State) (key a : Nat) : (lineIn s key a).2.marks = s.marks := by
  unfold lineIn
  split <;> simp

@[simp] theorem lineOut_marks (s : State) (key a : Nat) (x : Line) : (lineOut s key a x).marks = s.marks := by
  unfold lineOut
  dsimp only
  (repeat' split) <;> simp

@[simp] theorem moveLines_marks (key src dst : Nat) (x0 : Nat) (s : State) : (moveLines key src dst x0 s).marks = s.marks := by
  induction x0 generalizing src dst s with
  | zero => rfl
  | succ n ih => rw [moveLines, ih, lineOut_marks, lineIn_marks]

@[simp] theorem writeLines_marks (key : Nat) (x0 : Nat) (x1 : Nat) (x2 : List Byte) (s : State) :
    (writeLines key x0 x1 x2 s).marks = s.marks := by
  induction x0 generalizing x1 x2 s with
  | zero => rfl
  | succ n ih =>
    unfold writeLines
    split
    · rfl
    · rw [ih, lineOut_marks]

@[simp] theorem writeAll_marks (s : State) (key a : Nat) (bs : List Byte) : (writeAll s key a bs).marks = s.marks := by
  simp [writeAll]

@[simp] theorem setDesc_marks (s : State) (d x : Desc) : (setDesc s d x).marks = s.marks := by
  unfold setDesc
  split <;> simp

@[simp] theorem askReceipt_marks (s : State) (q : RcptReq) : (askReceipt s q).marks = s.marks := by
  unfold askReceipt
  split <;> simp

@[simp] theorem requestReceipt_marks (s : State) (g : List Desc) : (requestReceipt s g).marks = s.marks := by
  unfold requestReceipt
  dsimp only
  (repeat' split) <;> simp

@[simp] theorem settle_marks (s : State) (r : Nat) : (settle s r).marks = s.marks := by
  unfold settle
  refine (foldl_marks (fun s x => ?_) _ _).trans ?_
  · simp
  · rfl

@[simp] theorem complete_marks (s : State) (d : Desc) (status : Nat) : (complete s d status).marks = s.marks := by
  unfold complete
  split <;> simp

@[simp] theorem refuse_marks (s : State) (d : Desc) : (refuse s d).marks = s.marks := by
  unfold refuse
  refine (foldl_marks (fun s x => ?_) _ _).trans ?_
  · simp
  · simp

@[simp] theorem accept_marks (s : State) (d : Desc) : (accept s d).marks = s.marks := by
  unfold accept
  dsimp only
  (repeat' split) <;> simp

@[simp] theorem acceptAll_marks (s : State) : (acceptAll s).marks = s.marks := by
  exact foldl_marks (fun s r => foldl_marks accept_marks _ s) _ s

@[simp] theorem jobReceipt_marks (s : State) (j kind : Nat) (stopped : Bool) : (jobReceipt s j kind stopped).marks = s.marks := by
  simp [jobReceipt]

@[simp] theorem statEntry_marks (s : State) (j : Nat) : (statEntry s j).marks = s.marks := by
  simp [statEntry]

@[simp] theorem dropWaits_marks (s : State) (j : Nat) : (dropWaits s j).marks = s.marks := by
  simp [dropWaits]

@[simp] theorem abandonXfers_marks (s : State) (j : Nat) : (abandonXfers s j).marks = s.marks := by
  unfold abandonXfers
  refine (foldl_marks (fun s x => ?_) _ _).trans ?_
  · simp
  · rfl

@[simp] theorem releasePorts_marks (s : State) (j : Nat) : (releasePorts s j).marks = s.marks := by
  simp [releasePorts]

@[simp] theorem dropRepairs_marks (s : State) (j : Nat) : (dropRepairs s j).marks = s.marks := by
  simp [dropRepairs]

@[simp] theorem endJob_marks (s : State) (j : Nat) (stopped : Bool) : (endJob s j stopped).marks = s.marks := by
  rw [endJob, modJob_marks]
  generalize hu : jobReceipt _ j 0 stopped = u
  have hmarks : u.marks = s.marks := by
    rw [← hu, jobReceipt_marks, dropRepairs_marks, abandonXfers_marks, releasePorts_marks, foldl_marks fun s d => complete_marks s d 2]
    split
    · rw [complete_marks, dropWaits_marks]
    · exact dropWaits_marks s j
  split
  · exact hmarks
  · rw [statEntry_marks, hmarks]

@[simp] theorem takeShots_marks (s : State) : (takeShots s).marks = s.marks := by
  simp [takeShots]

@[simp] theorem primeSpindle_marks (s : State) (j n : Nat) (bs : List Byte) : (primeSpindle s j n bs).1.marks = s.marks := by
  simp [primeSpindle]

@[simp] theorem primeAll_marks (s : State) (j : Nat) (bs : List Byte) : (primeAll s j bs).1.marks = s.marks := by
  unfold primeAll
  generalize jobSet s j = ns
  have hkeep (r : State × Bool) :
      (ns.foldl (fun r n => let x := primeSpindle r.1 j n bs; (x.1, r.2 && x.2)) r).1.marks = r.1.marks := by
    induction ns generalizing r with
    | nil => rfl
    | cons n ns ih => rw [List.foldl_cons, ih, primeSpindle_marks]
  rw [hkeep]

@[simp] theorem failStart_marks (s : State) (j : Nat) : (failStart s j).marks = s.marks := by
  unfold failStart
  split <;> simp

@[simp] theorem startFlow_marks (s : State) (j : Nat) : (startFlow s j).marks = s.marks := by
  simp [startFlow]

@[simp] theorem beginJob_marks (s : State) (j : Nat) : (beginJob s j).marks = s.marks := by
  unfold beginJob
  split <;> simp

@[simp] theorem reenter_marks (s : State) (j : Nat) : (reenter s j).marks = s.marks := by
  rw [reenter]
  simp

@[simp] theorem writeSection_marks (s : State) (key area k n : Nat) : (writeSection s key area k n).marks = s.marks := by
  simp [writeSection]

@[simp] theorem writeCellars_marks (key : Nat) (x0 : List Nat) (x1 : Nat) (s : State) : (writeCellars key x0 x1 s).marks = s.marks := by
  induction x0 generalizing x1 s with
  | nil => rfl
  | cons n ns ih => rw [writeCellars, ih, moveLines_marks]

/-- Written out: unifying through the fold would compute a section. -/
theorem foldl_writeSection_marks (key area : Nat) (xs : List (Nat × Nat)) (s : State) :
    (xs.foldl (fun s x => writeSection s key area x.2 x.1) s).marks = s.marks := by
  induction xs generalizing s with
  | nil => rfl
  | cons x xs ih => rw [List.foldl_cons, ih, writeSection_marks]

@[simp] theorem writeImage_marks (s : State) (j : Nat) (c : Ckpt) : (writeImage s j c).marks = s.marks := by
  rw [writeImage, jobReceipt_marks, modJob_marks, writeCellars_marks, foldl_writeSection_marks]

@[simp] theorem writeImages_marks (s : State) : (writeImages s).marks = s.marks := by
  refine foldl_marks (fun s j => ?_) _ s
  split
  · split
    · rw [writeImage_marks]
    · rfl
  · rfl

@[simp] theorem ckptDone_marks (s : State) (d : Desc) (status : Nat) : (ckptDone s d status).marks = s.marks := by
  unfold ckptDone
  split <;> simp

@[simp] theorem finishDescs_marks (s : State) : (finishDescs s).marks = s.marks := by
  unfold finishDescs
  refine (foldl_marks (fun s x => ?_) _ _).trans ?_
  · simp
  · rfl

@[simp] theorem refilled_marks (s : State) (j n : Nat) : (refilled s j n).marks = s.marks := by
  simp [refilled]

@[simp] theorem cxlServe_marks (s : State) (off n : Nat) (data : Option (List Byte)) : (cxlServe s off n data).marks = s.marks := by
  unfold cxlServe
  split <;> simp

/-- The accesses that waited are served. -/
theorem serveCxl_marks (s : State) : (serveCxl s).marks = (s.marks.1, [], s.marks.2.2) := by
  unfold serveCxl
  exact foldl_marks (fun s x => cxlServe_marks ..) _ _

@[simp] theorem clearMeters_marks (s : State) : (clearMeters s).marks = s.marks := by
  simp [clearMeters]

@[simp] theorem chargeBell_marks (s : State) (d : Nat) : (chargeBell s d).1.marks = s.marks := by
  unfold chargeBell
  split <;> simp

@[simp] theorem learn_marks (s : State) (d : Nat) (es : List (List Nat)) (j : Nat) : (learn s d es j).marks = s.marks := by
  unfold learn
  dsimp only
  (repeat' split) <;> simp

@[simp] theorem recordPace_marks (s : State) (j : Nat) : (recordPace s j).marks = s.marks := by
  simp [recordPace]

@[simp] theorem rebalance_marks (s : State) (j : Nat) : (rebalance s j).marks = s.marks := by
  unfold rebalance
  dsimp only
  (repeat' split) <;> simp

@[simp] theorem recordOwn_marks (s : State) (j : Nat) : (recordOwn s j).marks = s.marks := by
  unfold recordOwn
  dsimp only
  (repeat' split) <;> simp

@[simp] theorem paceOut_marks (s : State) (q : Nat) : (paceOut s q).marks = s.marks := by
  simp [paceOut]

@[simp] theorem idleRatios_marks (s : State) : (idleRatios s).marks = s.marks := by
  refine foldl_marks (fun s p => ?_) _ s
  split
  · rw [stepTo_marks]
  · split
    · rfl
    · rw [stepTo_marks]

@[simp] theorem clearRises_marks (s : State) : (clearRises s).marks = s.marks := by
  simp [clearRises]

@[simp] theorem chooseRatios_marks (s : State) : (chooseRatios s).marks = s.marks := by
  rw [chooseRatios, foldl_marks paceOut_marks, idleRatios_marks, clearRises_marks, foldl_marks]
  intro t x
  rw [foldl_marks (stepTo_marks x.2), modJob_marks]

@[simp] theorem settleRatios_marks (s : State) : (settleRatios s).marks = s.marks := by
  unfold settleRatios
  split <;> simp

@[simp] theorem recordStretch_marks (s : State) (t dt : Nat) : (recordStretch s t dt).marks = s.marks := by
  exact foldl_marks (fun s p => by rw [raiseAt_marks]) _ _

@[simp] theorem settleLoss_marks (b : BellIn) (t : Nat) (s : State) : (settleLoss b t s).marks = s.marks := by
  refine (foldl_marks (fun s x => ?_) _ _).trans (countAllLoss_marks s t)
  rw [ite_marks, addLost_marks, ite_self]

@[simp] theorem endWaits_marks (dt : Nat) (s : State) (p : Nat) : (endWaits dt s p).marks = s.marks := by
  unfold endWaits
  split <;> simp

@[simp] theorem closeStep_marks (s : State) (j : Nat) : (closeStep s j).marks = s.marks := by
  unfold closeStep
  extract_lets v x y s₁ s₂ s₃
  have h₂ : s₂.marks = s.marks := foldl_marks (fun t n => by rw [modSp_marks]) (jobSet s₁ j) s₁
  have h₃ : s₃.marks = s₂.marks := by
    rw [ite_marks, raiseJob_marks, ite_self]
  clear_value s₂ s₃
  split
  · rw [raiseJob_marks, h₃, h₂]
  · exact h₂

@[simp] theorem closeAll_marks (s : State) : (closeAll s).marks = s.marks := by
  exact foldl_marks (fun s j => by split <;> simp) _ s

@[simp] theorem clampAll_marks (s : State) : (clampAll s).marks = s.marks := by
  exact foldl_marks (fun s j => by split <;> simp) _ s

@[simp] theorem endHalted_marks (s : State) : (endHalted s).marks = s.marks := by
  exact foldl_marks (fun s j => by split <;> simp) _ s

@[simp] theorem dropCkpt_marks (s : State) (j code : Nat) : (dropCkpt s j code).marks = s.marks := by
  unfold dropCkpt
  dsimp only
  (repeat' split) <;> simp

@[simp] theorem holdJob_marks (s : State) (j : Nat) : (holdJob s j).marks = s.marks := by
  unfold holdJob
  split <;> simp

@[simp] theorem holdAll_marks (s : State) : (holdAll s).marks = s.marks := by
  exact foldl_marks (fun s j => by split <;> simp) _ s

@[simp] theorem settleStart_marks (s : State) (j : Nat) : (settleStart s j).marks = s.marks := by
  unfold settleStart
  split <;> simp

@[simp] theorem settleStarts_marks (s : State) : (settleStarts s).marks = s.marks := by
  exact foldl_marks (fun s j => by split <;> simp) _ s

@[simp] theorem moveNumber_marks (s : State) (n c : Nat) : (moveNumber s n c).marks = s.marks := by
  simp [moveNumber]

@[simp] theorem remap_marks (s : State) (n : Nat) : (remap s n).marks = s.marks := by
  unfold remap
  dsimp only
  (repeat' split) <;> simp

@[simp] theorem remapAll_marks (s : State) : (remapAll s).marks = s.marks := by
  refine foldl_marks (fun s n => ?_) _ s
  split
  · rw [ite_marks, remap_marks, ite_self]
  · rw [remap_marks]

@[simp] theorem reportRefills_marks (s : State) : (reportRefills s).1.marks = s.marks := by
  unfold reportRefills
  refine (foldl_marks (fun s x => ?_) _ _).trans ?_
  · simp
  · rfl

@[simp] theorem skipGate_marks (starts : Bool) (s : State) (p : Nat) : (skipGate starts s p).marks = s.marks := by
  unfold skipGate
  dsimp only
  (repeat' split) <;> simp

@[simp] theorem choosePage_marks (s : State) (j : Nat) : (choosePage s j).marks = s.marks := by
  unfold choosePage
  split
  · rfl
  · split
    · rw [ite_marks, modJob_marks, ite_self]
    · rfl

@[simp] theorem openJob_marks (fresh : Nat → Bool) (s : State) (j : Nat) : (openJob fresh s j).marks = s.marks := by
  have hheld : ∀ (ns : List Nat) (t : State),
      (ns.foldl (fun s n => modSp s (posOf s n) fun sp => { sp with streams := sp.streams.map noteFirst }) t).marks = t.marks :=
    foldl_marks fun t n => by rw [modSp_marks]
  unfold openJob
  extract_lets t
  have ht : t.marks = s.marks := by rw [ite_marks, choosePage_marks, ite_self]
  clear_value t
  split
  · rw [hheld, ht]
  · refine (foldl_marks (fun u n => ?_) _ t).trans ht
    rw [ite_marks, skipGate_marks, modSp_marks, ite_self]

@[simp] theorem checkOutliers_marks (s : State) (p : Nat) : (checkOutliers s p).marks = s.marks := by
  unfold checkOutliers
  dsimp only
  (repeat' split) <;> simp

@[simp] theorem dropPartner_marks (s : State) (q : Nat) : (dropPartner s q).marks = s.marks := by
  unfold dropPartner
  split <;> simp

@[simp] theorem bellPort_marks (slip : Nat) (s : State) (q : Nat) : (bellPort slip s q).marks = s.marks := by
  unfold bellPort
  simp (disch := simp [ite_marks]) [foldl_marks, ite_marks]

@[simp] theorem compareSite_marks (s : State) (n : Nat) : (compareSite s n).marks = s.marks := by
  unfold compareSite
  dsimp only
  (repeat' split) <;> simp

@[simp] theorem judgeStuck_marks (s : State) (n : Nat) : (judgeStuck s n).marks = s.marks := by
  unfold judgeStuck
  dsimp only
  (repeat' split) <;> simp

@[simp] theorem readCoolant_marks (s : State) (inlet outlet : Nat) : (readCoolant s inlet outlet).marks = s.marks := by
  unfold readCoolant
  dsimp only
  (repeat' split) <;> simp

@[simp] theorem countIdle_marks (s : State) : (countIdle s).marks = s.marks := by
  simp [countIdle]

/-- A wake cause ends the light sleep state. -/
theorem endSleep_marks (s : State) : (endSleep s).marks = (s.marks.1, if s.marks.2.2.1 then ([], false, 0, false) else s.marks.2) := by
  unfold endSleep
  rw [ite_marks, serveCxl_marks, apply_ite (Prod.mk s.marks.1)]
  rfl

@[simp] theorem flushDue_marks (s : State) : (flushDue s).marks = s.marks := by
  unfold flushDue
  rw [foldl_marks fun s j => by split <;> simp]
  exact foldl_marks (fun s j => by split <;> simp) _ s

@[simp] theorem noteSlip_marks (slip n : Nat) (s : State) : (noteSlip slip n s).marks = s.marks := by
  unfold noteSlip
  simp [ite_marks]

@[simp] theorem bellOrder_marks (s : State) : (bellOrder s).marks = s.marks := by
  unfold bellOrder
  dsimp only
  rw [acceptAll_marks, foldl_marks reenter_marks]
  simp

/-! What a bell settles first leaves the registers as they are, and so the time it was scheduled for. -/

theorem trySwitch_regs (s : State) (p : Nat) : (trySwitch s p).regs = s.regs := by
  unfold trySwitch
  dsimp only
  split <;> simp

theorem stepTo_regs (n : Nat) (s : State) (p : Nat) : (stepTo n s p).regs = s.regs := by
  rw [stepTo, trySwitch_regs, modPw_regs]

theorem idleRatios_regs (s : State) : (idleRatios s).regs = s.regs := by
  refine foldl_keeps State.regs (fun s p => ?_) _ s
  split
  · rw [stepTo_regs]
  · split
    · rfl
    · rw [stepTo_regs]

theorem chooseRatios_regs (s : State) : (chooseRatios s).regs = s.regs := by
  rw [chooseRatios, foldl_keeps State.regs fun u q => (rfl : (paceOut u q).regs = u.regs), idleRatios_regs]
  refine foldl_keeps State.regs (fun u x => ?_) _ s
  rw [foldl_keeps State.regs (stepTo_regs x.2), modJob_regs]

theorem settleRatios_regs (s : State) : (settleRatios s).regs = s.regs := by
  unfold settleRatios
  split
  · rfl
  · exact chooseRatios_regs s

theorem rebalance_regs (s : State) (j : Nat) : (rebalance s j).regs = s.regs := by
  unfold rebalance
  dsimp only
  split <;> simp

theorem statEntry_regs (s : State) (j : Nat) : (statEntry s j).regs = s.regs := by
  rw [statEntry, modJob_regs, addDue_regs]

theorem flushDue_regs (s : State) : (flushDue s).regs = s.regs := by
  have hreb : ∀ u j, (if rebDue u j then settleRatios (rebalance u j) else u).regs = u.regs := fun u j => by
    rw [apply_ite State.regs, settleRatios_regs, rebalance_regs, ite_self]
  have hstat : ∀ u j, (if (jobOf u j).statDue then statEntry u j else u).regs = u.regs := fun u j => by
    rw [apply_ite State.regs, statEntry_regs, ite_self]
  unfold flushDue
  generalize List.range 8 = xs
  rw [foldl_keeps State.regs hstat, foldl_keeps State.regs hreb]

theorem flushDue_schedAt (s : State) : schedAt (flushDue s) = schedAt s := by
  obtain ⟨⟨-, hlast, -⟩, -⟩ : (_ ∧ _ ∧ _) ∧ _ := by simpa only [State.marks, BellGen.marks, Prod.mk.injEq] using flushDue_marks s
  have hst : st (flushDue s) 0x08 = st s 0x08 := by
    rw [st, if_neg (by decide), flushDue_regs]
    exact (if_neg (by decide)).symm
  rw [schedAt, schedAt, hlast, period, period, stf, stf, hst]

/-- Not by `rfl`: the simplifier would unfold it, and the kernel then run the folds before it. -/
theorem countBell_marks (t slip : Nat) (s : State) : (countBell t slip s).marks = ((s.marks.1.1 + 1, t, max s.marks.1.2.2.1 t,
    s.marks.1.2.2.2.1 + slip, if slip = 0 then s.marks.1.2.2.2.2 else sat32 s.marks.1.2.2.2.2 1), s.marks.2) := by
  cases s
  rfl

theorem endSleep_dropChecks_marks (s : State) : (endSleep { s with spindles := s.spindles.map dropChecks }).marks =
    (s.marks.1, if s.marks.2.2.1 then ([], false, 0, false) else s.marks.2) :=
  endSleep_marks _

theorem foldl_learn_marks (dt : Nat) (es : List (List Nat)) (js : List Nat) (s : State) :
    (js.foldl (fun s j => learn s dt es j) s).marks = s.marks := by
  induction js generalizing s with
  | nil => rfl
  | cons j js ih => rw [List.foldl_cons, ih, learn_marks]

theorem foldl_endWaits_marks (b : BellIn) (dt t : Nat) (ps : List Nat) (s : State) :
    (ps.foldl (endWaits dt) (settleLoss b t s)).marks = s.marks := by
  rw [foldl_marks (endWaits_marks dt), settleLoss_marks]

theorem foldl_judge_marks (ns : List Nat) (s : State) :
    (ns.foldl (fun s n => judgeStuck (compareSite s n) n) s).marks = s.marks := by
  induction ns generalizing s with
  | nil => rfl
  | cons n ns ih => rw [List.foldl_cons, ih, judgeStuck_marks, compareSite_marks]

/-- The counts of a frame start again. -/
theorem newFrame_marks (s : State) (fetched signed : Nat) (sq : List SqRing) (seen : List Nat) :
    State.marks { s with hif := { s.hif with fetched := fetched, signed := signed, sq := sq }, hbm := { s.hbm with corrSeen := seen } } =
      s.marks := rfl

theorem fireBell_marks (b : BellIn) (t : Nat) (s : State) : (fireBell b t s).marks =
    ((s.bell.count + 1, t, max s.bell.refTime t, s.bell.slipTotal + (t - schedAt s),
      if t - schedAt s = 0 then s.bell.slipCount else sat32 s.bell.slipCount 1),
      if s.power.wakeDue then ([], false, 0, false) else s.marks.2) := by
  have hopen := fun fresh => foldl_marks (openJob_marks fresh)
  have hports := fun slip => foldl_marks (bellPort_marks slip)
  unfold fireBell
  simp only [takeShots_marks, writeImages_marks, startCycle_marks, countIdle_marks, readCoolant_marks, foldl_judge_marks, hports,
    settleRatios_marks, foldl_marks recordOwn_marks, hopen, bellOrder_marks, endSleep_dropChecks_marks, foldl_marks checkOutliers_marks,
    foldl_marks recordPace_marks, foldl_learn_marks, chargeBell_marks, noteSlip_marks, recordStretch_marks, countBell_marks, foldl_endWaits_marks,
    flushDue_marks, flushDue_schedAt, newFrame_marks]
  rfl

end Sys2Proof.Machine

open Sys2Proof Sys2Proof.Machine

/-- Settles O43: `countBell` counts the bell, and every other part of a bell leaves the counts and times as they are (`fireBell_marks`). -/
theorem bellCountsByOne : Obligations.BellCountsByOne := by
  refine ⟨fun b s hruns hdone hlate => ?_, fun b s h => ?_⟩
  · have hexec : exec (.bell b) s = .next (fireBell b (bellTime s) s) := by
      change execBell b s = _
      simp only [execBell, hruns, hdone, hlate, Bool.not_false, Bool.and_self, if_true]
    obtain ⟨⟨hcount, hlast, href, htotal, hslips⟩, -⟩ : (_ ∧ _ ∧ _ ∧ _ ∧ _) ∧ _ := by
      simpa only [State.marks, BellGen.marks, Prod.mk.injEq] using fireBell_marks b (bellTime s) s
    exact ⟨_, hexec, hcount, hlast, href, htotal, hslips⟩
  · change execBell b s = _
    have hrule : (bellRuns s && !anyUnfinished s && !anyLate s) = false := by
      rcases h with h | h | h <;> simp [h]
    simp only [execBell, hrule, Bool.false_eq_true, if_false]

end

section
/-!
The carder, the fabric and the HBM (O27, O29, O30): each command with its checks passed.
-/
namespace Sys2Proof.Machine
variable {s : State} {p : Nat} {q : QEntry}

/-- A CHBM whose record holds no poison, is legal and lies in the HBM leaves its lines to be presented. -/
theorem chbm_ready {op : Nat} {l : Loc} (h : Ready s p 4 q) (hop : isOp 0x21 121 120 op q.word = true) (hlegal : chbmBad op q.word = false)
    (hl : l = (issuePos s p 4).scrub (chPar q.word) 32) (hclean : l.poisonIn (chPar q.word) 32 = none)
    (hok : (chbmRec (l.rdN (chPar q.word) 32)).ok op = true) (hin : (chbmRec (l.rdN (chPar q.word) 32)).outside op = none) :
    chbm p op s = .next (chbmDo s p op q (chbmRec (l.rdN (chPar q.word) 32)) l) := by
  subst hl
  rw [chbm, issueS_ready h hop]
  simp only [hlegal, hclean, hok, hin, Bool.not_true, Bool.false_eq_true, if_false]

/-- A move within the own window whose ranges do not overlap. -/
theorem localMove_get {l : Loc} (hclash : ownClash s p false q.word = false) : localMove s p false q l = closePos s p (ownMove s p false q l) := by
  simp only [localMove, hclash, ownFinal, Bool.false_and, Bool.false_eq_true, if_false]

/-- The first access that waits is presented once its time is known and nothing holds it. -/
theorem meshAdmission_presents {s₀ : State} {t : Nat} {a : Access} {rest : List Access} (hp : p < 624)
    (hpresent : (spAt s₀ p).carder.present = a :: rest) (ht : t = presentAt s₀ p a) (hs : s = settleBy s₀ (portTime s₀ p t 0))
    (hlive : live s p = true) (hknown : clockKnown s p t = true) (hwaits : presentWaits s p a = false) (hlower : lowerFirst s p t = false) :
    exec (.meshAdmission p) s₀ = .next (presentDo s p t a rest ((openPos s₀ p).at_ t)) := by
  subst ht
  change execMeshAdmission p s₀ = _
  rw [execMeshAdmission, onPosS_lt hp, openPos_sp, hpresent]
  dsimp only
  rw [← hs]
  simp only [hlive, hknown, hwaits, hlower, Bool.not_true, Bool.or_self, Bool.false_eq_true, if_false]

section
variable {t : Nat} {a : Access} {rest : List Access} {l : Loc} (hmiss : a.loft = true → loftMiss l a = true)
  (hslots : isHbm a.addr = true → slotsFor s ((jobAt s p).getD 8) (hbmOff a.addr) ≠ 0)
include hmiss hslots

theorem presentDo_of_miss : presentDo s p t a rest l =
    if !(flitsFor s p t a).all (fits s.fabric.flits) then closePos s p (holdBack t a rest l)
    else admitDo s p t a (if a.loft then loftAlloc a (l.card fun c => { c with present := rest }) else l.card fun c => { c with present := rest }) := by
  have hhit : (a.loft && !loftMiss l a) = false := by
    cases hl : a.loft with
    | false => rfl
    | true => rw [hmiss hl, Bool.not_true, Bool.and_false]
  have hslot : (isHbm a.addr && slotsFor s ((jobAt s p).getD 8) (hbmOff a.addr) == 0) = false := by
    cases hh : isHbm a.addr with
    | false => rw [Bool.false_and]
    | true => rw [Bool.true_and, beq_false_of_ne (hslots hh)]
  simp only [presentDo, hhit, hslot, Bool.false_eq_true, if_false]

end

end Sys2Proof.Machine

open Sys2Proof Sys2Proof.Machine

/-- Settles O27: each form with its checks passed. -/
theorem cmoveCompletes : Obligations.CmoveCompletes := by
  refine ⟨?_, ?_, ?_, ?_, ?_, ?_, ?_⟩
  · rintro s p q l h hop rfl hlegal hrange hown hclash
    change execCmoveGet p s = _
    rw [execCmoveGet, issueS_ready h hop]
    simp only [hlegal, hrange, hown, localMove_get hclash, Bool.not_true, Bool.false_eq_true, if_false, if_true]
  · rintro s p q l h hop rfl hlegal hrange hown
    change execCmoveGet p s = _
    rw [execCmoveGet, issueS_ready h hop]
    simp only [hlegal, hrange, hown, Bool.not_true, Bool.false_eq_true, if_false]
  · rintro s p q l h hop rfl hlegal hrange hown hclash hfinal
    change execCmovePut p s = _
    rw [execCmovePut, issueS_ready h hop]
    simp only [localMove, hlegal, hrange, hown, hclash, hfinal, Bool.not_true, Bool.false_eq_true, if_false, if_true]
  · rintro s p q l u h hop rfl hlegal hrange hown hclash rfl hfinal
    change execCmovePut p s = _
    rw [execCmovePut, issueS_ready h hop]
    simp only [localMove, hlegal, hrange, hown, hclash, hfinal, Bool.not_true, Bool.false_eq_true, if_false, if_true]
  · rintro s p q l h hop rfl hlegal hrange hown
    change execCmovePut p s = _
    rw [execCmovePut, issueS_ready h hop]
    simp only [hlegal, hrange, hown, Bool.not_true, Bool.false_eq_true, if_false]
  · rintro s p q l h hop rfl hlegal hevent hfmt
    change execCmoveAdd p s = _
    rw [execCmoveAdd, issueS_ready h hop]
    simp only [hlegal, hevent, hfmt, Bool.false_eq_true, if_false, if_true]
  · rintro s p q l h' m h hop rfl hlegal hevent hfmt rfl rfl hfault
    change execCmoveAdd p s = _
    rw [execCmoveAdd, issueS_ready h hop]
    simp only [hlegal, hevent, if_neg (Nat.not_le.mpr hfmt), hfault, Bool.false_eq_true, if_false]

/-- Settles O29: the first access that waits by its kind, its slots and its flits; replies and acknowledgements as they come. -/
theorem fabricCompletes : Obligations.FabricCompletes := by
  refine ⟨?_, ?_, ?_, ?_, ?_⟩
  · rintro s0 s p t a rest l x hp hpresent ht hs hlive hknown hwaits hlower rfl hloft hmiss rfl
    rw [meshAdmission_presents hp hpresent ht hs hlive hknown hwaits hlower]
    simp only [presentDo, hloft, hmiss, Bool.not_false, Bool.and_self, if_true]
  · rintro s0 s p t a rest l out hp hpresent ht hs hlive hknown hwaits hlower rfl hmiss hslots hfits rfl
    rw [meshAdmission_presents hp hpresent ht hs hlive hknown hwaits hlower, presentDo_of_miss hmiss hslots, hfits]
    rfl
  · rintro s0 s p t a rest l hp hpresent ht hs hlive hknown hwaits hlower rfl hmiss hslots hfits
    rw [meshAdmission_presents hp hpresent ht hs hlive hknown hwaits hlower, presentDo_of_miss hmiss hslots, hfits]
    rfl
  · intro s s' p t r hp hr
    change execGetLineArrival p s = _
    rw [execGetLineArrival, onPosS_lt hp]
    simp only [hr]
  · intro s s' p t r hp hr
    change execWriteAckArrival p s = _
    rw [execWriteAckArrival, onPosS_lt hp]
    simp only [hr]

/-- Settles O30: each command with what it finds. -/
theorem hbmCompletes : Obligations.HbmCompletes := by
  refine ⟨?_, ?_, ?_, ?_, ?_, ?_, ?_, ?_, ?_⟩
  · intro s p q l h hop hlegal hl hclean hok hin
    exact chbm_ready h hop hlegal hl hclean hok hin
  · intro s p q l h hop hlegal hl hclean hok hin
    exact chbm_ready h hop hlegal hl hclean hok hin
  · intro s p q l h hop hlegal hl hclean hok hin
    exact chbm_ready h hop hlegal hl hclean hok hin
  · rintro s0 s st ch g x hst hch rfl hx rfl hlate hahead
    change execHbmGrant st ch s0 = _
    simp only [execHbmGrant, hst, hch, hx, hlate, hahead, Bool.or_self, Bool.false_eq_true, if_false, if_true]
  · rintro s s' u p x hp hx rfl
    change execHbmDataArrival p s = _
    rw [execHbmDataArrival, onPosS_lt hp]
    simp only [hx, ge_iff_le, decide_eq_true_eq] <;> rfl
  · rintro s s' u p x hp hx rfl
    change execHbmWriteCommit p s = _
    rw [execHbmWriteCommit, onPosS_lt hp]
    simp only [hx]
  · intro s hfired hheld hrefresh hoff
    change ∃ t, execHbmTimetableCycle s = _ ∧ _
    refine ⟨_, if_pos ?_, rfl, rfl, rfl⟩
    rw [hfired, hheld, hrefresh, hoff]; rfl
  · intro s n off hn hrefresh hoff
    change (_ → execPatrolScrub n s = _) ∧ (_ → execPatrolScrub n s = _)
    rw [execPatrolScrub, onUnit_lt _ _ _ _ hn, hrefresh, hoff]
    refine ⟨fun hb => ?_, fun hb => ?_⟩
    · simp only [hb, Bool.or_self, Bool.false_eq_true, if_false]
    · simp only [hb, Bool.or_self, Bool.false_eq_true, if_false]
  · intro s p hp hlive
    change execDistaffScrub p s = _
    rw [execDistaffScrub, onPos_lt _ _ _ hp]
    simp only [runPos, openPos_sp, hlive, Bool.not_true, Bool.false_eq_true, if_false]
    rfl

end

section
/-!
The hank (O36).
-/
namespace Sys2Proof.Machine
variable {s : State} {p : Nat} {q : QEntry}

/-- A word of stream C that may issue finds no PUSH or POP that waits. -/
theorem hankWait_of_ready (h : Ready s p 4 q) : (spAt s p).hank.wait = none := by
  have hm : mayIssueOn s p 4 (spAt s p) = true := h.2.2.2.1
  simp only [mayIssueOn, bne_self_eq_false, Bool.false_or, Bool.and_eq_true, Option.isNone_iff_eq_none] at hm
  exact hm.2.1.1.1

theorem hankWaits_of_ready (h : Ready s p 4 q) (op : Nat) : hankWaits s p op (openPos s p) = none := by
  rw [hankWaits, openPos_sp, hankWait_of_ready h]
  rfl

/-- A ready legal PUSH starts, waits or raises its event. -/
theorem chankPush_ready {l : Loc} (h : Ready s p 4 q) (hop : isOp 0x24 121 120 0 q.word = true) (hl : l = issuePos s p 4)
    (hlegal : chBad l.sp.hank.record q.word = false) : execChankPush p s = .next (closePos s p (pushDo s p (issueAt l 4) q l)) := by
  subst hl
  rw [execChankPush, hankWaits_of_ready h]
  dsimp only
  rw [issue_ready h hop]
  simp only [hlegal, Bool.false_eq_true, if_false]

/-- A ready legal POP by what stands newest in the region. -/
theorem chankPop_ready {l : Loc} (h : Ready s p 4 q) (hop : isOp 0x24 121 120 1 q.word = true) (hl : l = issuePos s p 4)
    (hlegal : chBad l.sp.hank.record q.word = false) : execChankPop p s = .next (closePos s p
      (if l.sp.hank.top.isSome then startPop (issueAt l 4) q l
        else if l.sp.hank.cellar.isEmpty && !l.sp.hank.refilling then l.orderErr (issueAt l 4) q none else l.hankWait (issueAt l 4) q)) := by
  subst hl
  rw [execChankPop, issue_ready h hop]
  simp only [hlegal, Bool.false_eq_true, if_false]

theorem hankTimeout_waits {op code : Nat} {w : HankWait} (hp : p < 624) (hw : hankWaits s p op (openPos s p) = some w)
    (hwake : mayWake (spAt s p).hank w (w.since + chTimeout w.q.word) = false) :
    hankTimeout p op code s = .next (runPos s p fun l => l.hankErr s p code (w.since + chTimeout w.q.word) w.q) := by
  rw [hankTimeout, onPos_lt _ _ _ hp, runPos, runPos]
  simp only [hw, openPos_sp, hwake, Bool.false_eq_true, if_false]

theorem moverStep_granted (s : State) (p j : Nat) (m : Mover) (off t : Nat) :
    ∃ x ∈ (moverStep s p j m off t).hbm.granted, x.mover = true ∧ x.pos = p ∧ x.off = off ∧ x.write = !m.refill ∧
      (m.refill = false → x.at_ = t + 237 ∧
        x.data = (((openPos s p).at_ t).scrub ((spAt s p).hank.off (m.ent.line + m.next)) 64).rd ((spAt s p).hank.off (m.ent.line + m.next)) 64) ∧
      (m.refill = true → x.at_ = t + 240 ∧ x.acc.local_ = (spAt s p).hank.off (m.ent.line + m.next) ∧ x.data = hbmRead s off 64) := by
  rw [moverStep, payLines_hbm, closePos_hbm]
  refine ⟨_, List.mem_append_right _ (List.mem_singleton_self _), rfl, rfl, rfl, rfl, fun h => ?_, fun h => ?_⟩
  · simp only [h, Bool.false_eq_true, if_false, and_self]
  · simp only [h, if_true, and_self]

end Sys2Proof.Machine

open Sys2Proof Sys2Proof.Machine

/-- Settles O36: PUSH and POP through `chankPush_ready` and `chankPop_ready`, the timeouts through `hankTimeout_waits`, and the mover's steps by what
each finds. -/
theorem hankCompletes : Obligations.HankCompletes := by
  refine ⟨?_, ?_, ?_, ?_, ?_, ?_, ?_, ?_, ?_, ?_, ?_, ?_⟩
  · intro s p q l h hop hl hlegal hroom
    refine (chankPush_ready h hop hl hlegal).trans ?_
    simp only [pushDo, hroom, if_true]
  · intro s p q l h hop hl hlegal hroom
    refine (chankPush_ready h hop hl hlegal).trans ?_
    simp only [pushDo, hroom, if_false]
  · intro s p w hp hw
    change execChankPush p s = _
    rw [execChankPush, hw]
    exact onPos_lt _ _ _ hp
  · intro s p q l e h hop hl hlegal htop htag hlines
    refine (chankPop_ready h hop hl hlegal).trans ?_
    simp only [startPop, htop, htag, hlines, Option.isSome_some, bne_self_eq_false, Bool.or_self, Bool.false_eq_true, if_false, if_true]
  · intro s p q l e h hop hl hlegal htop hne
    have hdiff : (e.tag != chTag q.word || e.lines != chLines q.word) = true := by simpa using hne
    refine (chankPop_ready h hop hl hlegal).trans ?_
    simp only [startPop, htop, hdiff, Option.isSome_some, if_true]
  · intro s p q l h hop hl hlegal htop
    refine (chankPop_ready h hop hl hlegal).trans ?_
    simp only [htop, Option.isSome_none, Bool.false_eq_true, if_false]
  · intro s p w hp hw hwake
    exact hankTimeout_waits hp hw hwake
  · intro s p w hp hw hwake
    exact hankTimeout_waits hp hw hwake
  · intro s p hp hruns hmover
    change execHankMoverStart p s = _
    rw [execHankMoverStart, onPos_lt _ _ _ hp, runPos, runPos]
    simp only [openPos_sp, hruns, hmover, Option.isNone_none, Bool.and_self, if_true]
  · rintro s p j off t o key m hp hm rfl hmover hcarder rfl
    refine ⟨?_, moverStep_granted s p j m off t⟩
    change execHankMoverLine p s = _
    rw [execHankMoverLine, onPosS_lt hp]
    simp only [hm, hmover, hcarder, Bool.or_self, Bool.false_eq_true, if_false]
  · rintro s p t m l hp hm rfl
    change execHankSpillComplete p s = _
    rw [execHankSpillComplete, onPos_lt _ _ _ hp, runPos, openPos_sp, hm]
  · rintro s p t m l hp hm rfl
    change execHankRefillComplete p s = _
    rw [execHankRefillComplete, onPos_lt _ _ _ hp, runPos, openPos_sp, hm]

end

section
/-!
The full/empty operations (O38).
-/
namespace Sys2Proof.Machine
variable {s : State} {p : Nat} {q : QEntry}

/-- A ready CFE whose release is met, that is legal and whose target raises no event. -/
theorem cfe_ready {op : Nat} {l : Loc} (h : Ready s p 4 q) (hop : isOp 0x25 121 119 op q.word = true) (hl : l = issuePos s p 4)
    (hfree : cfeFree s p q.word l.sp = true) (hlegal : cfeBad op q.word = false) (hevent : cfeEvent s p (cfTarget q.word) = none) :
    cfe p op s = .next (closePos s p (cfeDo s p op q l)) := by
  subst hl
  rw [cfe, issueS_ready h hop]
  simp only [hfree, hlegal, hevent, Bool.not_true, Bool.false_eq_true, if_false]

/-! A reply leaves the fabric: of the positions only clocks and counters change. -/

theorem presentLates_length (s : State) (t : Nat) : (presentLates s t).spindles.length = s.spindles.length := by
  rw [presentLates]
  generalize s.fabric.lates.length * (t + 1) = n
  induction n generalizing s with
  | zero => rfl
  | succ n ih =>
    rw [settleLates]
    split
    · rw [ih, enterLate]
      split
      · rfl
      · exact modAt_length ..
    · rfl

theorem countLoss_length (t : Nat) (s : State) (p : Nat) : (countLoss t s p).spindles.length = s.spindles.length := by
  unfold countLoss stretchAt
  dsimp only
  split
  · exact modAt_length ..
  · exact (presentLates_length ..).trans (modAt_length ..)

theorem settleBy_length (s : State) (t : Nat) : (settleBy s t).spindles.length = s.spindles.length :=
  (presentLates_length ..).trans (foldl_keeps (·.spindles.length) (countLoss_length _) _ s)

theorem takeReply_length {f : Reply → Bool} {r : Reply} {t : Nat} {s' : State} (h : takeReply s p f = some (r, t, s')) :
    s'.spindles.length = s.spindles.length := by
  unfold takeReply at h
  extract_lets u at h
  have hlen : u.spindles.length = s.spindles.length := by
    dsimp only [u]
    split
    · exact settleBy_length ..
    · rfl
  clear_value u
  split at h
  · split at h
    · obtain ⟨-, -, rfl⟩ : _ ∧ _ ∧ _ := by simpa only [Option.some.injEq, Prod.mk.injEq] using h
      exact hlen
    · cases h
  · cases h

/-! What a reply's data leave -/

/-- What a write that becomes visible later leaves in its range, whatever it poisons. -/
theorem memGet_soon_wrP {l : Loc} {t a k : Nat} {bs : List Byte} {pw : List Nat} (hlate : l.late = some t) (hm : Memory.wf l.sp.distaff.mem = true)
    (hno : NoWriteTo (a + k) l.sp.pend) (hk : k < bs.length) : memGet (l.wrP a bs pw).sp.soon (a + k) = bs.getD k 0#8 := by
  have hne : bs.isEmpty = false := by
    cases bs with
    | nil => cases hk
    | cons b bs => rfl
  have hwr : l.wrP a bs pw = l.push { Pend.bytes t a bs pw with reel := l.reeler } := by
    rw [Loc.wrP, hlate]
    simp only [hne, Bool.false_eq_true, if_false]
  rw [hwr]
  exact memGet_soonOf_insPend_self (e := { Pend.bytes t a bs pw with reel := l.reeler }) hm hno hk

theorem endCfe_soon (l : Loc) (inst t : Nat) : (l.endCfe inst t).sp.soon = l.sp.soon := by
  unfold Loc.endCfe
  split <;> rfl

/-- The data of a TAKE or READF stand at LOCAL once they have landed. -/
theorem cfeAnswer_soon {s' : State} {t i : Nat} {r : Reply} {c : CfeArg} {l : Loc} (htime : r.timeout = false) (hop : c.op = 1 ∨ c.op = 2)
    (hm : Memory.wf l.sp.distaff.mem = true) (hno : NoWriteTo (8 * c.lword + i) l.sp.pend) (hi : i < r.data.length) :
    memGet (cfeAnswer s' p t r c l).sp.soon (8 * c.lword + i) = r.data[i] := by
  have hread : ¬(c.op = 0 ∨ c.op = 3) := by omega
  unfold cfeAnswer
  simp only [htime, hread, Bool.false_eq_true, if_false]
  rw [endCfe_soon]
  refine (memGet_soon_wrP (l := { l.acquire s' p c.acq with late := some (t + 4) }) rfl hm hno hi).trans ?_
  rw [List.getD_eq_getElem?_getD, List.getElem?_eq_getElem hi]
  rfl

end Sys2Proof.Machine

open Sys2Proof Sys2Proof.Machine

/-- Settles O38: each CFE through `cfe_ready`, a reply through `cfeAnswer_soon`, and the wait table by what stands in it. -/
theorem fullEmptyOpsComplete : Obligations.FullEmptyOpsComplete := by
  have hreply : ∀ (s s' : State) (p t : Nat) (r : Reply) (c : CfeArg), p < 624 → live s p = true →
      takeReply s p (fun r => r.acc.kind == .cfe) = some (r, t, s') → r.acc.cfe = some c →
      exec (.cfeReplyArrival p) s = .next (closePos s' p (cfeAnswer s' p t r c
        (((openPos s p).card fun k => { k with sent := k.sent.filter (·.tag != r.acc.tag) }).at_ t))) := by
    intro s s' p t r c hp hlive hr hc
    change execCfeReplyArrival p s = _
    rw [execCfeReplyArrival, onPosS_lt hp]
    simp only [hlive, hr, hc, Bool.not_true, Bool.false_eq_true, if_false]
  refine ⟨?_, ?_, ?_, ?_, hreply, ?_, ?_, ?_⟩
  · intro s p q l h hop hl hfree hlegal hevent
    exact cfe_ready h hop hl hfree hlegal hevent
  · intro s p q l h hop hl hfree hlegal hevent
    exact cfe_ready h hop hl hfree hlegal hevent
  · intro s p q l h hop hl hfree hlegal hevent
    exact cfe_ready h hop hl hfree hlegal hevent
  · intro s p q l h hop hl hfree hlegal hevent
    exact cfe_ready h hop hl hfree hlegal hevent
  · intro s s' p t r c hmem hp hlive hlen hr hc htime hop hno
    refine ⟨_, hreply s s' p t r c hp hlive hr hc, fun i hi => ?_⟩
    have hframe : (((openPos s p).card fun k => { k with sent := k.sent.filter (·.tag != r.acc.tag) }).at_ t).Keeps
        (noWriteFrame s p (8 * c.lword + i)) :=
      Loc.at_keeps ((Loc.card_keeps ..).mpr (openPos_keeps_noWriteFrame hmem fun e he =>
        (hno e he).elim (fun h => .inr (by omega)) fun h => .inl (by omega))) t
    obtain ⟨hwf, -, hnow⟩ := hframe trivial
    rw [soonByte, closePos_spAt _ _ _ (by rwa [takeReply_length hr])]
    exact cfeAnswer_soon htime hop hwf (hnow _ _ ⟨rfl, rfl⟩).1 hi
  · intro s p t w rest c hp hw hc ht
    change execFeWaitServe p s = _
    rw [execFeWaitServe, onPosS_lt hp, openPos_sp, hw]
    simp only [hc, ht, if_true]
  · intro s p w rest hp hw hlive hserved
    change execFeWaitExpire p s = _
    rw [execFeWaitExpire, onPosS_lt hp, openPos_sp]
    simp only [hlive, hw]
    refine congrArg Host.Outcome.next (if_neg ?_)
    cases hn : nextServe (spAt s p) with
    | none => exact Bool.false_ne_true
    | some x =>
      obtain ⟨v, t⟩ := x
      simp only [Bool.and_eq_true, beq_iff_eq, decide_eq_true_eq, not_and, Nat.not_le]
      exact hserved v t hn

end

section
/-!
The reeler (O39).
-/
namespace Sys2Proof.Machine
variable {s s₁ s' : State} {p t : Nat} {a : Access} {rest : List Access} {l : Loc}

/-- The earliest access under way leaves the fabric at a position that does not skip and, for one that came through a port, holds no checkpoint. -/
def arrivalDo (s' : State) (p t : Nat) (a : Access) (l : Loc) : State :=
  let off := a.addr % 0x0200_0000
  if a.kind == .getLine then
    let o := if a.loft then off / 64 * 64 else off
    let n := if a.loft then 64 else a.len
    if (pwAt s' p).dark then reply (drawBytes s' n).2 p (t + 5) a (drawBytes s' n).1 [] false
    else reply (closePos s' p (l.scrub o n)) p (t + 5) a ((l.scrub o n).rd o n) ((l.scrub o n).granules o n) false
  else if !live s' p then closePos s' p l
  else if a.final then closePos s' p (l.reel fun r => { r with held := r.held ++ [{ a with at_ := t }] })
  else if l.sp.reeler.queue.length ≥ 256 then raiseAt (closePos s' p l) p (ev 0x304 (sourceWord a) (arrivalByte l.sp.reeler a))
  else closePos s' p ((l.reel fun r => { r with queue := r.queue ++ [{ a with at_ := t }] }).count
    fun c => { c with reelPeak := max c.reelPeak (l.sp.reeler.queue.length + 1) })

theorem reelerArrival_eq (hp : p < 624) (hs₁ : s₁ = arrivalsBy s p) (hnext : nextArrival s₁ p = some (a, rest)) (hready : arrivalReady s₁ p a = true)
    (ht : t = arrivalOf s₁ p a) (hs' : s' = dropFlit { s₁ with fabric := { s₁.fabric with net := rest } } a false)
    (hl : l = (openPos s' p).at_ t) (hskip : l.sp.skipping < 2) (hckpt : (inCheckpoint s' p && a.via.isSome) = false) :
    exec (.reelerArrival p) s = .next (arrivalDo s' p t a l) := by
  change execReelerArrival p s = _
  rw [execReelerArrival, onPosS_lt hp, ← hs₁]
  dsimp only
  rw [hnext]
  dsimp only
  rw [hready, ← ht, ← hs', ← hl]
  simp only [hckpt, ge_iff_le, if_neg (Nat.not_le.mpr hskip), Bool.not_true, Bool.false_eq_true, if_false]
  rfl

end Sys2Proof.Machine

open Sys2Proof Sys2Proof.Machine

/-- Settles O39: the words through the rule of an issue, an arrival through `reelerArrival_eq`, and what the reeler takes next by what it is. -/
theorem reelerCompletes : Obligations.ReelerCompletes := by
  refine ⟨?_, ?_, ?_, ?_, ?_⟩
  · rintro s p q l l1 h hcls rfl hlegal rfl hclean hok
    change execRarm p s = _
    rw [execRarm, issue_ready h hcls]
    simp only [hlegal, hclean, hok, Bool.false_eq_true, if_false]
  · rintro s p q l b h hcls rfl hbuf hlegal hwaits
    change execRclose p s = _
    rw [execRclose, issueW_ready h hcls]
    simp only [hbuf, hlegal, hwaits, Bool.false_eq_true, if_false, Option.map_some, Option.getD_some]
  · rintro s p t occ c rest l hp hconvs hpow rfl rfl rfl hclean
    change execRcloseConvert p s = _
    rw [execRcloseConvert, onPos_lt _ _ _ hp, runPos, openPos_sp, hconvs]
    simp only [hpow, hclean, Bool.not_true, Bool.false_eq_true, if_false]
  · intro s s1 s' p t a rest l hp hs1 hnext hready ht hs' hl hskip hckpt
    rw [reelerArrival_eq hp hs1 hnext hready ht hs' hl hskip hckpt]
    refine ⟨?_, fun hkind hlive => ?_, fun hkind hlive => ⟨fun hfinal => ?_, fun hfinal hroom => ?_⟩⟩
    · rintro hkind o n rfl rfl
      refine ⟨fun hdark => ?_, fun hdark => ?_⟩
      · simp only [arrivalDo, hkind, hdark, beq_self_eq_true, Bool.false_eq_true, if_false, if_true]
      · simp only [arrivalDo, hkind, hdark, beq_self_eq_true, if_true]
    · simp only [arrivalDo, beq_false_of_ne hkind, hlive, Bool.not_false, Bool.false_eq_true, if_false, if_true]
    · simp only [arrivalDo, beq_false_of_ne hkind, hlive, hfinal, Bool.not_true, Bool.false_eq_true, if_false, if_true]
    · simp only [arrivalDo, beq_false_of_ne hkind, hlive, hfinal, ge_iff_le, if_neg (Nat.not_le.mpr hroom), Bool.not_true, Bool.false_eq_true, if_false]
  · intro s p t hp
    change (∀ a rest, _ → execReelerTake p s = _) ∧ (∀ a rest, _ → execReelerTake p s = _) ∧ (∀ w rest c, _ → _ → _ → execReelerTake p s = _)
    rw [execReelerTake, onPosS_lt hp, openPos_sp]
    refine ⟨fun a rest hx => ?_, fun a rest hx => ?_, fun w rest c hx hc ht => ?_⟩
    · rw [hx]
    · rw [hx]
    · rw [hx]
      simp only [hc, ht, if_true]

end

section
/-!
The Ply ports (O40, O41).
-/
namespace Sys2Proof.Machine
variable {s : State} {n : Nat}

/-! What an operation leaves of the ports -/

theorem portAt_modPort_self {f : Port → Port} (hn : n < s.ports.length) : portAt (modPort s n f) n = f (portAt s n) :=
  modAt_getD_self _ _ _ _ hn

theorem portAt_modPort_ne {m : Nat} {f : Port → Port} (h : m ≠ n) : portAt (modPort s n f) m = portAt s m :=
  modAt_getD_ne _ _ _ _ _ h.symm

theorem portAt_congr {t : State} (h : t.ports = s.ports) (n : Nat) : portAt t n = portAt s n := by rw [portAt, h]; rfl

theorem raisePort_ports (s : State) (n : Nat) (e : Ev) : (raisePort s n e).ports = s.ports := by
  unfold raisePort
  split
  · exact raiseJob_ports ..
  · exact raiseDev_ports ..

theorem bootOrder_ports (s : State) : (bootOrder s).ports = s.ports := by
  unfold bootOrder
  dsimp only
  split <;> rfl

theorem raiseTraining_ports (s : State) (n : Nat) (e : Ev) : (raiseTraining s n e).ports = s.ports := by
  unfold raiseTraining
  split
  · rw [bootOrder_ports, raisePort_ports]
  · exact raisePort_ports ..

theorem framesNow_length (s : State) (n : Nat) : (framesNow s n).ports.length = s.ports.length := modAt_length ..

/-! Frames that go out -/

theorem sendFrames_request (k : Nat) (x : Port) : (sendFrames k x).request = x.request := by
  induction k generalizing x with
  | zero => rfl
  | succ k ih =>
    rw [sendFrames]
    split
    · rfl
    · rw [ih]; rfl

theorem takeMap_of_request {x : Port} {seq sp w : Nat} (h : x.request = some (seq, sp, w)) : takeMap x = { x with txw := w, txsp := sp, request := none } := by
  rw [takeMap, h]

/-! Registers -/

theorem getKey_insKey {α : Type} (k : Nat) (v : α) (l : List (Nat × α)) : getKey k (insKey k v l) = some v := by
  induction l with
  | nil => simp [insKey, getKey]
  | cons x xs ih =>
    obtain ⟨m, w⟩ := x
    rw [insKey]
    split
    · simp [getKey]
    · split
      · simp [getKey]
      · next h =>
        rw [getKey, List.find?_cons_of_neg (by simpa using fun heq => h heq.symm)]
        exact ih

theorem getKey_delKey {α : Type} (k : Nat) (l : List (Nat × α)) : getKey k (delKey k l) = none := by
  rw [getKey, delKey, List.find?_eq_none.mpr, Option.map_none]
  intro x hx
  simpa using (List.mem_filter.mp hx).2

theorem st_setSt {o v : Nat} (h : inBlock o 0x2000 8 144 = false) : st (setSt s o v) o = v := by
  rw [st, if_neg (by rw [h]; exact Bool.false_ne_true), setSt]
  dsimp only
  split
  next hv => rw [getKey_delKey, Option.getD_none, hv]
  · rw [getKey_insKey, Option.getD_some]

theorem portDown_port (hn : n < s.ports.length) :
    (portAt (portDown s n) n).state = 0 ∧ (portAt (portDown s n) n).items = [] ∧ (portAt (portDown s n) n).sent = [] := by
  have hlen : n < (framesNow (raisePort s n (ev 0x403 n 0)) n).ports.length := by rwa [framesNow_length, raisePort_ports]
  have hport := portAt_modPort_self (f := fun x => { x with
    state := 0, downOut := 64, items := [], tx := [], wire := [], sent := [], request := none, sendReq := none, narrow := false,
    downFrames := 0, shut := none }) hlen
  exact ⟨(congrArg Port.state hport :), (congrArg Port.items hport :), (congrArg Port.sent hport :)⟩

theorem noteCorrected_seqIn (f : Frame) (x : Port) : (noteCorrected f x).seqIn = x.seqIn := rfl

/-! Training -/

theorem plyCtrl_bit (s : State) (n b : Nat) : plyCtrl s n b b = st s (0x40000 + 0x100 * n) / 2 ^ b % 2 := by
  rw [plyCtrl, stf, fldN, Nat.shiftRight_eq_div_pow, Nat.add_sub_cancel_left, show 2 ^ 1 = 2 from rfl]

theorem foldl_raiseTraining_ports {α : Type} (xs : List α) (e : Ev) (s : State) (n : Nat) :
    (xs.foldl (fun s _ => raiseTraining s n e) s).ports = s.ports :=
  foldl_keeps State.ports (fun s _ => raiseTraining_ports s n e) xs s

/-! What a partner's answers bring -/

/-- An answer adds one reply and leaves the ports and the requests under way. -/
theorem foldl_fromPartner (q : Nat) (as : List Access) (data : List Byte) (timeout : Bool) (s : State) :
    (as.foldl (fun s a => fromPartner s q a data timeout false) s).ports = s.ports ∧
      (as.foldl (fun s a => fromPartner s q a data timeout false) s).fabric.net = s.fabric.net ∧
      (as.foldl (fun s a => fromPartner s q a data timeout false) s).fabric.replies.length = s.fabric.replies.length + as.length := by
  induction as generalizing s with
  | nil => exact ⟨rfl, rfl, rfl⟩
  | cons a as ih =>
    obtain ⟨hports, hnet, hlen⟩ := ih (fromPartner s q a data timeout false)
    refine ⟨hports, hnet, ?_⟩
    rw [List.foldl_cons, hlen, fromPartner]
    dsimp only
    rw [List.length_append, List.length_singleton, List.length_cons, Nat.add_assoc, Nat.add_comm 1]
    rfl

theorem portAt_spreadRep_lt (n : Nat) (as : List Access) (data : List Byte) (s : State) : (spreadRep n as data s).1.ports = s.ports := by
  induction as generalizing data s with
  | nil => rfl
  | cons a as ih =>
    rw [spreadRep]
    split
    · rfl
    · rw [ih]; rfl

end Sys2Proof.Machine

open Sys2Proof Sys2Proof.Machine

/-- Settles O40: each transaction at a port that is up; an answer by the request that it finds. -/
theorem portTransactionsComplete : Obligations.PortTransactionsComplete := by
  refine ⟨?_, ?_, ?_, ?_, ?_, ?_, ?_, ?_, ?_⟩
  · intro s n t hn hup
    change execPlyPutReceive n t s = _
    rw [execPlyPutReceive, atPort_up _ hn hup]
  · intro s n t hn hup
    change execPlyGetreqReceive n t s = _
    rw [execPlyGetreqReceive, atPort_up _ hn hup]
  · intro s n t hn hup
    change execPlyAddReceive n t s = _
    rw [execPlyAddReceive, atPort_up _ hn hup]
  · intro s n t hn hup
    change execPlyCfeReceive n t s = _
    rw [execPlyCfeReceive, atPort_up _ hn hup]
  · intro s n t x rest hn hup hx
    change ∃ u, execPlyGetrepReceive n t s = _ ∧ _
    rw [execPlyGetrepReceive, atPort_up _ hn hup]
    simp only [hx]
    refine ⟨_, rfl, ?_, rfl⟩
    rw [portAt_modPort_self (by rw [portAt_spreadRep_lt]; exact port_lt_of_up hup)]
  · intro s n t hn hup hx
    change execPlyGetrepReceive n t s = _
    rw [execPlyGetrepReceive, atPort_up _ hn hup]
    simp only [hx]
  · intro s n t x rest hn hup hx
    change ∃ u, execPlyCferepReceive n t s = _ ∧ _
    rw [execPlyCferepReceive, atPort_up _ hn hup]
    simp only [hx]
    obtain ⟨hports, hnet, hlen⟩ := foldl_fromPartner n x.accs t.payload t.flag (modPort s n fun y => { y with sent := rest })
    refine ⟨_, rfl, ?_, hnet, hlen⟩
    rw [portAt_congr hports, portAt_modPort_self (port_lt_of_up hup)]
  · intro s n t hn hup hx
    change execPlyCferepReceive n t s = _
    rw [execPlyCferepReceive, atPort_up _ hn hup]
    simp only [hx]
  · intro s n t hn hup
    change execPlyAckReceive n t s = _
    rw [execPlyAckReceive, atPort_up _ hn hup]

/-- Settles O41: each event of a port by what the port's state asks for, with what the rules of `modPort` and of the events leave of it. -/
theorem portsComplete : Obligations.PortsComplete := by
  refine ⟨?_, ?_, ?_, ?_, ?_, ?_, ?_, ?_⟩
  · intro s n lane hlane hn hup
    change execLaneLockLoss n lane s = _
    rw [execLaneLockLoss, if_pos hlane, onPort, onUnit_lt _ _ _ _ hn, if_pos hup]
  · intro s n seq sp w hn hlen hreq
    change ∃ t, execPlyLaneMapChange n s = _ ∧ _
    rw [execPlyLaneMapChange, onPort, onUnit_lt _ _ _ _ hn, hreq]
    have hmap := takeMap_of_request (x := sendFrames (framesToMap seq (portAt s n)) (portAt s n)) ((sendFrames_request ..).trans hreq)
    have hself := portAt_modPort_self (f := fun x => takeMap (sendFrames (framesToMap seq x) x)) hlen
    refine ⟨_, rfl, hself, ?_, ?_, ?_, fun m hm => portAt_modPort_ne hm⟩
    · exact (congrArg Port.txw (hself.trans hmap) :)
    · exact (congrArg Port.txsp (hself.trans hmap) :)
    · exact (congrArg Port.request (hself.trans hmap) :)
  · intro s n f hn hup
    change execPlyFrameReceive n f s = _
    have hseq : (portAt (modPort s n (noteCorrected f)) n).seqIn = (portAt s n).seqIn := by
      rw [portAt_modPort_self (port_lt_of_up hup), noteCorrected_seqIn]
    rw [execPlyFrameReceive, onPort, onUnit_lt _ _ _ _ hn, if_pos hup]
    dsimp only
    rw [hseq]
  · intro s n hn hup hdown hlen
    change ∃ t, execPlyNoFrameTimeout n s = _ ∧ _
    rw [execPlyNoFrameTimeout, onPort, onUnit_lt _ _ _ _ hn, if_pos ⟨hup, hdown⟩]
    exact ⟨_, rfl, portDown_port hlen⟩
  · intro s s1 u n w hn hopen hw hs1 hu
    change ∃ t, execPlyAdmissionWindow n s = _ ∧ _
    rw [execPlyAdmissionWindow, onPort, onUnit_lt _ _ _ _ hn, if_pos hopen]
    dsimp only
    rw [← hw, ← hs1, ← hu]
    exact ⟨_, rfl, rfl⟩
  · intro s n ppb rawIn rawOut cls c signal bad locked m d hn hlen hstate hbad hmaps hppb hcls hoff
    change ∃ t, execPlyTraining n signal locked ppb rawIn rawOut cls s = _ ∧ _
    subst hbad
    rw [execPlyTraining, onPort, onUnit_lt _ _ _ _ hn, if_pos ⟨hoff, hstate⟩]
    simp only [hmaps, hcls, if_neg (Nat.not_lt.mpr hppb), gt_iff_lt]
    generalize hu : List.foldl _ _ _ = u
    have hports : u.ports = modAt s.ports n fun x => { x with raw := some rawIn } := by rw [← hu, foldl_raiseTraining_ports]; rfl
    have hraw : (portAt u n).raw = some rawIn := by rw [portAt, hports, modAt_getD_self _ _ _ _ hlen]
    refine ⟨_, rfl, ?_⟩
    rw [portAt_congr (s := modPort u n _) (by
      split
      · rfl
      · exact raiseTraining_ports ..)]
    rw [portAt_modPort_self (by rwa [hports, modAt_length])]
    exact ⟨rfl, rfl, rfl, rfl, rfl, rfl, rfl, hraw⟩
  · intro s n failed hn hstate
    change execPlyTrainStepTimeout n s failed = _
    rw [execPlyTrainStepTimeout, onPort, onUnit_lt _ _ _ _ hn, if_pos hstate]
  · intro s n hn hlen hoff hretrain hen
    change ∃ t, execPlyRetrain n s = _ ∧ _
    have hst : st (setSt s (0x40000 + 0x100 * n) (st s (0x40000 + 0x100 * n) - 16)) (0x40000 + 0x100 * n) = st s (0x40000 + 0x100 * n) - 16 :=
      st_setSt ((by decide : ∀ n, n < 6 → inBlock (0x40000 + 0x100 * n) 0x2000 8 144 = false) n hn)
    have hen' : plyCtrl (setSt s (0x40000 + 0x100 * n) (st s (0x40000 + 0x100 * n) - 16)) n 0 0 = 1 := by
      rw [plyCtrl_bit] at hretrain hen ⊢
      rw [hst]
      omega
    rw [execPlyRetrain, onPort, onUnit_lt _ _ _ _ hn, if_pos ⟨hoff, hretrain⟩]
    simp only [hen', if_true]
    refine ⟨_, rfl, ?_, ?_⟩
    · rw [startTraining, portAt_modPort_self (by rwa [setSt_ports])]
    · have hregs : st (startTraining false (setSt s (0x40000 + 0x100 * n) (st s (0x40000 + 0x100 * n) - 16)) n) (0x40000 + 0x100 * n) =
          st s (0x40000 + 0x100 * n) - 16 := hst
      rw [plyCtrl_bit] at hretrain ⊢
      rw [hregs]
      omega

end

section
/-!
The bells' other rules (O42) and the rings (O44).
-/
namespace Sys2Proof.Machine
variable {s t u : State}

/-- From s to t only entries of E-0x503 join those due. -/
def RingsFull (s t : State) : Prop := ∃ more, t.hif.due = s.hif.due ++ more ∧ ∀ e ∈ more, e.code = 0x503

theorem RingsFull.of_due (h : t.hif.due = s.hif.due) : RingsFull s t := ⟨[], by rw [h, List.append_nil], by simp⟩

theorem RingsFull.trans (h₁ : RingsFull s t) (h₂ : RingsFull t u) : RingsFull s u := by
  obtain ⟨xs, hxs, hx⟩ := h₁
  obtain ⟨ys, hys, hy⟩ := h₂
  refine ⟨xs ++ ys, by rw [hys, hxs, List.append_assoc], fun e he => ?_⟩
  obtain he | he := List.mem_append.mp he
  · exact hx e he
  · exact hy e he

theorem ringsFull_foldl {α : Type} {f : State → α → State} (hf : ∀ s a, RingsFull s (f s a)) (xs : List α) (s : State) : RingsFull s (xs.foldl f s) := by
  induction xs generalizing s with
  | nil => exact .of_due rfl
  | cons x xs ih => exact (hf s x).trans (ih _)

theorem payBytes_due (s : State) (k n : Nat) : (payBytes s k n).hif.due = s.hif.due := by rw [(payBytes_parts s k n).1]

theorem hostWrite_due (s : State) (a : Nat) (bs : List Byte) (bad : List Nat) : (hostWrite s a bs bad).hif.due = s.hif.due := rfl

theorem putSlot_due (s : State) (e : Entry) : (putSlot s e).hif.due = s.hif.due := by
  unfold putSlot
  split
  · rw [payBytes_due]; rfl
  · rfl

theorem putEntry_due (s : State) (j : Nat) (e : Entry) : (putEntry s j e).hif.due = s.hif.due := by
  unfold putEntry
  extract_lets u r v
  have hu : u.hif.due = s.hif.due := putSlot_due s e
  have hv : v.hif.due = u.hif.due := by rw [payBytes_due, hostWrite_due]
  exact hv.trans hu

theorem drainHeld_due (es : List Entry) (j : Nat) (s : State) : (drainHeld es j s).hif.due = s.hif.due := by
  induction es generalizing s with
  | nil => rfl
  | cons e es ih =>
    rw [drainHeld]
    split
    · rw [ih]; exact putEntry_due s j e
    · rfl

theorem holdEntry_ringsFull (s : State) (j : Nat) (e : Entry) : RingsFull s (holdEntry s j e) := by
  unfold holdEntry
  split
  · exact .of_due rfl
  · dsimp only
    split
    · split
      · exact .of_due rfl
      · obtain ⟨x, hx, hcode, -, -⟩ :=
          raiseJob_due (modJob (modCq s j fun r => { r with lost := sat32 r.lost 1 }) j fun b => { b with ovf := true }) j (ev 0x503 0 0)
        exact ⟨[x], hx, fun y hy => (List.mem_singleton.mp hy) ▸ hcode⟩
    · exact .of_due rfl

theorem placeEntry_ringsFull (s : State) (e : Entry) : RingsFull s (placeEntry s e) := by
  unfold placeEntry
  dsimp only
  split
  · exact .of_due (putEntry_due ..)
  · split
    · exact (RingsFull.of_due (putSlot_due s e)).trans (holdEntry_ringsFull ..)
    · exact holdEntry_ringsFull ..

theorem sendVector_due (s : State) (j : Nat) : (sendVector s j).hif.due = s.hif.due := by
  unfold sendVector
  split <;> rfl

theorem modSq_sqAt_self {r : Nat} {f : SqRing → SqRing} (h : r < s.hif.sq.length) : sqAt (modSq s r f) r = f (sqAt s r) := modAt_getD_self _ _ _ _ h
theorem modCq_cqAt_self {j : Nat} {f : CqRing → CqRing} (h : j < s.hif.cq.length) : cqAt (modCq s j f) j = f (cqAt s j) := modAt_getD_self _ _ _ _ h
theorem modJob_jobOf_self {j : Nat} {f : Job → Job} (h : j < s.jobs.length) : jobOf (modJob s j f) j = f (jobOf s j) := modAt_getD_self _ _ _ _ h

/-- The head of a completion ring, or of the device event ring, moves. -/
theorem headBell_cqAt {j d v : Nat} (hs : Serving s) (hen : cqCtrl s j 0 0 = 1) (hv : v % 65536 < cqSize s j) (hlen : j < s.hif.cq.length) :
    cqAt (headBell j d v s) j = { cqAt s j with head := v % 65536 } := by
  rw [headBell_inRange hs hen hv, modCq_cqAt_self (by rwa [wakeLight_hif]), cqAt, wakeLight_hif]
  rfl

end Sys2Proof.Machine

open Sys2Proof Sys2Proof.Machine

/-- Settles O42: each command where its rule lets it happen. -/
theorem bellsComplete : Obligations.BellsComplete := by
  refine ⟨?_, ?_, ?_, ?_, ?_, ?_⟩
  · intro b s hruns hdone hlate
    change execBell b s = _
    simp only [execBell, hruns, hdone, hlate, Bool.not_false, Bool.and_self, if_true]
  · intro b s hruns hel hopen
    change execSlipLimitExceeded b s = _
    simp only [execSlipLimitExceeded, hruns, hel, hopen, Bool.and_self, if_true]
  · intro s p k j hk hp hj hstate hen hraised hover
    change execFrameOverBudget p k s = _
    rw [execFrameOverBudget, if_pos hk, onPosS_lt hp]
    simp only [openPos_sp, hj, hstate, hen, hraised, gt_iff_lt, hover, beq_self_eq_true, Bool.not_false, Bool.and_self, decide_true, if_true]
  · intro s p k hk hp hel hruns hopen
    change execFrameOverrun p k s = _
    rw [execFrameOverrun, if_pos hk, onPosS_lt hp]
    simp only [hel, hruns, hopen, Bool.not_false, Bool.and_self, if_true]
  · intro s j hj hlen hdue
    change ∃ t e, execStatisticsEntry j s = _ ∧ _
    rw [execStatisticsEntry, onUnit_lt _ _ _ _ hj, if_pos hdue]
    exact ⟨_, _, rfl, rfl, rfl, rfl, rfl, modJob_jobOf_self hlen⟩
  · intro s j hj hdue
    change execRebalance j s = _
    rw [execRebalance, onUnit_lt _ _ _ _ hj, if_pos hdue]

/-- Settles O44: the doorbells through the rules of `exec_doorbellSq_inRange` and `headBell_inRange`; of the entries due only those that arose in
earlier frames leave (`placeEntry_ringsFull`). -/
theorem ringsComplete : Obligations.RingsComplete := by
  refine ⟨?_, ?_, ?_, ?_, ?_⟩
  · intro s r v hr hs hen hv hlen
    refine ⟨_, exec_doorbellSq_inRange hr hs hen hv, ?_⟩
    rw [modSq_sqAt_self (by rwa [wakeLight_hif]), sqAt, wakeLight_hif]
    rfl
  · intro s j v hj hs hen hv hlen
    exact ⟨_, exec_doorbellCq v s hj, headBell_cqAt hs hen hv hlen⟩
  · intro s v hs hen hv hlen
    exact ⟨_, exec_doorbellDeq v s, headBell_cqAt hs hen hv hlen⟩
  · intro s r err recErr hruns hlink hfetched hr
    change execDescriptorFetch err s recErr = _
    have hrule : (s.bell.fired && !s.bell.held && !s.power.off) = true := hruns
    simp only [execDescriptorFetch, hrule, hlink, hfetched, hr, Bool.and_self, decide_true, if_true]
  · intro s hfired hoff
    change ∃ t, execEntryWrite s = _ ∧ _
    have hrule : (s.bell.fired && !s.power.off) = true := by rw [hfired, hoff]; rfl
    rw [execEntryWrite, if_pos hrule]
    refine ⟨_, rfl, ?_⟩
    extract_lets _ now _ u v w
    have huv : RingsFull u v := ringsFull_foldl (fun s j => .of_due (drainHeld_due _ j s)) _ u
    have hvw : RingsFull v w := ringsFull_foldl placeEntry_ringsFull _ v
    refine (huv.trans hvw).trans (ringsFull_foldl (fun s j => ?_) _ w)
    split
    · exact .of_due (sendVector_due ..)
    · exact .of_due rfl

end

section
/-!
Descriptors (O46): what binds a job to its descriptor is changed by nothing that a start loads.
-/
namespace Sys2Proof.Machine
variable {s t : State}

/-- What binds a job to the descriptor that started it. -/
def Job.bound (b : Job) : Nat × Option (Nat × Nat) × Numeric × List Byte × Bool := (b.state, b.start, b.num, b.record, b.restoring)

/-- The bindings of all jobs. -/
def State.bound (s : State) : List (Nat × Option (Nat × Nat) × Numeric × List Byte × Bool) := s.jobs.map Job.bound

theorem bound_of_jobs (h : t.jobs = s.jobs) : t.bound = s.bound := by rw [State.bound, h]; rfl

theorem modJob_bound (s : State) (j : Nat) {f : Job → Job} (h : ∀ b, (f b).bound = b.bound) : (modJob s j f).bound = s.bound :=
  map_modAt_of_eq _ _ h

theorem jobOf_bound (h : t.bound = s.bound) (j : Nat) : (jobOf t j).bound = (jobOf s j).bound := by
  have hmap (u : State) : (jobOf u j).bound = u.bound.getD j Job.reset.bound := by
    rw [State.bound, jobOf, List.getD_eq_getElem?_getD, List.getD_eq_getElem?_getD, List.getElem?_map, Option.getD_map]
  rw [hmap, hmap, h]

theorem jobs_length_of_bound (h : t.bound = s.bound) : t.jobs.length = s.jobs.length := by
  have := congrArg List.length h
  rwa [State.bound, State.bound, List.length_map, List.length_map] at this

@[simp] theorem payLines_bound (s : State) (k n : Nat) : (payLines s k n).bound = s.bound := by
  unfold payLines
  split <;> rfl

@[simp] theorem payBytes_bound (s : State) (k n : Nat) : (payBytes s k n).bound = s.bound := by
  unfold payBytes
  split <;> rfl

@[simp] theorem shotWrite_bound (s : State) (who : Option Nat) (a : Nat) (bs : List Byte) : (shotWrite s who a bs).bound = s.bound := by
  unfold shotWrite
  split <;> rfl

@[simp] theorem faultJob_bound (s : State) (j code : Nat) (stop all : Bool) : (faultJob s j code stop all).bound = s.bound :=
  modJob_bound _ _ fun _ => rfl

@[simp] theorem postEv_bound (s : State) (e : Ev) (j lnum p : Option Nat) : (postEv s e j lnum p).bound = s.bound := bound_of_jobs (postEv_jobs ..)

@[simp] theorem raiseDev_bound (s : State) (e : Ev) : (raiseDev s e).bound = s.bound := postEv_bound ..

@[simp] theorem raiseJob_bound (s : State) (j : Nat) (e : Ev) : (raiseJob s j e).bound = s.bound := by
  unfold raiseJob
  dsimp only
  split <;> simp

@[simp] theorem raiseAt_bound (s : State) (p : Nat) (e : Ev) : (raiseAt s p e).bound = s.bound := by
  unfold raiseAt
  dsimp only
  split
  · split <;> simp
  · simp

theorem closePos_bound (s : State) (p : Nat) {l : Loc} (h : l.nf = false) : (closePos s p l).bound = s.bound := by
  unfold closePos
  dsimp only
  rw [foldl_keeps State.bound fun s e => raiseAt_bound s p e, if_neg (by simp [h])]
  exact bound_of_jobs (tallyChan_jobs ..)

@[simp] theorem hbmCode_bound (s : State) (off e : Nat) (who : Option Nat) : (hbmCode s off e who).bound = s.bound := by
  unfold hbmCode
  dsimp only
  split
  · rfl
  · split
    · split
      · rfl
      · rw [raiseDev_bound]; rfl
    · split
      · rw [raiseAt_bound]; rfl
      · rw [raiseDev_bound]; rfl

/-! Positions that are read and written without an instruction -/

theorem Loc.scrub_nf (l : Loc) (a n : Nat) : (l.scrub a n).nf = l.nf := by
  obtain ⟨_, _, _, _, heq⟩ := l.scrub_eq a n
  rw [heq]; rfl

theorem Loc.reading_nf (l : Loc) (rs : List (Nat × Nat)) : (l.reading rs).nf = l.nf := by
  obtain ⟨_, _, _, _, heq⟩ := l.reading_eq rs
  rw [heq]; rfl

theorem Loc.wrP_nf (l : Loc) (a : Nat) (bs : List Byte) (pw : List Nat) : (l.wrP a bs pw).nf = l.nf := by
  unfold Loc.wrP
  split
  · obtain ⟨_, _, _, _, heq⟩ := l.store_eq a bs pw
    rw [heq]; rfl
  · split <;> rfl

/-! Lines moved within a command -/

@[simp] theorem lineIn_bound (s : State) (key a : Nat) : (lineIn s key a).2.bound = s.bound := by
  unfold lineIn
  split
  · exact closePos_bound _ _ (Loc.scrub_nf ..)
  · exact (hbmCode_bound ..).trans (payLines_bound ..)
  · exact payBytes_bound ..
  · rfl

@[simp] theorem lineOut_bound (s : State) (key a : Nat) (x : Line) : (lineOut s key a x).bound = s.bound := by
  unfold lineOut
  dsimp only
  split
  · split
    · exact shotWrite_bound ..
    · exact (closePos_bound _ _ (Loc.wrP_nf ..)).trans (shotWrite_bound ..)
  · exact (payLines_bound ..).trans (shotWrite_bound ..)
  · exact (payBytes_bound ..).trans (shotWrite_bound ..)
  · exact shotWrite_bound ..

@[simp] theorem moveLines_bound (key src dst n : Nat) (s : State) : (moveLines key src dst n s).bound = s.bound := by
  induction n generalizing src dst s with
  | zero => rfl
  | succ n ih => rw [moveLines, ih, lineOut_bound, lineIn_bound]

@[simp] theorem readLines_bound (key a n : Nat) (s : State) : (readLines key a n s).2.bound = s.bound := by
  induction n generalizing a s with
  | zero => rfl
  | succ n ih => exact (ih ..).trans (lineIn_bound ..)

/-! What a start loads -/

theorem primeSpindle_bound (s : State) (j n : Nat) (bs : List Byte) : (primeSpindle s j n bs).1.bound = s.bound := by
  unfold primeSpindle
  extract_lets p a ranges l h m es bad evs l0 l' s'
  have hnf : l'.nf = false := Loc.reading_nf ..
  have hs' : s'.bound = s.bound := closePos_bound _ _ hnf
  clear_value s' evs m
  exact (modJob_bound _ _ (by intro _; rfl)).trans hs'

theorem primeAll_bound (s : State) (j : Nat) (bs : List Byte) : (primeAll s j bs).1.bound = s.bound := by
  suffices h : ∀ (ns : List Nat) (r : State × Bool),
      (ns.foldl (fun r n => ((primeSpindle r.1 j n bs).1, r.2 && (primeSpindle r.1 j n bs).2)) r).1.bound = r.1.bound from h _ _
  intro ns
  induction ns with
  | nil => exact fun _ => rfl
  | cons n ns ih => exact fun r => (ih _).trans (primeSpindle_bound ..)

theorem readSection_bound (s : State) (key area k n : Nat) (x : Spindle) : (readSection s key area k n x).bound = s.bound := by
  unfold readSection
  extract_lets a s1 r
  have h1 : s1.bound = s.bound := moveLines_bound ..
  have h2 : r.2.bound = s1.bound := readLines_bound ..
  clear_value r s1
  rw [bound_of_jobs (modSp_jobs ..), h2, h1]

theorem readCellars_bound (key : Nat) (ns : List Nat) (a : Nat) (s : State) : (readCellars key ns a s).bound = s.bound := by
  induction ns generalizing a s with
  | nil => rfl
  | cons n ns ih => exact (ih ..).trans (moveLines_bound ..)

theorem loadImage_bound (s : State) (j : Nat) (d : Desc) (h : List Byte) (dg : BitVec 512) : (loadImage s j d h dg).bound = s.bound := by
  unfold loadImage
  extract_lets key area ns sv s1 s2 s3
  have h1 : s1.bound = s.bound := foldl_keeps State.bound (fun s x => readSection_bound ..) _ _
  clear_value s1
  have h2 : s2.bound = s.bound := by dsimp only [s2]; rw [readCellars_bound, h1]
  clear_value s2 sv
  have h3 : s3.bound = s2.bound := by
    refine foldl_keeps State.bound (fun u x => ?_) _ _
    split
    · exact (bound_of_jobs (modRecv_jobs ..)).trans (bound_of_jobs (modSend_jobs ..))
    · rfl
  clear_value s3
  exact (modJob_bound _ _ (by intro _; simp only [Job.bound])).trans (h3.trans h2)

theorem setDesc_bound (s : State) (d x : Desc) : (setDesc s d x).bound = s.bound := by
  unfold setDesc
  split <;> rfl

theorem restoreHeader_bound (s : State) (d : Desc) : (restoreHeader s d).2.bound = s.bound := by
  have hread (r : (List Byte × Bool) × State) (hr : r.2.bound = s.bound) : (r.1.1, r.2).2.bound = s.bound := hr
  unfold restoreHeader
  exact hread _ (readLines_bound ..)

theorem setHigh_bound (s : State) (j : Nat) : (setHigh s j).bound = s.bound := by
  unfold setHigh
  exact modJob_bound _ _ (by intro _; simp only [Job.bound])

theorem setPower_bound (s : State) (j : Nat) (bs : List Byte) : (setPower s j bs).bound = s.bound := by
  rw [setPower, bound_of_jobs (setSt_jobs ..)]

/-! The descriptor whose turn it is -/

theorem onStart_of {r k : Nat} {d : Desc} (hr : r < 64) (h : startOf s r k = some d) (f : State → Desc → State) : onStart s r k f = .next (f s d) := by
  rw [onStart, onUnit_lt _ _ _ _ hr, h]

/-- The bindings of the job that a change of one job, followed by steps that keep all bindings, leaves. -/
theorem bound_modJob_self {j : Nat} {f : Job → Job} (hj : j < s.jobs.length) (h : t.bound = (modJob s j f).bound) :
    (jobOf t j).bound = (f (jobOf s j)).bound := by
  rw [jobOf_bound h, modJob_jobOf_self hj]

theorem execJobStart_starts {r : Nat} {d : Desc} (hr : r < 64) (h : startOf s r 1 = some d) (hok : startReason s d.job d.record = none)
    (hj : d.job < s.jobs.length) : ∃ t, execJobStart r s = .next t ∧
      (jobOf t d.job).bound = (1, some (d.ring, d.idx), recNumeric d.record (jobOf s d.job).num, d.record, false) := by
  refine ⟨_, onStart_of hr h _, ?_⟩
  extract_lets j bs s1 s2 s3 x
  have h1 : s1.bound = s.bound := setDesc_bound ..
  have h3 : x.1.bound = s2.bound := (primeAll_bound ..).trans ((setHigh_bound ..).trans (setPower_bound ..))
  have hnum : (jobOf s1 d.job).num = (jobOf s d.job).num := congrArg (fun x => x.2.2.1) (jobOf_bound h1 d.job)
  have h2 : (jobOf s2 d.job).bound = (1, some (d.ring, d.idx), recNumeric d.record (jobOf s1 d.job).num, d.record, false) :=
    congrArg Job.bound (modJob_jobOf_self (by rw [jobs_length_of_bound h1]; exact hj))
  clear_value x s2
  rw [show startReason s j bs = none from hok]
  dsimp only
  rw [← hnum, ← h2, ← jobOf_bound h3]
  exact jobOf_bound (modJob_bound _ _ (by intro _; rfl)) _

theorem execCheckpoint_starts {r : Nat} {d : Desc} (hr : r < 64) (h : startOf s r 5 = some d) (hrun : (jobOf s d.job).state = 2)
    (hckpt : ckptOutstanding s d = false) (harea : hostOrHbm (d.f 191 128) (d.f 255 192) = true) (hlen : ckptLeast s d.job ≤ d.f 255 192)
    (hj : d.job < s.jobs.length) :
    ∃ t, execCheckpoint r s = .next t ∧
      (jobOf t d.job).ckpt.map (fun c => (c.area, c.len, c.taken)) = some (d.f 191 128, d.f 255 192, false) := by
  refine ⟨_, onStart_of hr h _, ?_⟩
  simp only [hrun, hckpt, harea, bne_self_eq_false, Bool.not_true, Bool.or_self, Bool.false_or, decide_eq_true_eq, if_neg (Nat.not_lt.mpr hlen)]
  rw [modJob_jobOf_self (by rw [jobs_length_of_bound (setDesc_bound ..)]; exact hj)]
  rfl

theorem execRestore_starts {r : Nat} {d : Desc} (hr : r < 64) (h : startOf s r 6 = some d) (hidle : (jobOf s d.job).state = 0)
    (hckpt : ckptOutstanding s d = false) (hrest : restoreOutstanding s d = false) (hlink : inHost (d.f 191 128) = true → s.hif.link = true)
    (hok : restoreReason (restoreHeader s d).2 d (restoreHeader s d).1 = none) (hj : d.job < s.jobs.length) :
    ∃ t, execRestore r s = .next t ∧ (jobOf t d.job).state = 1 ∧ (jobOf t d.job).restoring = true ∧
      (jobOf t d.job).start = some (d.ring, d.idx) ∧ (jobOf t d.job).num = headNumeric (restoreHeader s d).1 := by
  have hgo : (inHost (d.f 191 128) && !s.hif.link) = false := by
    cases hin : inHost (d.f 191 128)
    · rfl
    · rw [hlink hin]; rfl
  have hparts (t : State)
      (hb : (jobOf t d.job).bound = (1, some (d.ring, d.idx), headNumeric (restoreHeader s d).1, headRec (restoreHeader s d).1, true)) :
      (jobOf t d.job).state = 1 ∧ (jobOf t d.job).restoring = true ∧ (jobOf t d.job).start = some (d.ring, d.idx) ∧
        (jobOf t d.job).num = headNumeric (restoreHeader s d).1 :=
    ⟨(congrArg (·.1) hb :), (congrArg (·.2.2.2.2) hb :), (congrArg (·.2.1) hb :), (congrArg (·.2.2.1) hb :)⟩
  refine ⟨_, onStart_of hr h _, hparts _ ?_⟩
  simp only [hidle, hckpt, hrest, hgo, hok, bne_self_eq_false, Bool.or_self, Bool.false_eq_true, if_false]
  have hset := (setDesc_bound (restoreHeader s d).2 d { d with started := true }).trans (restoreHeader_bound s d)
  have hlen : d.job < (setDesc (restoreHeader s d).2 d { d with started := true }).jobs.length := by rw [jobs_length_of_bound hset]; exact hj
  generalize setDesc (restoreHeader s d).2 d { d with started := true } = u at hlen ⊢
  generalize imageDigest _ _ _ = dg
  generalize hgood : (beNat _ == dg.toNat) = good
  clear hparts
  rw [jobOf_bound (loadImage_bound ..)]
  have hbind {f : Job → Job} (v : State) (hv : v.bound = (modJob u d.job f).bound) : (jobOf v d.job).bound = (f (jobOf u d.job)).bound :=
    bound_modJob_self hlen hv
  split
  · refine (hbind _ ((setHigh_bound ..).trans ((setPower_bound ..).trans (bound_of_jobs (setSt_jobs ..))))).trans ?_
    rfl
  · refine (hbind _ ((raiseJob_bound ..).trans ((modJob_bound _ _ (by intro _; rfl)).trans
      ((setHigh_bound ..).trans ((setPower_bound ..).trans (bound_of_jobs (setSt_jobs ..))))))).trans ?_
    rfl

end Sys2Proof.Machine
open Sys2Proof Sys2Proof.Machine

/-- Settles O46: a clause per descriptor; what a start loads keeps the job's binding. -/
theorem descriptorsComplete : Obligations.DescriptorsComplete := by
  refine ⟨?nop, ?jobStart, ?stop, ?idle, ?copy, ?snapshot, ?take, ?ahead, ?checkpoint, ?taken, ?restore, ?refill,
    ?receipt⟩
  case nop =>
    intro s r d hr h
    change execNop r s = _
    rw [execNop, onStart_of hr h]
  case jobStart =>
    intro s r d hr h hok hj
    obtain ⟨t, ht, hb⟩ := execJobStart_starts hr h hok hj
    exact ⟨t, ht, (congrArg (·.1) hb :), (congrArg (·.2.1) hb :), (congrArg (·.2.2.1) hb :), (congrArg (·.2.2.2.1) hb :)⟩
  case stop =>
    intro s r d hr h hrun
    change execJobStop r s = _
    rw [execJobStop, onStart_of hr h, if_pos hrun]
  case idle =>
    intro s r d hr h hrun
    change execJobStop r s = _
    rw [execJobStop, onStart_of hr h, if_neg (by simp [hrun])]
  case copy =>
    intro s r d hr h hlink
    change execCopy r s = _
    rw [execCopy, onStart_of hr h, if_neg]
    cases hc : copyHost d
    · simp
    · simp [hlink hc]
  case snapshot =>
    intro s s' r d l hr h hlink hbad hl hs' hok
    change execSnapshot r s = _
    rw [execSnapshot, onStart_of hr h]
    simp only [hlink, hbad, ← hl, ← hs', hok, Bool.not_true, Bool.or_self, Bool.false_eq_true, if_false, if_true]
  case take =>
    intro s j hj hno
    change execSnapshotTake j s = _
    rw [execSnapshotTake, onUnit_lt _ _ _ _ hj, if_neg (by simp [hno])]
  case ahead =>
    intro s j hj hmov
    change execSnapshotTake j s = _
    rw [execSnapshotTake, onUnit_lt _ _ _ _ hj, if_pos hmov]
  case checkpoint =>
    intro s r d hr h hrun hckpt harea hlen hj
    obtain ⟨t, ht, hc⟩ := execCheckpoint_starts hr h hrun hckpt harea hlen hj
    obtain ⟨c, hsome, hc⟩ := Option.map_eq_some_iff.mp hc
    exact ⟨t, c, ht, hsome, (congrArg (·.1) hc :), (congrArg (·.2.1) hc :), (congrArg (·.2.2) hc :)⟩
  case taken =>
    intro s j c hj hlen hdue hc
    change ∃ t, execCheckpointTake j s = .next t ∧ _
    rw [execCheckpointTake, onUnit_lt _ _ _ _ hj]
    refine ⟨_, rfl, ?_⟩
    rw [if_pos hdue, modJob_jobOf_self hlen]
    exact congrArg (Option.map _) hc
  case restore => exact fun s r d hr h hidle hckpt hrest hlink hok hj => execRestore_starts hr h hidle hckpt hrest hlink hok hj
  case refill =>
    intro s s1 j n m rest hq hrun hm hs1
    have hexec : exec .refill s = .next
        (if (jobOf s j).ckptArea = 0 || (inHost (jobOf s j).ckptArea && !s1.hif.link) then abandonRepair s1 j n
          else
            let r := refillImage m ((jobOf s j).ckptArea + 4096 + ((jobSet s1 j).filter (· < n)).length * sectionSize) n (distSize / 64) 0 s1
            if r.2 then refilled r.1 j n else abandonRepair r.1 j n) := by
      change execRefill s = _
      rw [execRefill, hq]
      simp only [hrun, ← hm, ← hs1, Bool.not_true, Bool.false_eq_true, if_false]
    refine ⟨fun hnone => ?_, fun x harea hlink hx => ?_⟩
    · rw [hexec, if_pos]
      obtain h0 | ⟨hin, hl⟩ := hnone
      · simp [h0]
      · simp [hin, hl]
    · rw [hexec, if_neg, ← hx]
      cases hin : inHost (jobOf s j).ckptArea
      · simp [harea]
      · simp [harea, hlink hin]
  case receipt =>
    intro s ok x rest hq hbel hlink hlt
    change execReceiptSign s ok = _
    rw [execReceiptSign, hq]
    simp only [hbel, hlink, hlt, decide_true, Bool.and_self, if_true]
end

section
/-!
The host's link (O47): what an event adds to entries due and faults stays, and what waits for the end of the light sleep state is served.
-/
namespace Sys2Proof.Machine
variable {s t u : State}

/-! Entries due and faults are only added to -/

/-- From s to t no entry due is lost and no fault of a job. -/
def EventsStay (s t : State) : Prop :=
  (∃ xs, t.hif.due = s.hif.due ++ xs) ∧ ∀ j, (jobOf s j).fault.isSome = true → (jobOf t j).fault.isSome = true

theorem EventsStay.of_eq (hdue : t.hif.due = s.hif.due) (hjobs : t.jobs = s.jobs) : EventsStay s t :=
  ⟨⟨[], by rw [hdue, List.append_nil]⟩, fun j h => by rw [jobOf, hjobs]; exact h⟩

theorem EventsStay.trans (h₁ : EventsStay s t) (h₂ : EventsStay t u) : EventsStay s u := by
  obtain ⟨⟨xs, hxs⟩, hf⟩ := h₁
  obtain ⟨⟨ys, hys⟩, hg⟩ := h₂
  exact ⟨⟨xs ++ ys, by rw [hys, hxs, List.append_assoc]⟩, fun j h => hg j (hf j h)⟩

theorem eventsStay_foldl {α : Type} {f : State → α → State} (hf : ∀ s a, EventsStay s (f s a)) (xs : List α) (s : State) :
    EventsStay s (xs.foldl f s) := by
  induction xs generalizing s with
  | nil => exact .of_eq rfl rfl
  | cons x xs ih => exact (hf s x).trans (ih _)

theorem modJob_eventsStay (s : State) (j : Nat) {f : Job → Job} (hf : ∀ b : Job, b.fault.isSome = true → (f b).fault.isSome = true) :
    EventsStay s (modJob s j f) := by
  refine ⟨⟨[], (List.append_nil _).symm⟩, fun k h => ?_⟩
  rw [jobOf, modJob, modAt_getD]
  split
  · exact hf _ h
  · exact h

theorem faultJob_eventsStay (s : State) (j code : Nat) (stop all : Bool) : EventsStay s (faultJob s j code stop all) := by
  refine modJob_eventsStay _ _ fun b hb => ?_
  obtain ⟨x, hx⟩ := Option.isSome_iff_exists.mp hb
  dsimp only
  rw [hx]
  rfl

theorem postEv_eventsStay (s : State) (e : Ev) (j lnum p : Option Nat) : EventsStay s (postEv s e j lnum p) := by
  obtain ⟨x, hx, -⟩ := postEv_due s e j lnum p
  refine ⟨⟨[x], hx⟩, fun k h => ?_⟩
  rw [jobOf, postEv_jobs]
  exact h

theorem raiseAt_eventsStay (s : State) (p : Nat) (e : Ev) : EventsStay s (raiseAt s p e) := by
  unfold raiseAt
  dsimp only
  split
  · split
    · exact postEv_eventsStay ..
    · exact (postEv_eventsStay ..).trans (faultJob_eventsStay ..)
  · exact postEv_eventsStay ..

theorem setNf_eventsStay (s : State) (p : Nat) : EventsStay s (setNf s p) := by
  unfold setNf
  split
  · exact modJob_eventsStay _ _ fun _ h => h
  · exact .of_eq rfl rfl

theorem closePos_eventsStay (s : State) (p : Nat) (l : Loc) : EventsStay s (closePos s p l) := by
  have hown : EventsStay s { modSp (tallyChan s p l) p (fun _ => l.sp) with free := l.free } := .of_eq (by simp) (by simp)
  unfold closePos
  dsimp only
  refine EventsStay.trans ?_ (eventsStay_foldl (fun s e => raiseAt_eventsStay s p e) _ _)
  split
  · exact hown.trans (setNf_eventsStay ..)
  · exact hown

theorem abandonXfer_eventsStay (s : State) (x : Xfer) : EventsStay s (abandonXfer s x) := by
  unfold abandonXfer
  dsimp only
  split
  · exact (EventsStay.of_eq (t := (drawBytes (dropXfer s x) (64 * x.lines)).2) rfl rfl).trans (closePos_eventsStay ..)
  · exact .of_eq rfl rfl

/-! Abandoned transfers -/

theorem scramble_xfers (s : State) (p a n : Nat) : (scramble s p a n).hif.xfers = s.hif.xfers := by
  rw [scramble, runPos, closePos_xfers]
  rfl

theorem abandonXfer_xfers (s : State) (x : Xfer) : (abandonXfer s x).hif.xfers = s.hif.xfers.erase x := by
  rw [← dropXfer_xfers]
  unfold abandonXfer
  dsimp only
  split
  · rw [scramble_xfers]
  · rfl

theorem foldl_abandonXfer_xfers (xs : List Xfer) (s : State) (h : s.hif.xfers = xs) : (xs.foldl abandonXfer s).hif.xfers = [] := by
  induction xs generalizing s with
  | nil => exact h
  | cons x xs ih => exact ih _ (by rw [abandonXfer_xfers, h, List.erase_cons_head])

theorem foldl_abandonXfer_link (xs : List Xfer) (s : State) : (xs.foldl abandonXfer s).hif.link = s.hif.link := by
  refine foldl_keeps (·.hif.link) (fun s x => ?_) xs s
  unfold abandonXfer
  dsimp only
  split
  · rw [scramble, runPos, closePos_hif_link]; rfl
  · rfl

/-! The fault of every running job -/

theorem faultJob_jobOf_state (s : State) (j code : Nat) (stop all : Bool) (k : Nat) :
    (jobOf (faultJob s j code stop all) k).state = (jobOf s k).state := by
  rw [faultJob_jobOf]
  split <;> rfl

/-- A job that has a state has its slot. -/
theorem lt_of_running {j : Nat} (h : (jobOf s j).state = 2) : j < s.jobs.length := by
  refine Decidable.byContradiction fun hj => ?_
  rw [jobOf, getD_of_length_le (Nat.le_of_not_lt hj)] at h
  exact absurd h (by decide)

/-- The jobs of a list whose state meets a condition take a fault. -/
def faultEach (c : Nat → Prop) [DecidablePred c] (code : Nat) (js : List Nat) (s : State) : State :=
  js.foldl (fun s j => if c (jobOf s j).state then faultJob s j code false else s) s

section
variable (c : Nat → Prop) [DecidablePred c] (code : Nat)

theorem faultEach_step (s : State) (j k : Nat) (u : State) (hu : u = if c (jobOf s j).state then faultJob s j code false else s) :
    (jobOf u k).state = (jobOf s k).state ∧ u.hif = s.hif ∧ EventsStay s u := by
  rw [hu]
  split
  · exact ⟨faultJob_jobOf_state .., rfl, faultJob_eventsStay ..⟩
  · exact ⟨rfl, rfl, .of_eq rfl rfl⟩

theorem faultEach_hif (js : List Nat) (s : State) : (faultEach c code js s).hif = s.hif :=
  foldl_keeps State.hif (fun s j => (faultEach_step c code s j 0 _ rfl).2.1) _ s

theorem faultEach_eventsStay (js : List Nat) (s : State) : EventsStay s (faultEach c code js s) :=
  eventsStay_foldl (fun s k => (faultEach_step c code s k 0 _ rfl).2.2) js s

theorem faultEach_faults {js : List Nat} {s : State} {j : Nat} (hmem : j ∈ js) (h : (jobOf s j).state = 2) (hc : c 2) :
    (jobOf (faultEach c code js s) j).fault.isSome = true := by
  induction js generalizing s with
  | nil => exact absurd hmem List.not_mem_nil
  | cons k ks ih =>
    obtain rfl | hmem := List.mem_cons.mp hmem
    · have hhead : (jobOf (if c (jobOf s j).state then faultJob s j code false else s) j).fault.isSome = true := by
        rw [if_pos (by rw [h]; exact hc), faultJob_jobOf, if_pos ⟨rfl, lt_of_running h⟩]
        cases (jobOf s j).fault <;> rfl
      exact (faultEach_eventsStay c code ks _).2 j hhead
    · exact ih hmem ((faultEach_step c code s k j _ rfl).1.trans h)

end

theorem faultRunning_eq (s : State) (code : Nat) : faultRunning s code = faultEach (· = 2) code (List.range 8) s := by
  unfold faultRunning
  generalize List.range 8 = js
  rfl

theorem faultRunning_hif (s : State) (code : Nat) : (faultRunning s code).hif = s.hif := by rw [faultRunning_eq, faultEach_hif]

theorem faultRunning_faults (s : State) (code : Nat) {j : Nat} (hj : j < 8) (h : (jobOf s j).state = 2) :
    (jobOf (faultRunning s code) j).fault.isSome = true := by
  rw [faultRunning_eq]
  exact faultEach_faults _ _ (List.mem_range.mpr hj) h rfl

/-- The link is lost: its transfers are gone, an entry of E-0x505 is due and every running job has a fault. -/
theorem linkLost_of_link (hlink : s.hif.link = true) : (linkLost s).hif.link = false ∧ (linkLost s).hif.xfers = [] ∧
    (∃ e ∈ (linkLost s).hif.due, e.code = 0x505) ∧
    ∀ j, j < 8 → (jobOf s j).state = 2 → (jobOf (linkLost s) j).fault.isSome = true := by
  obtain ⟨x, hx, hcode, -⟩ := raiseDev_due { s with hif := { s.hif with link := false, width := 0, fast := false } } (ev 0x505 0 0)
  have hdown : (raiseDev { s with hif := { s.hif with link := false, width := 0, fast := false } } (ev 0x505 0 0)).hif.link = false :=
    raiseDev_hif_link ..
  have hjobs : (raiseDev { s with hif := { s.hif with link := false, width := 0, fast := false } } (ev 0x505 0 0)).jobs = s.jobs :=
    raiseDev_jobs ..
  unfold linkLost
  rw [if_pos hlink]
  generalize raiseDev { s with hif := { s.hif with link := false, width := 0, fast := false } } (ev 0x505 0 0) = t at hx hdown hjobs ⊢
  dsimp only
  have hstay := eventsStay_foldl abandonXfer_eventsStay (faultRunning t 0x505).hif.xfers (faultRunning t 0x505)
  refine ⟨?_, foldl_abandonXfer_xfers _ _ rfl, ?_, fun j hj hrun => ?_⟩
  · rw [foldl_abandonXfer_link, faultRunning_hif, hdown]
  · obtain ⟨⟨xs, hxs⟩, -⟩ := hstay
    refine ⟨x, ?_, hcode⟩
    rw [hxs, faultRunning_hif, hx]
    exact List.mem_append_left _ (List.mem_append_right _ (List.mem_singleton_self x))
  · refine hstay.2 j (faultRunning_faults t 0x505 hj ?_)
    rw [jobOf, hjobs]
    exact hrun

/-! CXL.mem -/

theorem payBytes_hbm (s : State) (k n : Nat) : (payBytes s k n).hbm = s.hbm := by
  unfold payBytes
  split <;> rfl

theorem cxlServe_write_mem (s : State) (off n : Nat) (bs : List Byte) : (cxlServe s off n (some bs)).hbm.mem = memWrite s.hbm.mem off bs := by
  have hshot (u : State) (a : Nat) : (shotWrite u none a bs).hbm = u.hbm := by unfold shotWrite; split <;> rfl
  unfold cxlServe
  dsimp only [hbmWrite]
  rw [payLines_hbm, bgLines, hshot, payBytes_hbm]

/-- A line read within a command leaves the bytes of HBM and what has gone out. -/
theorem lineIn_mem_out (s : State) (key a : Nat) : (lineIn s key a).2.hbm.mem = s.hbm.mem ∧ (lineIn s key a).2.hif.out = s.hif.out := by
  unfold lineIn
  split
  · exact ⟨congrArg Hbm.mem (closePos_hbm ..), closePos_hif_out ..⟩
  · rename_i off _
    have hpay : (payLines (bgLines s (stackOf off) 1) key 1).hbm.mem = s.hbm.mem ∧
        (payLines (bgLines s (stackOf off) 1) key 1).hif.out = s.hif.out := by
      unfold payLines
      split <;> exact ⟨rfl, rfl⟩
    unfold hbmCode
    dsimp only
    split
    · exact hpay
    · split
      · split
        · exact hpay
        · exact ⟨by rw [raiseDev_hbm]; exact hpay.1, by rw [raiseDev_hif_out]; exact hpay.2⟩
      · exact ⟨by rw [raiseDev_hbm]; exact hpay.1, by rw [raiseDev_hif_out]; exact hpay.2⟩
  · exact ⟨congrArg Hbm.mem (payBytes_hbm ..), congrArg Hif.out (payBytes_parts ..).1⟩
  · exact ⟨rfl, rfl⟩

theorem cxlServe_read (s : State) (off n : Nat) :
    (cxlServe s off n none).hbm.mem = s.hbm.mem ∧ (cxlServe s off n none).hif.out.length = s.hif.out.length + 1 := by
  obtain ⟨hmem, hout⟩ := lineIn_mem_out (payBytes s 8 n) 8 (hbmBase + off / 64 * 64)
  unfold cxlServe
  dsimp only [sendMsg]
  rw [hmem, hout, payBytes_hbm, (payBytes_parts s 8 n).1, List.length_append, List.length_singleton]
  exact ⟨rfl, rfl⟩

theorem cxlTake_serves {off n : Nat} {data : Option (List Byte)} (hopen : cxlOpen s = true) (hcov : cxlCovers off n = true)
    (hawake : s.power.sleep ≠ 1) : cxlTake s off n data = cxlServe s off n data := by
  rw [cxlTake, hopen, hcov, if_neg (by simp), if_neg hawake]

theorem cxlTake_waits {off n : Nat} {data : Option (List Byte)} (hopen : cxlOpen s = true) (hcov : cxlCovers off n = true)
    (hsleep : s.power.sleep = 1) :
    (cxlTake s off n data).power.wakeDue = true ∧ (cxlTake s off n data).hif.cxlWait = s.hif.cxlWait ++ [(off, n, data)] ∧
      (cxlTake s off n data).hbm = s.hbm := by
  rw [cxlTake, hopen, hcov, if_neg (by simp), if_pos hsleep, wakeLight, if_pos hsleep]
  exact ⟨rfl, rfl, rfl⟩

/-- The only access that waited is served as the light sleep state ends. -/
theorem endSleep_serves {off n : Nat} {data : Option (List Byte)} (hdue : s.power.wakeDue = true) (hwait : s.hif.cxlWait = [(off, n, data)]) :
    ∃ u, endSleep s = cxlServe u off n data ∧ u.hbm.mem = s.hbm.mem ∧ u.hif.out = s.hif.out := by
  rw [endSleep, if_pos hdue, serveCxl, setSt_hif, hwait]
  exact ⟨_, rfl, rfl, rfl⟩

end Sys2Proof.Machine
open Sys2Proof Sys2Proof.Machine

/-- Settles O47: a clause per command; the end of the light sleep state is `fireBell_marks`, the loss of the link `linkLost_of_link`. -/
theorem hostLinkCompletes : Obligations.HostLinkCompletes := by
  have hwritten {m m' : Mem} (hwf : Memory.wf m = true) {off : Nat} {bs : List Byte} (hm : m' = memWrite m off bs) :
      memRead m' off bs.length = bs ∧ ∀ a, a < off ∨ off + bs.length ≤ a → memGet m' a = memGet m a := by
    rw [hm]
    exact ⟨memRead_memWrite hwf .., fun a ha => memGet_memWrite_outside hwf _ _ _ ha⟩
  refine ⟨?read, ?write, ?readWaits, ?writeWaits, ?wake, ?served, ?retry, ?cfgRead, ?cfgWrite, ?snoop, ?down, ?train, ?low, ?high⟩
  case read => exact fun s off n hopen hcov hawake => congrArg Host.Outcome.next (cxlTake_serves hopen hcov hawake)
  case write =>
    intro s off bs hopen hcov hawake hmem
    exact ⟨_, congrArg Host.Outcome.next (cxlTake_serves hopen hcov hawake), hwritten hmem.1 (cxlServe_write_mem ..)⟩
  case readWaits => exact fun s off n hopen hcov hsleep => ⟨_, rfl, cxlTake_waits hopen hcov hsleep⟩
  case writeWaits => exact fun s off bs hopen hcov hsleep => ⟨_, rfl, cxlTake_waits hopen hcov hsleep⟩
  case wake =>
    intro b s hruns hdone hlate hdue
    have hexec : exec (.bell b) s = .next (fireBell b (bellTime s) s) := by
      change execBell b s = _
      simp only [execBell, hruns, hdone, hlate, Bool.not_false, Bool.and_self, if_true]
    obtain ⟨-, hwait, hwake, hsleep, hrefresh⟩ : _ ∧ _ ∧ _ ∧ _ ∧ _ := by
      simpa only [State.marks, hdue, if_true, Prod.mk.injEq] using fireBell_marks b (bellTime s) s
    exact ⟨_, hexec, hwait, hwake, hsleep, hrefresh⟩
  case served =>
    intro s hmem hdue
    refine ⟨fun off bs hwait => ?_, fun off n hwait => ?_⟩
    · obtain ⟨u, hu, hum, -⟩ := endSleep_serves hdue hwait
      exact hwritten hmem.1 (by rw [hu, cxlServe_write_mem, hum])
    · obtain ⟨u, hu, hum, huo⟩ := endSleep_serves hdue hwait
      obtain ⟨hm, ho⟩ := cxlServe_read u off n
      rw [hu, ← hum, ← huo]
      exact ⟨hm, ho⟩
  case retry =>
    intro s off data hlink hstep hstopped
    change execCxlConfigRequest ⟨off, data⟩ s = _
    rw [execCxlConfigRequest, if_pos hlink, if_neg (by simp [hstep, hstopped])]
  case cfgRead =>
    intro s off o hlink hready ho
    change execCxlConfigRequest ⟨off, none⟩ s = _
    rw [execCxlConfigRequest, if_pos hlink, if_pos hready, ho]
  case cfgWrite =>
    intro s off v hlink hready
    change execCxlConfigRequest ⟨off, some v⟩ s = _
    rw [execCxlConfigRequest, if_pos hlink, if_pos hready]
  case snoop => exact fun s line hlink => congrArg Host.Outcome.next (if_pos hlink)
  case down => exact fun s hlink => ⟨_, rfl, linkLost_of_link hlink⟩
  case train =>
    intro s width fast hperst hstep hoff hlink hwidth
    have hw : (width == 1 || width == 2) = true := by rcases hwidth with rfl | rfl <;> rfl
    change ∃ t, execHostLinkTrain width fast s = .next t ∧ _
    rw [execHostLinkTrain, if_pos (by simp [hperst, hoff, hlink, hw, hstep])]
    dsimp only
    by_cases hfull : width = 2 ∧ fast = true
    · rw [if_pos hfull]
      refine ⟨_, rfl, rfl, rfl, rfl, fun _ _ => rfl, fun hbad => ?_⟩
      rcases hbad with rfl | rfl
      · exact absurd hfull.1 (by decide)
      · exact absurd hfull.2 (by decide)
    · rw [if_neg hfull]
      refine ⟨_, rfl, raiseDev_hif_link .., raiseDev_hif_width .., raiseDev_hif_fast .., fun h1 h2 => absurd ⟨h1, h2⟩ hfull, fun _ => ?_⟩
      obtain ⟨x, hx, hcode, -⟩ := raiseDev_due { s with hif := { s.hif with link := true, width := width, fast := fast } }
        (ev 0x506 (width + put (b2n fast) 2) 0)
      exact ⟨x, hx, hcode⟩
  case low =>
    intro s
    refine ⟨_, rfl, ?_, rfl, fun hlink => ?_⟩
    · change (linkLost s).hif.link = false
      cases hlink : s.hif.link
      · rw [linkLost, if_neg (by simp [hlink]), hlink]
      · exact (linkLost_of_link hlink).1
    · exact (linkLost_of_link hlink).2
  case high =>
    intro s hperst
    change ∃ t, execPerst true s = .next t ∧ _
    simp only [execPerst, hperst, if_true]
    refine ⟨_, rfl, ?_, fun hsleep => ?_⟩
    · split <;> rfl
    · rw [if_pos hsleep]
end

section
/-!
The DOE mailbox and the sideband (O48): an open mailbox sends its answer, and a PLDM message adds its packets to what has gone out.
-/
namespace Sys2Proof.Machine
variable {s : State}

theorem doeAnswer_open (h : doeOpen s = true) (bs : List Byte) : doeAnswer s bs = sendMsg s 2 bs := if_pos h

/-- Draws of free values leave the mailbox open. -/
theorem doeAnswer_drawBytes (h : doeOpen s = true) (n : Nat) (bs : List Byte) :
    doeAnswer (drawBytes s n).2 bs = sendMsg { s with free := s.free + n } 2 bs := if_pos h

theorem pldm_up (h : belfryUp s = true) (type cmd cc : Nat) (rest : List Byte) : pldm s type cmd cc rest =
    sendPldm s (Config.foreignByte 8 1)
      ((Config.foreignByte 8 4 &&& 0x1F#8) :: BitVec.ofNat 8 type :: BitVec.ofNat 8 cmd :: BitVec.ofNat 8 cc :: rest) := if_pos h

/-- The packets of a PLDM message. -/
def pldmPackets (s : State) (eid : Byte) (bs : List Byte) : List OutMsg :=
  (List.range (cdiv (bs.length + 1) 64)).map fun k =>
    ⟨3, smbPacket s eid (cdiv (bs.length + 1) 64) k (((1#8 :: bs).drop (64 * k)).take 64)⟩

theorem foldl_sendMsg (f : Nat → List Byte) (ks : List Nat) (s : State) :
    ks.foldl (fun t k => sendMsg t 3 (f k)) s = { s with hif := { s.hif with out := s.hif.out ++ ks.map fun k => ⟨3, f k⟩ } } := by
  induction ks generalizing s with
  | nil => rw [List.map_nil, List.append_nil]; rfl
  | cons k ks ih =>
    rw [List.foldl_cons, ih, List.map_cons, List.append_cons]
    rfl

theorem sendPldm_eq (s : State) (eid : Byte) (bs : List Byte) :
    sendPldm s eid bs = { s with hif := { s.hif with out := s.hif.out ++ pldmPackets s eid bs } } := foldl_sendMsg ..

/-- Neither a reading's name nor a state's stands for a number past the last. -/
theorem sensorValue_of_ge {k : Nat} (h : 8 ≤ k) : sensorValue s k = none := by
  obtain ⟨n, rfl⟩ := Nat.exists_eq_add_of_le' h
  unfold sensorValue
  rw [if_neg (by omega), if_neg (by omega)]
  rfl

theorem stateValue_of_ge {k : Nat} (h : 9 ≤ k) : stateValue s k = none := by
  rw [stateValue, if_neg (by omega), if_neg (by omega)]

/-- What a DOE_DISCOVERY answers is four bytes long. -/
theorem execDoeDiscovery_answers (h : doeOpen s = true) (index : Nat) :
    ∃ bs, bs.length = 4 ∧ execDoeDiscovery index s = .next (sendMsg s 2 bs) := by
  refine ⟨_, ?_, congrArg Host.Outcome.next (doeAnswer_open h _)⟩
  split <;> rfl

end Sys2Proof.Machine
open Sys2Proof Sys2Proof.Machine

/-- Settles O48: an answer per request; the forms of a command that finds nothing are its own clauses. -/
theorem mailboxAndSidebandAnswer : Obligations.MailboxAndSidebandAnswer := by
  refine ⟨?version, ?capabilities, ?algorithms, ?digests, ?certificate, ?challenge, ?badSlot, ?measurements, ?unsupported, ?discovery, ?header,
    ?entry, ?pastEntry, ?tid, ?pldmVersion, ?types, ?commands, ?badType, ?pdr, ?repository, ?reading, ?badSensor, ?stateReading, ?badState,
    ?receiver, ?event⟩
  case version => exact fun s h => congrArg Host.Outcome.next (doeAnswer_open h _)
  case capabilities => exact fun s h => ⟨_, congrArg Host.Outcome.next (doeAnswer_open h _)⟩
  case algorithms => exact fun s h => ⟨_, congrArg Host.Outcome.next (doeAnswer_open h _)⟩
  case digests => exact fun s h => congrArg Host.Outcome.next (doeAnswer_open h _)
  case certificate =>
    intro s slot off len h
    change execGetCertificate slot off len s = _
    rw [execGetCertificate]
    dsimp only
    rw [doeAnswer_open h, doeAnswer_open h, ← apply_ite (sendMsg s 2)]
  case challenge =>
    intro s slot nonce h hslot
    change ∃ t body, execChallenge slot nonce s = .next t ∧ _
    simp only [execChallenge, if_pos hslot, if_pos h, doeAnswer_drawBytes h]
    exact ⟨_, _, rfl, rfl, rfl⟩
  case badSlot =>
    intro s slot nonce h hslot
    change execChallenge slot nonce s = _
    rw [execChallenge, if_neg (by omega), doeAnswer_open h]
  case measurements =>
    intro s index slot nonce h hslot hindex
    change ∃ t body, execGetMeasurements index slot nonce s = .next t ∧ _
    simp only [execGetMeasurements, if_pos (And.intro hslot hindex), if_pos h, doeAnswer_drawBytes h]
    exact ⟨_, _, rfl, rfl, rfl⟩
  case unsupported => exact fun s code h => congrArg Host.Outcome.next (doeAnswer_open h _)
  case discovery => exact fun s index h => execDoeDiscovery_answers h index
  case header => exact fun s h => congrArg Host.Outcome.next (doeAnswer_open h _)
  case entry => exact fun s h => congrArg Host.Outcome.next (doeAnswer_open h _)
  case pastEntry =>
    intro s entry h hentry
    obtain ⟨n, rfl⟩ := Nat.exists_eq_add_of_le' hentry
    exact congrArg Host.Outcome.next (doeAnswer_open h _)
  case tid => exact fun s h => congrArg Host.Outcome.next (pldm_up h ..)
  case pldmVersion => exact fun s h => congrArg Host.Outcome.next (pldm_up h ..)
  case types => exact fun s h => congrArg Host.Outcome.next (pldm_up h ..)
  case commands =>
    intro s type m h hm
    change execGetPldmCommands type s = _
    rw [execGetPldmCommands, hm]
    exact congrArg Host.Outcome.next (pldm_up h ..)
  case badType =>
    intro s type h hm
    change execGetPldmCommands type s = _
    rw [execGetPldmCommands, hm]
    exact congrArg Host.Outcome.next (pldm_up h ..)
  case pdr => exact fun s handle h => congrArg Host.Outcome.next (pldm_up h ..)
  case repository => exact fun s h => congrArg Host.Outcome.next (pldm_up h ..)
  case reading =>
    intro s sensor v h hv
    change execGetSensorReading sensor s = _
    rw [execGetSensorReading, hv]
    exact congrArg Host.Outcome.next (pldm_up h ..)
  case badSensor =>
    intro s sensor h hsensor
    change execGetSensorReading sensor s = _
    rw [execGetSensorReading, sensorValue_of_ge hsensor]
    exact congrArg Host.Outcome.next (pldm_up h ..)
  case stateReading =>
    intro s sensor v h hv
    change execGetStateSensorReadings sensor s = _
    rw [execGetStateSensorReadings, hv]
    exact congrArg Host.Outcome.next (pldm_up h ..)
  case badState =>
    intro s sensor h hsensor
    change execGetStateSensorReadings sensor s = _
    rw [execGetStateSensorReadings, stateValue_of_ge hsensor]
    exact congrArg Host.Outcome.next (pldm_up h ..)
  case receiver =>
    intro s addr h
    change execSetEventReceiver addr s = _
    rw [execSetEventReceiver, if_pos h]
    exact congrArg Host.Outcome.next (pldm_up (s := { s with hif := { s.hif with evRecv := some addr } }) h ..)
  case event =>
    intro s a m rest h ha hm
    change ∃ t, execPlatformEventMessage s = .next t ∧ _
    rw [execPlatformEventMessage, ha, hm]
    dsimp only
    rw [if_pos h, sendPldm_eq, sendPldm_eq]
    exact ⟨_, rfl, rfl, rfl, rfl⟩
end

section
/-!
Registers (O49) and the keep's operations (O52).
-/
namespace Sys2Proof.Machine
variable {s t : State}

/-! Sites -/

theorem siteAt_modSite_self {n : Nat} {f : Site → Site} (h : n < s.thermal.sites.length) : siteAt (modSite s n f) n = f (siteAt s n) :=
  modAt_getD_self _ _ _ _ h

theorem siteAt_modSite_ne {n m : Nat} (f : Site → Site) (h : m ≠ n) : siteAt (modSite s n f) m = siteAt s m :=
  modAt_getD_ne _ _ _ _ _ (Ne.symm h)

/-! What an operation reads -/

@[simp] theorem payLines_keep (s : State) (k n : Nat) : (payLines s k n).keep = s.keep := by
  unfold payLines
  split <;> rfl

@[simp] theorem payBytes_keep (s : State) (k n : Nat) : (payBytes s k n).keep = s.keep := by
  unfold payBytes
  split <;> rfl

@[simp] theorem hbmCode_keep (s : State) (off e : Nat) (who : Option Nat) : (hbmCode s off e who).keep = s.keep := by
  unfold hbmCode
  dsimp only
  (repeat' split) <;> simp

theorem lineIn_keep (s : State) (key a : Nat) : (lineIn s key a).2.keep = s.keep := by
  unfold lineIn
  split <;> simp

theorem readLines_keep (key a n : Nat) (s : State) : (readLines key a n s).2.keep = s.keep := by
  induction n generalizing a s with
  | zero => rfl
  | succ n ih => exact (ih ..).trans (lineIn_keep ..)

theorem opRecord_keep (s : State) : (opRecord s).2.keep = s.keep := by
  unfold opRecord
  dsimp only
  split
  · rfl
  · exact readLines_keep ..

/-! How an operation ends -/

/-- What of the keep an operation changes. -/
def Keep.outcome (k : Keep) :
    Nat × Nat × List (List Stored) × List Nat × List Nat × Option (BitVec 1056) × List Stored × Nat :=
  (k.opState, k.opCode, k.images, k.preferred, k.floors, k.operator, k.cfg, k.cfgFloor)

theorem takeCounter_stays (s : State) (ok : Bool) :
    (takeCounter s ok).2.keep.outcome = s.keep.outcome ∧ EventsStay s (takeCounter s ok).2 := by
  unfold takeCounter
  dsimp only
  split
  · split
    · exact ⟨rfl, .of_eq rfl rfl⟩
    · exact ⟨rfl, (postEv_eventsStay s (ev 0x807 ringBase (ringOff s.keep)) none none none).trans (.of_eq rfl rfl)⟩
  · exact ⟨rfl, .of_eq rfl rfl⟩

theorem outcome_of_nonce (k : Keep) (n : BitVec 256) : { k with nonce := n }.outcome = k.outcome := rfl

/-- By rewriting: unifying would compute the nonce. -/
theorem freshNonce_stays (s : State) (ok : Bool) : (freshNonce s ok).keep.outcome = s.keep.outcome ∧ EventsStay s (freshNonce s ok) := by
  obtain ⟨hkeep, hstay⟩ := takeCounter_stays s ok
  refine ⟨?_, hstay.trans (.of_eq (by rw [freshNonce, modKeep_hif]) (by rw [freshNonce, modKeep_jobs]))⟩
  rw [← hkeep, freshNonce]
  dsimp only [modKeep]
  rw [outcome_of_nonce]

theorem freshNonce_outcome (s : State) (ok : Bool) : (freshNonce s ok).keep.opState = s.keep.opState ∧
    (freshNonce s ok).keep.opCode = s.keep.opCode ∧ (freshNonce s ok).keep.operator = s.keep.operator ∧
    (freshNonce s ok).keep.cfg = s.keep.cfg ∧ (freshNonce s ok).keep.cfgFloor = s.keep.cfgFloor := by
  obtain ⟨hstate, hcode, -, -, -, hop, hcfg, hfloor⟩ : _ ∧ _ ∧ _ ∧ _ ∧ _ ∧ _ ∧ _ ∧ _ := by
    simpa only [Keep.outcome, Prod.mk.injEq] using (freshNonce_stays s ok).1
  exact ⟨hstate, hcode, hop, hcfg, hfloor⟩

theorem EventsStay.mem_due (h : EventsStay s t) {c : Nat} (he : ∃ e ∈ s.hif.due, e.code = c) : ∃ e ∈ t.hif.due, e.code = c := by
  obtain ⟨⟨xs, hxs⟩, -⟩ := h
  obtain ⟨e, hmem, hc⟩ := he
  exact ⟨e, by rw [hxs]; exact List.mem_append_left _ hmem, hc⟩

theorem raiseDev_mem_due (s : State) (e : Ev) : ∃ x ∈ (raiseDev s e).hif.due, x.code = e.code := by
  obtain ⟨x, hx, hcode, -⟩ := raiseDev_due s e
  exact ⟨x, by rw [hx]; exact List.mem_append_right _ (List.mem_singleton_self x), hcode⟩

theorem refuseOp_refused {c : Nat} (hkeep : t.keep = s.keep) (hc : c ≠ 0) : KeepRefused c s (refuseOp t c) := by
  have hend : (refuseOp t c).keep = { s.keep with opState := 3, opCode := c, op := 0 } := by
    rw [refuseOp, raiseDev_keep, endOp, modKeep, hkeep, if_neg hc]
  simp only [KeepRefused, hend, true_and]
  exact raiseDev_mem_due ..

theorem keepRefused_freshNonce {c : Nat} (h : KeepRefused c s t) (ok : Bool) : KeepRefused c s (freshNonce t ok) := by
  obtain ⟨hkeep, hstay⟩ := freshNonce_stays t ok
  obtain ⟨hstate, hcode, himages, hpref, hfloors, hop, hcfg, hfloor⟩ : _ ∧ _ ∧ _ ∧ _ ∧ _ ∧ _ ∧ _ ∧ _ := by
    simpa only [Keep.outcome, Prod.mk.injEq] using hkeep
  obtain ⟨h1, h2, h3, h4, h5, h6, h7, h8, hdue⟩ := h
  exact ⟨hstate.trans h1, hcode.trans h2, himages.trans h3, hpref.trans h4, hfloors.trans h5, hop.trans h6, hcfg.trans h7, hfloor.trans h8,
    hstay.mem_due hdue⟩

theorem flashFailed_fails (s : State) (region off : Nat) :
    (flashFailed s region off).keep = { s.keep with opState := 3, opCode := 9, op := 0 } ∧
      ∃ e ∈ (flashFailed s region off).hif.due, e.code = 0x807 :=
  ⟨raiseDev_keep .., raiseDev_mem_due ..⟩

/-- An operation whose sector verifies ends done, with its change of the keep. -/
theorem endState_done (s : State) (f : Keep → Keep) : (endState s true f).keep.opState = 2 ∧
    (endState s true f).keep.operator = (f s.keep).operator ∧
    (endState s true f).keep.cfg = (f s.keep).cfg ∧ (endState s true f).keep.cfgFloor = (f s.keep).cfgFloor := ⟨rfl, rfl, rfl, rfl⟩

/-- One whose sector does not verify fails with CODE 9 and changes nothing of what it was to change. -/
theorem endState_failed (s : State) (f : Keep → Keep) : (endState s false f).keep.opState = 3 ∧ (endState s false f).keep.opCode = 9 ∧
    (endState s false f).keep.operator = s.keep.operator ∧ (endState s false f).keep.cfgFloor = s.keep.cfgFloor ∧
    ∃ e ∈ (endState s false f).hif.due, e.code = 0x807 := by
  obtain ⟨hkeep, hdue⟩ := flashFailed_fails (stateWrite s false f) 0x1720000 (spareSector s)
  have hend : endState s false f = flashFailed (stateWrite s false f) 0x1720000 (spareSector s) := rfl
  rw [hend, hkeep]
  exact ⟨rfl, rfl, rfl, rfl, hdue⟩

/-- A record that UPDATE accepts is an image. -/
theorem recType_of_updateCode {bs : List Byte} (h : updateCode s bs = 0) : recType bs - 1 < 3 := by
  rw [updateCode] at h
  split at h
  · omega
  · cases h

end Sys2Proof.Machine
open Sys2Proof Sys2Proof.Machine

/-- Settles O49: a clause per access; what a write stages is `exec_registerWrite_stages`. -/
theorem registersComplete : Obligations.RegistersComplete := by
  refine ⟨fun s off n v hlegal hs hoff hcommit hack => exec_registerWrite_stages v hlegal hs hoff hcommit hack, ?go, ?commit, ?read, ?capture,
    ?ack⟩
  case go =>
    rintro s n v hlegal ⟨hopen, hrun⟩ hbit
    change execRegisterWrite 0x40 n v s = _
    rw [execRegisterWrite, if_pos (by simp [hlegal, hopen, hrun]), if_pos rfl, if_pos hbit]
    rfl
  case commit =>
    rintro s tag ⟨hopen, hrun⟩
    exact congrArg Host.Outcome.next (if_pos (by simp [hopen, hrun]))
  case read =>
    rintro s off n hlegal ⟨hopen, hrun⟩ hoff halign
    have hslot : off / 8 * 8 = off := by omega
    change execRcRegisterRead off n s = _
    simp only [execRcRegisterRead, hlegal, hopen, hrun, hslot, halign, decide_eq_true (show off < 0x400000 by omega),
      decide_eq_false (show ¬ 0x100000 ≤ off by omega), Bool.not_false, Bool.and_self, Bool.false_and, Bool.false_eq_true, if_true, if_false]
  case capture => exact fun s p hp => onUnit_lt _ _ _ _ hp
  case ack =>
    intro s site t0 hblind hsite hin hlen
    change ∃ t, execBlindSiteAck site s = .next t ∧ _
    rw [execBlindSiteAck, hblind]
    dsimp only
    rw [if_pos (by simp [hsite, hin])]
    exact ⟨_, rfl, siteAt_modSite_self hlen, fun n hn => siteAt_modSite_ne _ hn⟩

/-- Settles O52: what an operation reads leaves the keep (`opRecord_keep`); it is refused, fails with its write, or is done. -/
theorem keepOperationsComplete : Obligations.KeepOperationsComplete := by
  refine ⟨?update, ?updateFails, ?enrol, ?enrolFails, ?release, ?config, ?configFails⟩
  case update =>
    intro s hruns
    change ∃ t, execKeepUpdate true s true = .next t ∧ _
    have hkeep := opRecord_keep s
    rw [execKeepUpdate, if_pos hruns]
    generalize opRecord s = r at hkeep ⊢
    refine ⟨_, rfl, ?_⟩
    dsimp only
    split
    · next hok =>
      rw [if_neg (Decidable.not_not.mpr hok)]
      refine ⟨rfl, rfl, (congrArg Keep.floors hkeep :), fun hlen => ?_⟩
      change (modAt r.2.keep.preferred (recType r.1 - 1) fun _ => 1 - r.2.keep.slots.getD (recType r.1 - 1) 0)[recType r.1 - 1]? = _
      rw [modAt_getElem?, if_pos rfl, List.getElem?_eq_getElem (by rw [hlen]; exact recType_of_updateCode hok), Option.map_some,
        show r.2.keep.slots = s.keep.slots from congrArg Keep.slots hkeep]
    · next hbad => exact refuseOp_refused hkeep hbad
  case updateFails =>
    intro s d hruns
    change ∃ t, execKeepUpdate false s d = .next t ∧ _
    have hkeep := opRecord_keep s
    rw [execKeepUpdate, if_pos hruns]
    generalize opRecord s = r at hkeep ⊢
    refine ⟨_, rfl, ?_⟩
    dsimp only
    generalize updateCode r.2 r.1 = c
    split
    · next hok =>
      simp only [hok, ne_eq, not_true_eq_false, Bool.not_false, Bool.false_eq_true, if_true, if_false]
      generalize slotBase _ = region
      obtain ⟨hend, hdue⟩ := flashFailed_fails _ region _
      rw [hend]
      exact ⟨rfl, rfl, (congrArg Keep.preferred hkeep :), hdue⟩
    · next hbad => exact refuseOp_refused hkeep hbad
  case enrol =>
    intro s ok hruns
    change ∃ t, execKeepEnrol true s ok = .next t ∧ _
    have hkeep := opRecord_keep s
    rw [execKeepEnrol, if_pos hruns]
    generalize opRecord s = r at hkeep ⊢
    refine ⟨_, rfl, ?_⟩
    dsimp only
    generalize enrolCode r.2 r.1 = c
    split
    · next hok =>
      rw [if_neg (Decidable.not_not.mpr hok)]
      obtain ⟨hstate, -, hop, -, hfloor⟩ := freshNonce_outcome (endState _ true _) ok
      obtain ⟨hdone, hkey, -, hzero⟩ := endState_done r.2 fun k =>
        { k with operator := some (BitVec.ofNat 1056 (beNat ((recBody r.1).take 132))), cfgFloor := 0 }
      exact ⟨hstate.trans hdone, hfloor.trans hzero, hop.trans hkey⟩
    · next hbad => exact keepRefused_freshNonce (refuseOp_refused hkeep hbad) ok
  case enrolFails =>
    intro s ok hruns
    change ∃ t, execKeepEnrol false s ok = .next t ∧ _
    have hkeep := opRecord_keep s
    rw [execKeepEnrol, if_pos hruns]
    generalize opRecord s = r at hkeep ⊢
    refine ⟨_, rfl, ?_⟩
    dsimp only
    generalize enrolCode r.2 r.1 = c
    split
    · next hok =>
      rw [if_neg (Decidable.not_not.mpr hok)]
      generalize hf : (fun k : Keep => { k with operator := some (BitVec.ofNat 1056 (beNat ((recBody r.1).take 132))), cfgFloor := 0 }) = f
      obtain ⟨hstate, hcode, hop, -, hfloor⟩ := freshNonce_outcome (endState r.2 false f) ok
      obtain ⟨hfail, hnine, hkey, hsame, hdue⟩ := endState_failed r.2 f
      exact ⟨hstate.trans hfail, hcode.trans hnine, (hop.trans hkey).trans (congrArg Keep.operator hkeep),
        (hfloor.trans hsame).trans (congrArg Keep.cfgFloor hkeep), (freshNonce_stays _ ok).2.mem_due hdue⟩
    · next hbad => exact keepRefused_freshNonce (refuseOp_refused hkeep hbad) ok
  case release =>
    intro s ok hruns
    change ∃ t, execKeepRelease true s ok = .next t ∧ _
    have hkeep := opRecord_keep s
    rw [execKeepRelease, if_pos hruns]
    generalize opRecord s = r at hkeep ⊢
    refine ⟨_, rfl, ?_⟩
    dsimp only
    generalize releaseCode r.2 r.1 = c
    split
    · next hok =>
      rw [if_neg (Decidable.not_not.mpr hok)]
      obtain ⟨hstate, -, hop, hcfg, -⟩ := freshNonce_outcome (endState _ true _) ok
      obtain ⟨hdone, hnone, herased, -⟩ := endState_done r.2 fun k =>
        { k with operator := none, cfg := if true then [.erased, .erased] else k.cfg }
      exact ⟨hstate.trans hdone, hop.trans hnone, hcfg.trans herased⟩
    · next hbad => exact keepRefused_freshNonce (refuseOp_refused hkeep hbad) ok
  case config =>
    intro s hruns
    change ∃ t, execKeepConfig true s true = .next t ∧ _
    have hkeep := opRecord_keep s
    rw [execKeepConfig, if_pos hruns]
    generalize opRecord s = r at hkeep ⊢
    refine ⟨_, rfl, ?_⟩
    dsimp only
    generalize configCode r.2 r.1 = c
    split
    · next hok =>
      rw [if_neg (Decidable.not_not.mpr hok), if_pos rfl]
      obtain ⟨hdone, -, -, hfloor⟩ := endState_done _ _
      exact ⟨hdone, hfloor⟩
    · next hbad => exact refuseOp_refused hkeep hbad
  case configFails =>
    intro s ok hruns
    change ∃ t, execKeepConfig false s ok = .next t ∧ _
    have hkeep := opRecord_keep s
    rw [execKeepConfig, if_pos hruns]
    generalize opRecord s = r at hkeep ⊢
    refine ⟨_, rfl, ?_⟩
    dsimp only
    generalize configCode r.2 r.1 = c
    split
    · next hok =>
      simp only [hok, ne_eq, not_true_eq_false, Bool.false_eq_true, if_false]
      generalize cfgSlot r.2 = i
      generalize 0x1740000 + i * 0x40000 = off
      obtain ⟨hend, hdue⟩ := flashFailed_fails _ 0x1740000 off
      rw [hend]
      exact ⟨rfl, rfl, (congrArg Keep.cfgFloor hkeep :), hdue⟩
    · next hbad => exact refuseOp_refused hkeep hbad
end

section
/-!
Reset, power-up and the sleep states (O53).
-/
namespace Sys2Proof.Machine
variable {s t : State}

/-- What an abandoned transfer leaves beside the fault and the bytes. -/
def State.beside (s : State) : List Instr × BellGen × Thermal × Keep := (s.pending, s.bell, s.thermal, s.keep)

theorem abandonXfer_beside (s : State) (x : Xfer) : (abandonXfer s x).beside = s.beside := by
  unfold abandonXfer
  dsimp only
  split
  · unfold State.beside scramble
    simp [drawBytes]
  · rfl

theorem foldl_abandonXfer_beside (xs : List Xfer) (s : State) : (xs.foldl abandonXfer s).beside = s.beside :=
  foldl_keeps State.beside abandonXfer_beside xs s

/-! Sleep -/

theorem wakeLight_of_light (h : s.power.sleep = 1) : wakeLight s = { s with power := { s.power with wakeDue := true } } := if_pos h

theorem gate_wake (w : PosPower) : (gate w).wake = 1 := rfl

theorem mem_gated {ws : List PosPower} {w : PosPower} (h : w ∈ ws.map fun w => if w.dark then w else gate w) : w.dark = true ∨ w.wake = 1 := by
  obtain ⟨x, -, rfl⟩ := List.mem_map.mp h
  split
  · next hdark => exact .inl hdark
  · exact .inr (gate_wake x)

theorem powerOff_count (s : State) : (powerOff s).bell.count = s.bell.count := by
  have hbell : (s.hif.xfers.foldl abandonXfer s).bell = s.bell := congrArg (·.2.1) (foldl_abandonXfer_beside s.hif.xfers s)
  unfold powerOff
  dsimp only
  rw [hbell]

/-! The rising edge of RESET_N -/

theorem tapRelease_bell (s : State) : (tapRelease s).bell = s.bell := by
  unfold tapRelease
  split <;> rfl

theorem execPowerUp_edge {e : PowerUp} (hreset : s.power.reset = true) : execPowerUp e s =
    .next (let u := modPower (tapRelease (takeStraps e.strap s)) fun w => { w with reset := false, vaon := true }
      if s.thermal.tripped || s.thermal.vinOff then modPower u fun w => { w with off := true, wakeDue := false }
      else if e.vinOk then powerSeq false e u
      else modPower u fun w => { w with waiting := some e, vinBad := true, deepWake := false }) := by
  simp [execPowerUp, hreset]

end Sys2Proof.Machine
open Sys2Proof Sys2Proof.Machine

/-- Settles O53: a clause per command; a power-up in range is `exec_powerUp_inRange`. -/
theorem powerAndSleepComplete : Obligations.PowerAndSleepComplete := by
  refine ⟨fun s us fires h => congrArg Host.Outcome.next (if_pos h), ?reset, ?vaon, ?tripped, ?inRange, ?outOfRange, ?within, ?wake, ?noWake, ?run,
    ?light, ?deep⟩
  case reset =>
    intro s us fires hus
    have hbeside := foldl_abandonXfer_beside s.hif.xfers s
    change ∃ t, execResetAssert us s fires = .next t ∧ _
    rw [execResetAssert, if_neg (Nat.not_lt.mpr hus)]
    generalize s.hif.xfers.foldl abandonXfer s = u at hbeside ⊢
    obtain ⟨hpending, -, hthermal, hkeep⟩ : _ ∧ _ ∧ _ ∧ _ := by simpa only [State.beside, Prod.mk.injEq] using hbeside
    refine ⟨_, rfl, ?_⟩
    dsimp only
    rw [← hpending, ← hthermal, ← hkeep]
    split <;> exact ⟨rfl, rfl, rfl, rfl, rfl, rfl, rfl, rfl, rfl, rfl, rfl, rfl, rfl⟩
  case vaon =>
    intro s
    have hbeside := foldl_abandonXfer_beside s.hif.xfers s
    change ∃ t, execVaonRemoval s = .next t ∧ _
    rw [execVaonRemoval]
    generalize s.hif.xfers.foldl abandonXfer s = u at hbeside ⊢
    obtain ⟨-, -, -, hkeep⟩ : _ ∧ _ ∧ _ ∧ _ := by simpa only [State.beside, Prod.mk.injEq] using hbeside
    refine ⟨_, rfl, rfl, rfl, rfl, rfl, ?_⟩
    rw [← hkeep]
    rfl
  case tripped =>
    intro s e hreset htrip
    change ∃ t, execPowerUp e s = .next t ∧ _
    simp only [execPowerUp_edge hreset, htrip, if_true]
    exact ⟨_, rfl, rfl, tapRelease_bell _⟩
  case inRange => exact fun s e hreset htrip hoff hvin => exec_powerUp_inRange hreset htrip hoff hvin
  case outOfRange =>
    intro s e hreset htrip hoff hvin
    change ∃ t, execPowerUp e s = .next t ∧ _
    simp only [execPowerUp_edge hreset, htrip, hoff, hvin, Bool.or_self, Bool.false_eq_true, if_false]
    exact ⟨_, rfl, rfl, rfl, tapRelease_bell _⟩
  case within =>
    intro s e hwait
    change execVinWithinRange s = _
    simp only [execVinWithinRange, modPower, hwait]
  case wake =>
    intro s us hus hsleep
    exact congrArg Host.Outcome.next (if_neg (by omega))
  case noWake => exact fun s us h => congrArg Host.Outcome.next (if_pos h)
  case run =>
    intro s hdue hlight
    change execSleepRun s = _
    rw [execSleepRun, if_pos hdue, wakeLight_of_light hlight]
  case light =>
    intro s hdue hrun
    change ∃ t, execSleepLight s = .next t ∧ _
    rw [execSleepLight, if_pos (by simp [hdue, hrun])]
    refine ⟨_, rfl, by simp [modPower], by simp, raiseDev_mem_due .., fun w hw => ?_⟩
    rw [raiseDev_lantern] at hw
    exact mem_gated hw
  case deep =>
    intro s hdue
    change ∃ t, execSleepDeep s = .next t ∧ _
    rw [execSleepDeep, if_pos hdue]
    refine ⟨_, rfl, rfl, rfl, ?_, rfl, rfl, rfl⟩
    exact powerOff_count (downPorts s)
end

section
/-!
Boundary scan (O59) and the trips of the thermal sites (O56).
-/
namespace Sys2Proof.Machine
variable {s t : State}

/-! The TAP's instruction -/

theorem tapSelect_runs (h : tapRuns s = true) (code : Nat) :
    tapSelect code s = { s with pins := { s.pins with tap := if restricted code && !s.power.reset then 0xFF else code } } := if_pos h

theorem packBits_length (l : List Bool) : (packBits l).length = cdiv l.length 8 := by rw [packBits, List.length_map, List.length_range]

/-- A scan under an instruction that selects itself. -/
theorem boundaryScan_scans {code : Nat} {cells : List Bool} (ser : Bool) (h : tapRuns s = true) (hsel : (restricted code && !s.power.reset) = false)
    (hlen : cells.length = 248) :
    (boundaryScan code cells ser s).pins = { s.pins with tap := code, cells := cells, ser := ser } ∧
      (∃ bs, (boundaryScan code cells ser s).hif.out = s.hif.out ++ [⟨6, bs⟩] ∧ bs.length = 31) ∧
      (boundaryScan code cells ser s).free = s.free + 248 := by
  have hsel' : tapSelect code { s with pins := { s.pins with ser := ser } } = { s with pins := { s.pins with tap := code, ser := ser } } := by
    refine (tapSelect_runs (s := { s with pins := { s.pins with ser := ser } }) h code).trans ?_
    dsimp only
    rw [hsel]
    rfl
  have hgo : (tapRuns s && code == code) = true := by rw [h, beq_self_eq_true]; rfl
  unfold boundaryScan
  rw [hsel']
  dsimp only
  rw [if_pos hgo]
  dsimp only [sendMsg]
  rw [if_pos hlen]
  refine ⟨rfl, ⟨_, rfl, ?_⟩, rfl⟩
  rw [packBits_length, List.length_map, List.length_range]
  rfl

/-- A restricted instruction outside reset selects BYPASS and scans nothing. -/
theorem boundaryScan_bypassed {code : Nat} {cells : List Bool} {ser : Bool} (h : tapRuns s = true) (hcode : restricted code = true)
    (hff : code ≠ 0xFF)
    (hreset : s.power.reset = false) : boundaryScan code cells ser s = { s with pins := { s.pins with tap := 0xFF, ser := ser } } := by
  have hsel' : tapSelect code { s with pins := { s.pins with ser := ser } } = { s with pins := { s.pins with tap := 0xFF, ser := ser } } := by
    refine (tapSelect_runs (s := { s with pins := { s.pins with ser := ser } }) h code).trans ?_
    dsimp only
    rw [hcode, hreset]
    rfl
  unfold boundaryScan
  rw [hsel']
  dsimp only
  rw [if_neg]
  rw [beq_eq_false_iff_ne.mpr hff.symm, Bool.and_false]
  exact Bool.false_ne_true

theorem txPair_of_lt {i : Nat} (h : i < 102) : txPair i = true := by rw [txPair, decide_eq_true h]; rfl

theorem cellsDrive_of_tap (h : s.pins.tap = 3 ∨ s.pins.tap = 4 ∨ s.pins.tap = 5 ∨ s.pins.tap = 7) : cellsDrive s = true := by
  rcases h with h | h | h | h <;> rw [cellsDrive, h] <;> rfl

/-! Sites and trips -/

@[simp] theorem raiseSite_thermal (s : State) (n : Nat) (e : Ev) : (raiseSite s n e).thermal = s.thermal := by
  unfold raiseSite
  split <;> simp

@[simp] theorem raiseSite_bell (s : State) (n : Nat) (e : Ev) : (raiseSite s n e).bell = s.bell := by
  unfold raiseSite
  split <;> simp

theorem siteAt_raiseSite (s : State) (n : Nat) (e : Ev) (m : Nat) : siteAt (raiseSite s n e) m = siteAt s m := by
  rw [siteAt, siteAt, raiseSite_thermal]

theorem raiseAt_mem_due (s : State) (p : Nat) (e : Ev) : ∃ x ∈ (raiseAt s p e).hif.due, x.code = e.code := by
  obtain ⟨x, hx, hcode, -⟩ := raiseAt_due s p e
  exact ⟨x, by rw [hx]; exact List.mem_append_right _ (List.mem_singleton_self x), hcode⟩

theorem raiseSite_mem_due (s : State) (n : Nat) (e : Ev) : ∃ x ∈ (raiseSite s n e).hif.due, x.code = e.code := by
  unfold raiseSite
  split
  · exact raiseAt_mem_due ..
  · exact raiseDev_mem_due ..

/-- The site of an excluded sensor, with its record. -/
theorem excludeSensor_site {n e : Nat} (hlen : n < s.thermal.sites.length) (k : Ev) :
    siteAt (raiseSite (modSite s n fun x => { x with excl := insNat e x.excl, run := 0 }) n k) n =
      { siteAt s n with excl := insNat e (siteAt s n).excl, run := 0 } := by
  rw [siteAt_raiseSite, siteAt_modSite_self hlen]

@[simp] theorem timeTo_thermal (s : State) (n : Nat) : (timeTo s n).thermal = s.thermal := by
  unfold timeTo
  split <;> rfl

@[simp] theorem timeTo_power (s : State) (n : Nat) : (timeTo s n).power = s.power := by
  unfold timeTo
  split <;> rfl

theorem trip_off {cause site reading : Nat} (htrip : s.thermal.tripped = false) (hvaon : s.power.vaon = true) :
    (trip s cause site reading).thermal.trip = some (cause, site, reading) ∧ (trip s cause site reading).thermal.tripped = true ∧
      (trip s cause site reading).power.off = true ∧ (trip s cause site reading).bell.fired = false ∧
      (trip s cause site reading).hif.link = false := by
  rw [trip, htrip, hvaon, if_neg (by simp)]
  exact ⟨rfl, rfl, rfl, rfl, rfl⟩

theorem trip_of_not (cause site reading : Nat) (h : s.thermal.tripped = true ∨ s.power.vaon = false) : trip s cause site reading = s := by
  rcases h with h | h <;> exact if_pos (by simp [h])

end Sys2Proof.Machine
open Sys2Proof Sys2Proof.Machine

/-- Settles O59: an instruction selects itself (`tapSelect_runs`), a scan sends its samples (`boundaryScan_scans`) or selects BYPASS. -/
theorem boundaryScanCompletes : Obligations.BoundaryScanCompletes := by
  have hscan (code : Nat) {s : State} {cells : List Bool} (ser : Bool) (h : tapRuns s = true)
      (hsel : (restricted code && !s.power.reset) = false) (hlen : cells.length = 248) :
      ∃ t bs, (.next (boundaryScan code cells ser s) : Out) = .next t ∧ t.pins = { s.pins with tap := code, cells := cells, ser := ser } ∧
        t.hif.out = s.hif.out ++ [⟨6, bs⟩] ∧ bs.length = 31 ∧ t.free = s.free + 248 := by
    obtain ⟨hpins, ⟨bs, hout, hbs⟩, hfree⟩ := boundaryScan_scans ser h hsel hlen
    exact ⟨_, bs, rfl, hpins, hout, hbs, hfree⟩
  have hopen {s : State} (code : Nat) (hreset : s.power.reset = true) : (restricted code && !s.power.reset) = false := by
    rw [hreset, Bool.not_true, Bool.and_false]
  refine ⟨?bypass, ?idcode, fun s h => congrArg Host.Outcome.next (tapSelect_runs h 1), fun s => rfl, fun s => rfl, ?held, ?pairs, ?sample,
    ?extest, ?pulse, ?train, ?extestOut, ?pulseOut, ?trainOut, ?highz, ?clamp⟩
  case bypass =>
    intro s code h
    exact congrArg Host.Outcome.next (tapSelect_runs h 0xFF)
  case idcode =>
    intro s h
    change ∃ t, execIdcode s .scan = .next t ∧ _
    simp only [execIdcode, h, if_true, tapSelect_runs h]
    refine ⟨_, rfl, rfl, fun hstep => ?_, rfl⟩
    rw [sendMsg, hstep]
    rfl
  case held =>
    intro s cells ser htrst hvaon htap
    have hoff : tapRuns s = false := by rw [tapRuns, htrst, Bool.and_false]
    refine ⟨fun code => congrArg Host.Outcome.next (if_neg (by simp [hoff])), ?_, fun i => ?_⟩
    · change ∃ t, execExtest s cells ser = .next t ∧ _
      have hsel : tapSelect 3 { s with pins := { s.pins with ser := ser } } = { s with pins := { s.pins with ser := ser } } :=
        if_neg (by simp [tapRuns, htrst])
      simp only [execExtest, boundaryScan, hsel, hoff, Bool.false_and, Bool.false_eq_true, if_false]
      exact ⟨_, rfl, rfl, rfl⟩
    · have hno : cellsDrive s = false := by rw [cellsDrive, htap]; rfl
      rw [pairDrive, hno, Bool.and_false, Bool.false_and, Bool.false_and]
      rfl
  case pairs =>
    intro s i hi hvaon htap
    rw [pairDrive, txPair_of_lt hi, cellsDrive_of_tap htap, hvaon, Bool.and_self, Bool.and_self, Bool.true_and]
  case sample => exact fun s cells ser h hlen => hscan 2 ser h rfl hlen
  case extest => exact fun s cells ser h hreset hlen => hscan 3 ser h (hopen 3 hreset) hlen
  case pulse => exact fun s cells ser h hreset hlen => hscan 4 ser h (hopen 4 hreset) hlen
  case train => exact fun s cells ser h hreset hlen => hscan 5 ser h (hopen 5 hreset) hlen
  case extestOut => exact fun s cells ser h hreset => congrArg Host.Outcome.next (boundaryScan_bypassed h rfl (by decide) hreset)
  case pulseOut => exact fun s cells ser h hreset => congrArg Host.Outcome.next (boundaryScan_bypassed h rfl (by decide) hreset)
  case trainOut => exact fun s cells ser h hreset => congrArg Host.Outcome.next (boundaryScan_bypassed h rfl (by decide) hreset)
  case highz =>
    intro s h
    change execHighz s = _
    rw [execHighz, tapSelect_runs h]
    cases s.power.reset <;> rfl
  case clamp =>
    intro s h
    change execClamp s = _
    rw [execClamp, tapSelect_runs h]
    cases s.power.reset <;> rfl

/-- Settles O56: a clause per command; an exclusion is `excludeSensor_site`, a trip `trip_off`. -/
theorem thermalCompletes : Obligations.ThermalCompletes := by
  refine ⟨?first, ?second, ?expire, ?comparator, ?cattrip, fun s cause site reading h => trip_of_not cause site reading h⟩
  case first =>
    intro s site sens hsens hsite hlen hexcl
    have hone := excludeSensor_site (e := sens) hlen (ev 0x703 (site + put sens 10) 0)
    rw [hexcl] at hone
    change ∃ t, execSensorExcluded site sens s = .next t ∧ _
    rw [execSensorExcluded, if_pos hsens, onUnit_lt _ _ _ _ hsite]
    refine ⟨_, rfl, ?_⟩
    rw [excludeSensor, if_neg (by rw [hexcl]; exact Bool.false_ne_true)]
    dsimp only
    rw [if_neg (by simp [hone, insNat]), hone]
    exact ⟨rfl, rfl, raiseSite_mem_due ..⟩
  case second =>
    intro s site sens hsens hsite hlen hexcl
    have hnew : (siteAt s site).excl.contains sens = false := by
      rw [hexcl]
      obtain rfl | rfl : sens = 0 ∨ sens = 1 := by omega
      · rfl
      · rfl
    have hboth := excludeSensor_site (e := sens) hlen (ev 0x703 (site + put sens 10) 0)
    have htwo : (insNat sens [1 - sens]).length = 2 := by
      obtain rfl | rfl : sens = 0 ∨ sens = 1 := by omega
      · rfl
      · rfl
    rw [hexcl] at hboth
    change ∃ t, execSensorExcluded site sens s = .next t ∧ _
    rw [execSensorExcluded, if_pos hsens, onUnit_lt _ _ _ _ hsite]
    refine ⟨_, rfl, ?_⟩
    rw [excludeSensor, if_neg (by rw [hnew]; exact Bool.false_ne_true)]
    dsimp only
    have hlen' : site < (raiseSite (modSite s site fun x => { x with excl := insNat sens x.excl, run := 0 }) site
        (ev 0x703 (site + put sens 10) 0)).thermal.sites.length := by
      rw [raiseSite_thermal, modSite, modAt_length]
      exact hlen
    rw [if_pos (by rw [hboth]; exact htwo), siteAt_raiseSite, siteAt_modSite_self hlen', hboth, raiseSite_bell]
    exact ⟨htwo, rfl, rfl, raiseSite_mem_due ..⟩
  case expire =>
    intro s site t0 hsite hblind hack htrip hvaon
    change ∃ t, execBlindSiteExpire site s = .next t ∧ _
    rw [execBlindSiteExpire, onUnit_lt _ _ _ _ hsite, hblind]
    dsimp only
    rw [if_neg (by simp [hack])]
    obtain ⟨hrec, hdone, hoff, -, -⟩ := trip_off (s := timeTo s (t0 + blindTime)) (cause := 3) (site := site) (reading := 0x800)
      (by rw [timeTo_thermal, htrip]) (by rw [timeTo_power, hvaon])
    exact ⟨_, rfl, hrec, hdone, hoff⟩
  case comparator =>
    intro s site hsite htrip hvaon
    exact ⟨_, onUnit_lt _ _ _ _ hsite,
      trip_off (s := { s with thermal := { s.thermal with comparators := insNat site s.thermal.comparators } }) htrip hvaon⟩
  case cattrip =>
    intro s h hh htrip hvaon
    obtain ⟨hrec, hdone, hoff, -, -⟩ := trip_off
      (s := { s with thermal := { s.thermal with comparators := insNat (632 + h) s.thermal.comparators } })
      (cause := 1) (site := 632 + h) (reading := readingCode (siteAt s (632 + h))) htrip hvaon
    exact ⟨_, onUnit_lt _ _ _ _ hh, hrec, hdone, hoff⟩
end

section
/-!
Failures of units, the lost reference and flipped bits (O58).
-/
namespace Sys2Proof.Machine
variable {s t : State}

/-! A position out of service -/

theorem spAt_of_spindles (h : t.spindles = s.spindles) (p : Nat) : spAt t p = spAt s p := by rw [spAt, h]; rfl

theorem raiseJob_eventsStay (s : State) (j : Nat) (e : Ev) : EventsStay s (raiseJob s j e) := by
  unfold raiseJob
  dsimp only
  split
  · exact postEv_eventsStay ..
  · exact (postEv_eventsStay ..).trans (faultJob_eventsStay ..)

theorem abandonRepair_stays (s : State) (j n : Nat) : (abandonRepair s j n).spindles = s.spindles ∧ EventsStay s (abandonRepair s j n) := by
  unfold abandonRepair
  extract_lets q _ u
  have hu : EventsStay s u := .of_eq rfl rfl
  exact ⟨by rw [raiseJob_spindles]; rfl, (hu.trans (modJob_eventsStay _ _ (by intro b hb; exact hb))).trans (raiseJob_eventsStay ..)⟩

theorem spindleFault_takes {p cause stream : Nat} (e : Ev) (hlen : p < s.spindles.length) (hin : (spAt s p).service.oos = false) :
    (spAt (spindleFault s p cause stream e) p).service = { oos := true, cause := cause, stream := stream } ∧
      ∃ x ∈ (spindleFault s p cause stream e).hif.due, x.code = e.code := by
  have hraised := raiseAt_mem_due s p e
  have hlen' : p < (raiseAt s p e).spindles.length := by rw [raiseAt_spindles]; exact hlen
  unfold spindleFault
  rw [if_neg (by rw [hin]; exact Bool.false_ne_true)]
  extract_lets u v _ w
  have hv : (spAt v p).service = { oos := true, cause := cause, stream := stream } := congrArg Spindle.service (modAt_getD_self _ _ _ _ hlen')
  have hw : w.spindles = v.spindles ∧ w.hif = u.hif := by
    dsimp only [w]
    split <;> exact ⟨rfl, rfl⟩
  clear_value w
  split
  · obtain ⟨hsps, hstay⟩ := abandonRepair_stays w _ _
    refine ⟨by rw [spAt_of_spindles (hsps.trans hw.1), hv], hstay.mem_due ?_⟩
    rw [hw.2]
    exact hraised
  · refine ⟨by rw [spAt_of_spindles hw.1, hv], ?_⟩
    rw [hw.2]
    exact hraised

theorem onEngine_ok {p k : Nat} (r : State) (hp : p < 624) (hk : k < 6 ∨ k = 7) : onEngine p k r = .next r := by
  rw [onEngine, if_pos hp, if_pos hk]

/-! The lost reference -/

/-- What stays empty, and the bell generator, while bytes are lost. -/
def State.still (s : State) : BellGen × List Access × List Reply × List HbmAcc × List HbmAcc :=
  (s.bell, s.fabric.net, s.fabric.replies, s.hbm.waiting, s.hbm.granted)

/-- From s to t nothing that is under way comes, and no entry due goes. -/
def Stills (s t : State) : Prop := t.still = s.still ∧ EventsStay s t

theorem Stills.of_eq (hstill : t.still = s.still) (hdue : t.hif.due = s.hif.due) (hjobs : t.jobs = s.jobs) : Stills s t :=
  ⟨hstill, .of_eq hdue hjobs⟩

theorem Stills.trans {u : State} (h₁ : Stills s t) (h₂ : Stills t u) : Stills s u := ⟨h₂.1.trans h₁.1, h₁.2.trans h₂.2⟩

theorem stills_foldl {α : Type} {f : State → α → State} (hf : ∀ s a, Stills s (f s a)) (xs : List α) (s : State) :
    Stills s (xs.foldl f s) := by
  induction xs generalizing s with
  | nil => exact .of_eq rfl rfl rfl
  | cons x xs ih => exact (hf s x).trans (ih _)

theorem closePos_stills (s : State) (p : Nat) (l : Loc) : Stills s (closePos s p l) :=
  ⟨by rw [State.still, closePos_bell, closePos_fabric, closePos_hbm]; rfl, closePos_eventsStay ..⟩

theorem drawBytes_stills (s : State) (n : Nat) : Stills s (drawBytes s n).2 := .of_eq rfl rfl rfl

theorem scramble_stills (s : State) (p a n : Nat) : Stills s (scramble s p a n) := (drawBytes_stills ..).trans (closePos_stills ..)

theorem hbmWrite_stills (s : State) (off : Nat) (bs : List Byte) (bad : Bool) : Stills s (hbmWrite s off bs bad) := .of_eq rfl rfl rfl

theorem hostWrite_stills (s : State) (a : Nat) (bs : List Byte) (bad : List Nat) : Stills s (hostWrite s a bs bad) := .of_eq rfl rfl rfl

theorem scrambleAt_stills (s : State) (a n : Nat) : Stills s (scrambleAt s a n) := by
  unfold scrambleAt
  split
  · exact scramble_stills ..
  · exact (drawBytes_stills ..).trans (hbmWrite_stills ..)
  · exact (drawBytes_stills ..).trans (hostWrite_stills ..)
  · exact .of_eq rfl rfl rfl

theorem scrambleAccess_stills (s : State) (a : Access) : Stills s (scrambleAccess s a) := by
  unfold scrambleAccess
  split
  · exact scramble_stills ..
  · exact (drawBytes_stills ..).trans (hbmWrite_stills ..)
  · exact .of_eq rfl rfl rfl

theorem scrambleAnswer_stills (s : State) (a : Access) : Stills s (scrambleAnswer s a) := by
  unfold scrambleAnswer
  split
  · exact .of_eq rfl rfl rfl
  · split
    · exact scramble_stills ..
    · split
      · exact scramble_stills ..
      · exact .of_eq rfl rfl rfl
    · exact .of_eq rfl rfl rfl

theorem loseAccess_stills (s : State) (a : Access) : Stills s (loseAccess s a) := (scrambleAccess_stills ..).trans (scrambleAnswer_stills ..)

theorem losePos_stills (s : State) (p : Nat) : Stills s (losePos s p) := by
  unfold losePos
  extract_lets rs u
  have hu : Stills s u := closePos_stills ..
  clear_value u
  exact (hu.trans (.of_eq rfl rfl rfl)).trans (stills_foldl (fun s r => scramble_stills ..) _ _)

theorem loseXfer_stills (s : State) (x : Xfer) : Stills s
    (if x.get then scramble s x.pos x.local_ (64 * x.lines)
      else hostWrite (drawBytes s (64 * x.lines)).2 x.host (drawBytes s (64 * x.lines)).1 []) := by
  split
  · exact scramble_stills ..
  · exact (drawBytes_stills ..).trans (hostWrite_stills ..)

/-- No word issues while the bell generator is held. -/
theorem mayIssue_of_held (h : s.bell.held = true) (p k : Nat) : mayIssue s p k = false := by
  have hno : dispatches s p k = false := by
    unfold dispatches
    split
    · rfl
    · simp [h]
  rw [mayIssue, mayIssueOn]
  simp [hno]

/-- Nothing is under way in the fabric, at the HBM or at a port. -/
def emptied (s : State) : State :=
  { s with fabric := { s.fabric with net := [], replies := [] }, hbm := { s.hbm with waiting := [], granted := [] },
           ports := s.ports.map fun x => { x with items := [], wire := [], sent := [], tx := [] } }

theorem still_of_lost {u v : State} (h₁ : Stills s u) (h₂ : Stills (emptied u) v) : v.still = (s.bell, [], [], [], []) ∧ EventsStay s v := by
  have hbell : u.bell = s.bell := congrArg (·.1) h₁.1
  refine ⟨h₂.1.trans ?_, h₁.2.trans (EventsStay.trans (.of_eq rfl rfl) h₂.2)⟩
  rw [← hbell]
  rfl

/-- What a lost reference leaves: the bell generator held and nothing under way. -/
theorem execReferenceLost_holds {src : Nat} (hsrc : src < 5) : ∃ t, execReferenceLost src s = .next t ∧
    t.still = ({ s.bell with held := true }, [], [], [], []) ∧ ∃ e ∈ t.hif.due, e.code = 0xB07 := by
  have hraised := raiseDev_mem_due { s with bell := { s.bell with held := true } } (ev 0xB07 src 0)
  have hbell : (raiseDev { s with bell := { s.bell with held := true } } (ev 0xB07 src 0)).bell = { s.bell with held := true } := raiseDev_bell ..
  unfold execReferenceLost
  rw [if_pos hsrc]
  generalize List.range 624 = ps
  extract_lets _ s₁ lost moved s₂ _ _ s₃ s₄ s₅ _
  have h₂ : Stills s₁ s₂ := stills_foldl losePos_stills _ _
  have hbell₁ : s₁.bell = { s.bell with held := true } := hbell
  have hraised₁ : ∃ e ∈ s₁.hif.due, e.code = 0xB07 := hraised
  clear_value s₂ s₁
  have h₃ : Stills (emptied s₂) s₃ := stills_foldl loseAccess_stills _ _
  clear_value s₃
  have h₅ : Stills s₃ s₅ := (stills_foldl (fun s r => scrambleAt_stills ..) moved s₃).trans (stills_foldl loseXfer_stills _ _)
  clear_value s₅
  obtain ⟨hstill, hdue⟩ := still_of_lost h₂ (h₃.trans h₅)
  refine ⟨_, rfl, ?_, hdue.mem_due hraised₁⟩
  rw [← hbell₁]
  exact hstill

/-! Flipped bits -/

theorem getKey_flipKey (k bit : Nat) (l : List (Nat × Nat)) : (getKey k (flipKey k bit l)).getD 0 = (getKey k l).getD 0 ^^^ 2 ^ bit := by
  unfold flipKey
  dsimp only
  split
  · next hzero => rw [getKey_delKey, hzero]; rfl
  · rw [getKey_insKey]; rfl

end Sys2Proof.Machine
open Sys2Proof Sys2Proof.Machine

/-- Settles O58: `spindleFault_takes`, `execReferenceLost_holds` and `getKey_flipKey`. -/
theorem faultsComplete : Obligations.FaultsComplete := by
  refine ⟨?logic, ?stuck, ?reference, ?word, ?half, ?loft, ?line, ?twice⟩
  case logic =>
    intro s p k hp hlen hk hin
    exact ⟨_, onEngine_ok _ hp hk, spindleFault_takes _ hlen hin⟩
  case stuck =>
    intro s p k hp hlen hk hcan hin
    obtain ⟨u, hu⟩ := Option.isSome_iff_exists.mp hcan
    change ∃ t, execStuckEngine p k s = .next t ∧ _
    rw [execStuckEngine, onEngine_ok _ hp (.inl hk), hu]
    refine ⟨_, rfl, spindleFault_takes _ ?_ ?_⟩
    · rw [runPos, closePos_spindles, modAt_length]
      exact hlen
    · rw [runPos_spAt _ _ _ hlen]
      exact (congrArg (·.service.oos) (Loc.at_core (openPos s p) _) :).trans hin
  case reference =>
    intro s src hsrc
    obtain ⟨t, ht, hstill, hdue⟩ := execReferenceLost_holds (s := s) hsrc
    obtain ⟨hbell, hnet, hreplies, hwaiting, hgranted⟩ : _ ∧ _ ∧ _ ∧ _ ∧ _ := by simpa only [State.still, Prod.mk.injEq] using hstill
    have hheld : t.bell.held = true := by rw [hbell]
    exact ⟨t, ht, hbell, by rw [bellRuns, hheld]; simp, mayIssue_of_held hheld, hnet, hreplies, hwaiting, hgranted, hdue⟩
  case word =>
    intro s p w bit hp hlen hw hbit hclean
    change ∃ t, execMemoryBitError 0 p w bit s = .next t ∧ _
    rw [execMemoryBitError, if_pos ⟨hw, hbit⟩, onPos_lt _ _ _ hp]
    refine ⟨_, rfl, ?_⟩
    rw [runPos_spAt _ _ _ hlen]
    exact if_neg (by rw [openPos_sp, hclean]; exact Bool.false_ne_true)
  case half =>
    intro s p i bit hp hi hbit
    change execMemoryBitError 1 p i bit s = _
    rw [execMemoryBitError, if_pos ⟨hi, hbit⟩, onPos_lt _ _ _ hp]
  case loft =>
    intro s p i bit hp hi hbit
    change execMemoryBitError 2 p i bit s = _
    rw [execMemoryBitError, if_pos ⟨hi, hbit⟩, onPos_lt _ _ _ hp]
  case line =>
    intro s p line bit hline hbit hclean
    change execMemoryBitError 3 p line bit s = _
    rw [execMemoryBitError, if_pos ⟨hline, hbit⟩, if_neg (by rw [hclean]; exact Bool.false_ne_true)]
  case twice =>
    intro k bit l
    rw [getKey_flipKey, getKey_flipKey, Nat.xor_assoc, Nat.xor_self, Nat.xor_zero]
end

section
/-!
The lantern (O55): what a late flit, lost cycles and the checks of a sample leave of the supply.
-/
namespace Sys2Proof.Machine
variable {s t : State}

/-! A position's power -/

theorem pwAt_modPw_self {p : Nat} {f : PosPower → PosPower} (h : p < s.lantern.pos.length) : pwAt (modPw s p f) p = f (pwAt s p) :=
  modAt_getD_self _ _ _ _ h

theorem pwAt_of_lantern (h : t.lantern = s.lantern) (p : Nat) : pwAt t p = pwAt s p := by rw [pwAt, pwAt, h]

theorem spAt_modSp_self {p : Nat} {f : Spindle → Spindle} (h : p < s.spindles.length) : spAt (modSp s p f) p = f (spAt s p) :=
  modAt_getD_self _ _ _ _ h

theorem spAt_modSp_ne {p x : Nat} (f : Spindle → Spindle) (h : x ≠ p) : spAt (modSp s p f) x = spAt s x := modAt_getD_ne _ _ _ _ _ (Ne.symm h)

/-! Late flits and lost cycles -/

/-- A position but for its counters. -/
def Spindle.uncounted (sp : Spindle) : Spindle := { sp with ctr := Counters.reset }

/-- What late flits and the cycles that a position loses leave of the state. -/
def State.supply (s : State) : BellGen × Regs × Lantern × Keep × Power × List Spindle :=
  (s.bell, s.regs, s.lantern, s.keep, s.power, s.spindles.map Spindle.uncounted)

theorem enterLate_supply (s : State) (x : LateFlit) : (enterLate s x).supply = s.supply := by
  unfold enterLate
  split
  · rfl
  · dsimp only [State.supply, modSp]
    rw [map_modAt_of_eq (g := Spindle.uncounted) _ _ (by intro sp; rfl)]
    rfl

theorem settleLates_supply (n k : Nat) (s : State) : (settleLates n k s).supply = s.supply := by
  induction k generalizing s with
  | zero => rfl
  | succ k ih =>
    rw [settleLates]
    split
    · rw [ih, enterLate_supply]
      rfl
    · rfl

theorem stretchAt_supply (s : State) (y : Spell) : (stretchAt s y).supply = s.supply := by
  unfold stretchAt
  split
  · rfl
  · exact settleLates_supply ..

theorem spAt_uncounted (s : State) (p : Nat) : (spAt s p).uncounted = (s.spindles.map Spindle.uncounted).getD p Spindle.reset.uncounted := by
  rw [spAt, List.getD_eq_getElem?_getD, List.getD_eq_getElem?_getD, List.getElem?_map, Option.getD_map]

/-- Of a state whose supply is the same the positions are the same but for their counters. -/
theorem spAt_of_supply (h : t.supply = s.supply) (p : Nat) : (spAt t p).uncounted = (spAt s p).uncounted := by
  rw [spAt_uncounted, spAt_uncounted]
  exact congrArg (List.getD · p Spindle.reset.uncounted) (congrArg (·.2.2.2.2.2) h :)

theorem spindles_length_of_supply (h : t.supply = s.supply) : t.spindles.length = s.spindles.length := by
  have hmap : t.spindles.map Spindle.uncounted = s.spindles.map Spindle.uncounted := congrArg (·.2.2.2.2.2) h
  simpa only [List.length_map] using congrArg List.length hmap

/-- Positions that differ in their counters are one with the counters of either. -/
theorem withCtr_of_uncounted {x y : Spindle} (h : x.uncounted = y.uncounted) : { x with ctr := y.ctr } = y := by
  have := congrArg (fun z : Spindle => { z with ctr := y.ctr }) h
  exact this

theorem clock_of_uncounted {x y : Spindle} (h : x.uncounted = y.uncounted) : x.clock = y.clock := (congrArg Spindle.clock h :)

/-- What counting the lost cycles of position p leaves: of p the clock's stretch, of all else what is counted elsewhere. -/
structure Counted (p : Nat) (s t : State) : Prop where
  bell : t.bell = s.bell
  regs : t.regs = s.regs
  lantern : t.lantern = s.lantern
  keep : t.keep = s.keep
  power : t.power = s.power
  length : t.spindles.length = s.spindles.length
  others : ∀ x, x ≠ p → (spAt t x).uncounted = (spAt s x).uncounted

theorem counted_of_stretch {p : Nat} (f : Spindle → Spindle) (y : Spell) : Counted p s (stretchAt (modSp s p f) y) := by
  have h := stretchAt_supply (modSp s p f) y
  obtain ⟨hbell, hregs, hlantern, hkeep, hpower, -⟩ : _ ∧ _ ∧ _ ∧ _ ∧ _ ∧ _ := by simpa only [State.supply, Prod.mk.injEq] using h
  refine ⟨hbell, hregs, hlantern, hkeep, hpower, (spindles_length_of_supply h).trans (modAt_length ..), fun x hx => ?_⟩
  rw [spAt_of_supply h, spAt_modSp_ne f hx]

theorem clock_of_stretch {p : Nat} (f : Spindle → Spindle) (y : Spell) (hlen : p < s.spindles.length) :
    (spAt (stretchAt (modSp s p f) y) p).clock = (f (spAt s p)).clock := by
  rw [clock_of_uncounted (spAt_of_supply (stretchAt_supply (modSp s p f) y) p), spAt_modSp_self hlen]

theorem countLoss_counted (n : Nat) (s : State) (p : Nat) : Counted p s (countLoss n s p) := counted_of_stretch ..

theorem addLost_counted (s : State) (p n lost : Nat) : Counted p s (addLost s p n lost) := counted_of_stretch ..

theorem countLoss_clock (n : Nat) {p : Nat} (hlen : p < s.spindles.length) : ∃ lost224 upTo,
    (spAt (countLoss n s p) p).clock = { (spAt s p).clock with lost224 := lost224, countedTo := upTo } := ⟨_, _, clock_of_stretch _ _ hlen⟩

theorem addLost_clock {p : Nat} (n lost : Nat) (hlen : p < s.spindles.length) :
    (spAt (addLost s p n lost) p).clock = { (spAt s p).clock with lost := (spAt s p).clock.lost + lost, since := n } := clock_of_stretch _ _ hlen

theorem Counted.pwAt {p : Nat} (h : Counted p s t) (x : Nat) : pwAt t x = pwAt s x := pwAt_of_lantern h.lantern x

/-! What a switch of the oscillator leaves -/

theorem trySwitch_spindles (s : State) (p : Nat) : (trySwitch s p).spindles = s.spindles := by
  unfold trySwitch
  dsimp only
  split <;> rfl

/-- But for the ratio in force a switch leaves a position's power. -/
theorem pwAt_trySwitch {p : Nat} (h : p < s.lantern.pos.length) :
    ∃ r, pwAt (trySwitch s p) p = { pwAt s p with ratio := r } := by
  unfold trySwitch
  dsimp only
  split
  · exact ⟨_, pwAt_modPw_self h⟩
  · exact ⟨_, rfl⟩

/-! A position that goes dark -/

theorem spindleFault_lantern (s : State) (p cause stream : Nat) (e : Ev) : (spindleFault s p cause stream e).lantern = s.lantern := by
  unfold spindleFault
  split
  · exact raiseAt_lantern ..
  · extract_lets u v _ w
    have hw : w.lantern = s.lantern := by
      have hu : u.lantern = s.lantern := raiseAt_lantern ..
      dsimp only [w]
      split <;> exact hu
    clear_value w
    split
    · unfold abandonRepair
      rw [raiseJob_lantern]
      exact hw
    · exact hw

theorem pwAt_goDark {p cause : Nat} (hlen : p < s.lantern.pos.length) (hdark : (pwAt s p).dark = false) :
    (pwAt (goDark s p cause) p).dark = true ∧ (pwAt (goDark s p cause) p).cause = cause ∧
      (pwAt (goDark s p cause) p).sramFail = (pwAt s p).sramFail := by
  unfold goDark
  rw [if_neg (by rw [hdark]; exact Bool.false_ne_true)]
  dsimp only
  rw [pwAt_of_lantern (modSp_lantern ..), pwAt_of_lantern (spindleFault_lantern ..), pwAt_modPw_self hlen]
  exact ⟨rfl, rfl, rfl⟩

/-! The checks of a sample -/

/-- What a sample sets of the supply and the time. -/
def State.gauge (s : State) : Nat × Nat × Nat × Nat := (s.bell.refTime, s.lantern.vaon, s.lantern.sampleAt, s.lantern.eAon)

theorem foldl_gauge {α : Type} {f : State → α → State} (hf : ∀ s a, (f s a).gauge = s.gauge) (xs : List α) (s : State) :
    (xs.foldl f s).gauge = s.gauge := foldl_keeps State.gauge hf xs s

theorem gauge_of_parts (hbell : t.bell = s.bell) (hlantern : t.lantern = s.lantern) : t.gauge = s.gauge := by
  rw [State.gauge, hbell, hlantern]
  rfl

theorem raiseAt_gauge (s : State) (p : Nat) (e : Ev) : (raiseAt s p e).gauge = s.gauge := gauge_of_parts (raiseAt_bell ..) (raiseAt_lantern ..)

theorem raiseDev_gauge (s : State) (e : Ev) : (raiseDev s e).gauge = s.gauge := gauge_of_parts (raiseDev_bell ..) (raiseDev_lantern ..)

theorem countLoss_gauge (n : Nat) (s : State) (p : Nat) : (countLoss n s p).gauge = s.gauge :=
  gauge_of_parts (countLoss_counted n s p).bell (countLoss_counted n s p).lantern

theorem vinCheck_gauge (s : State) (i : Nat) : (vinCheck s i).gauge = s.gauge := by
  unfold vinCheck
  dsimp only
  split
  · exact (raiseDev_gauge ..).trans rfl
  · rfl

theorem countHits_gauge (s : State) (i : Nat) : (countHits s i).gauge = s.gauge := by
  unfold countHits
  dsimp only
  split <;> rfl

theorem onceEv_gauge (s : State) (key : Nat) (e : Ev) (p : Option Nat) : (onceEv s key e p).gauge = s.gauge := by
  unfold onceEv
  split
  · rfl
  · dsimp only
    split
    · exact (raiseAt_gauge ..).trans rfl
    · exact (raiseDev_gauge ..).trans rfl

theorem railCheck_gauge (row i : Nat) (h : List Nat) (s : State) : (railCheck row i h s).gauge = s.gauge := by
  unfold railCheck
  dsimp only
  split
  · exact onceEv_gauge ..
  · rfl

theorem updateLevel_gauge (vin : List (Option (Nat × Nat))) (vinCalm : List Bool) (pkg : Option (Nat × Nat)) (pkgCalm : Bool) (s : State) (p : Nat) :
    (updateLevel vin vinCalm pkg pkgCalm s p).gauge = s.gauge := by
  unfold updateLevel
  extract_lets w _ on mine _ _ lv s₁ s₂ s₃ e s₄ s₅
  clear_value on mine lv
  split
  · rfl
  split
  · rfl
  have h₃ : s₃.gauge = s.gauge := by
    dsimp only [s₃, s₂]
    split
    · split <;> rfl
    · rfl
  clear_value s₃
  have h₄ : s₄.gauge = s.gauge := by
    dsimp only [s₄]
    split
    · exact (onceEv_gauge ..).trans h₃
    · exact h₃
  have h₅ : s₅.gauge = s.gauge := by
    dsimp only [s₅]
    split
    · exact (onceEv_gauge ..).trans h₄
    · exact h₄
  split
  · exact (onceEv_gauge ..).trans h₅
  · exact h₅

theorem raiseSite_gauge (s : State) (n : Nat) (e : Ev) : (raiseSite s n e).gauge = s.gauge := by
  unfold raiseSite
  split
  · exact raiseAt_gauge ..
  · exact raiseDev_gauge ..

theorem excludeSensor_gauge (s : State) (n e : Nat) : (excludeSensor s n e).gauge = s.gauge := by
  unfold excludeSensor
  split
  · rfl
  · dsimp only
    split
    · exact (raiseSite_gauge ..).trans (raiseSite_gauge ..)
    · exact raiseSite_gauge ..

theorem abandonXfer_gauge (s : State) (x : Xfer) : (abandonXfer s x).gauge = s.gauge := by
  unfold abandonXfer
  dsimp only
  split
  · exact gauge_of_parts ((closePos_bell ..).trans rfl) ((closePos_lantern ..).trans rfl)
  · rfl

theorem powerOff_gauge (s : State) : (powerOff s).gauge = s.gauge := foldl_gauge abandonXfer_gauge s.hif.xfers s

theorem trip_gauge (s : State) (cause site reading : Nat) : (trip s cause site reading).gauge = s.gauge := by
  unfold trip
  split
  · rfl
  · exact powerOff_gauge s

theorem sampleSite_gauge (s : State) (n a b : Nat) : (sampleSite s n a b).gauge = s.gauge := by
  unfold sampleSite
  extract_lets s₁ s₂ s₃
  have h₂ : s₂.gauge = s.gauge := by
    dsimp only [s₂]
    split
    · exact (excludeSensor_gauge ..).trans rfl
    · rfl
  have h₃ : s₃.gauge = s.gauge := by
    dsimp only [s₃]
    split
    · exact (excludeSensor_gauge ..).trans h₂
    · exact h₂
  clear_value s₃
  split
  · exact h₃
  · split
    · exact (trip_gauge ..).trans h₃
    · split
      · split
        · exact h₃
        · exact (raiseSite_gauge ..).trans h₃
      · split
        · exact h₃
        · exact h₃

theorem powerOff_thermal (s : State) : (powerOff s).thermal = s.thermal := congrArg (·.2.2.1) (foldl_abandonXfer_beside s.hif.xfers s)

theorem countAllLoss_gauge (s : State) (n : Nat) : (countAllLoss s n).gauge = s.gauge := foldl_gauge (countLoss_gauge n) _ s

/-- What a sample does once its readings are stored: the counts of its spires, the levels, the rails and the sites. -/
def sampleChecks (x : Sample) (s : State) : State :=
  let vin := (List.range 4).map fun i => (vinQuantity s i).exceeds
  let vc := (List.range 4).map fun i => (vinQuantity s i).calm
  let s := (List.range 4).foldl (fun s i => countHits (vinCheck s i) i) s
  let s := (List.range 624).foldl (updateLevel vin vc (pkgQuantity s).exceeds (pkgQuantity s).calm) s
  let s := (List.range 4).foldl (fun s i =>
    let w := spireAt s i
    (List.range 5).foldl (fun s r => railCheck (4 + r) i (w.railHist.getD r []) s) (railCheck 2 i w.edgeHist s)) s
  let s := railCheck 9 0 (spireAt s 0).vaonHist s
  x.temps.foldl (fun s t => if t.1 < 632 then sampleSite s t.1 t.2.1 t.2.2 else s) s

theorem execLanternSample_on (x : Sample) (hon : s.power.off = false) :
    execLanternSample x s = .next (sampleChecks x (markReady (modLan (countAllLoss (timeTo s (sampleTime s)) (timeTo s (sampleTime s)).bell.refTime) fun l =>
      { storeSample x l with sampleAt := (countAllLoss (timeTo s (sampleTime s)) (timeTo s (sampleTime s)).bell.refTime).bell.refTime }))) := by
  rw [execLanternSample, if_neg (by rw [hon]; exact Bool.false_ne_true)]
  rfl

theorem sampleChecks_gauge (x : Sample) (s : State) : (sampleChecks x s).gauge = s.gauge := by
  unfold sampleChecks
  extract_lets vin vc s₁ s₂ s₃ s₄
  have h₁ : s₁.gauge = s.gauge := foldl_gauge (fun u i => (countHits_gauge ..).trans (vinCheck_gauge u i)) _ s
  clear_value s₁
  have h₂ : s₂.gauge = s₁.gauge := foldl_gauge (updateLevel_gauge vin vc _ _) _ s₁
  clear_value s₂
  have h₃ : s₃.gauge = s₂.gauge :=
    foldl_gauge (fun u i => (foldl_gauge (fun v r => railCheck_gauge _ i _ v) _ _).trans (railCheck_gauge 2 i _ u)) _ s₂
  clear_value s₃
  have h₄ : s₄.gauge = s₃.gauge := railCheck_gauge ..
  clear_value s₄
  calc _ = s₄.gauge := foldl_gauge (fun u t => by
          split
          · exact sampleSite_gauge ..
          · rfl) _ _
    _ = s.gauge := by rw [h₄, h₃, h₂, h₁]

theorem markReady_gauge (s : State) : (markReady s).gauge = s.gauge := rfl

/-- A sample sets its time, the voltage of the VAON rail and the energy that the rail has taken. -/
theorem stored_gauge (x : Sample) (s : State) (n : Nat) : (modLan s fun l => { storeSample x l with sampleAt := n }).gauge =
    (s.bell.refTime, x.vaon, n, s.lantern.eAon + x.vaon * 1800) := rfl

theorem timeTo_gauge (s : State) (n : Nat) (hrun : s.bell.held = false) :
    (timeTo s n).gauge = (max s.bell.refTime n, s.lantern.vaon, s.lantern.sampleAt, s.lantern.eAon) := by
  rw [timeTo, if_neg (by rw [hrun]; exact Bool.false_ne_true)]
  rfl

/-! What the time and a switch leave of the lantern -/

theorem timeTo_lantern (s : State) (n : Nat) : (timeTo s n).lantern = s.lantern := by
  unfold timeTo
  split <;> rfl

theorem timeTo_spindles (s : State) (n : Nat) : (timeTo s n).spindles = s.spindles := by
  unfold timeTo
  split <;> rfl

theorem timeTo_keep (s : State) (n : Nat) : (timeTo s n).keep = s.keep := by
  unfold timeTo
  split <;> rfl

theorem setpoint_of_parts (hlantern : t.lantern = s.lantern) (hkeep : t.keep = s.keep) (p n : Nat) : setpoint t p n = setpoint s p n := by
  rw [setpoint, setpoint, vf, vf, pwAt_of_lantern hlantern, hkeep]

theorem st_of_regs (hregs : t.regs = s.regs) {o : Nat} (h : inBlock o 0x2000 8 144 = false) : st t o = st s o := by
  rw [st, if_neg (by rw [h]; exact Bool.false_ne_true), st, if_neg (by rw [h]; exact Bool.false_ne_true), hregs]

theorem droopAt_of_parts (hlantern : t.lantern = s.lantern) (hregs : t.regs = s.regs) (p : Nat) : droopAt t p = droopAt s p := by
  rw [droopAt, droopAt, pwAt_of_lantern hlantern, stf, stf, st_of_regs hregs (by decide)]

theorem readsBelow_of_lantern (h : t.lantern = s.lantern) (p : Nat) (rs : List Nat) (mv : Nat) : readsBelow t p rs mv = readsBelow s p rs mv := by
  rw [readsBelow, readsBelow, lowest, lowest, pwAt_of_lantern h]

theorem switchOn_pwAt {p n : Nat} (h : p < s.lantern.pos.length) : (pwAt (switchOn s p n) p).wake = 0 ∧
    (pwAt (switchOn s p n) p).rampAt = n ∧ (pwAt (switchOn s p n) p).mv = setpoint s p (pwAt s p).goal := by
  have hc := countLoss_counted n s p
  have hlen : p < (countLoss n s p).lantern.pos.length := by rw [hc.lantern]; exact h
  obtain ⟨r, hr⟩ := pwAt_trySwitch (s := modPw (countLoss n s p) p fun w =>
    { w with wake := 0, step := 0, rampAt := n, mv := setpoint s p w.goal, target := setpoint s p w.goal }) (p := p) (by
      exact (modAt_length ..).symm ▸ hlen)
  rw [switchOn, hr, pwAt_modPw_self hlen, hc.pwAt]
  exact ⟨rfl, rfl, rfl⟩

theorem faultLive_eq (s : State) (code : Nat) : faultLive s code = faultEach (fun x => x = 1 ∨ x = 2) code (List.range 8) s := by
  unfold faultLive faultEach
  generalize List.range 8 = js
  rfl

theorem faultLive_hif (s : State) (code : Nat) : (faultLive s code).hif = s.hif := by
  rw [faultLive_eq]
  exact faultEach_hif ..

theorem faultLive_faults (code : Nat) {j : Nat} (hj : j < 8) (h : (jobOf s j).state = 2) : (jobOf (faultLive s code) j).fault.isSome = true := by
  rw [faultLive_eq]
  exact faultEach_faults _ code (List.mem_range.mpr hj) h (.inr rfl)

theorem measureAge_small {p ro0 ro1 : Nat} (ok : Bool) (h : p < s.lantern.pos.length)
    (hneed : needSteps (roTest s p) (ro0 % 2 ^ 16 + ro1 % 2 ^ 16) ≤ (pwAt s p).margin) :
    measureAge p ro0 ro1 ok s = modPw s p fun w => { w with ro0 := ro0 % 2 ^ 16, ro1 := ro1 % 2 ^ 16, agedAt := some s.bell.count } := by
  have hm : (pwAt (modPw s p fun w => { w with ro0 := ro0 % 2 ^ 16, ro1 := ro1 % 2 ^ 16, agedAt := some s.bell.count }) p).margin = (pwAt s p).margin := by
    rw [pwAt_modPw_self h]
  have hro : roTest (modPw s p fun w => { w with ro0 := ro0 % 2 ^ 16, ro1 := ro1 % 2 ^ 16, agedAt := some s.bell.count }) p = roTest s p := rfl
  unfold measureAge
  dsimp only
  rw [hm, hro, if_neg (by omega), if_neg (by omega)]

end Sys2Proof.Machine
open Sys2Proof Sys2Proof.Machine

/-- Settles O55: a clause per command; a sample's checks leave what it sets (`State.gauge`), counting lost cycles the supply (`Counted`). -/
theorem lanternCompletes : Obligations.LanternCompletes := by
  refine ⟨?sample, ?droop, ?recovered, ?setpoint, ?phase, ?converter, ?edge, ?edgeFifth, ?vin, ?background, ?ageing, ?rampStart, ?rampStep,
    ?rampHeld, ?idle, ?skip⟩
  case sample =>
    intro x s hon hrun
    have hg := (sampleChecks_gauge x _).trans ((markReady_gauge _).trans (stored_gauge x (countAllLoss (timeTo s (sampleTime s))
      (timeTo s (sampleTime s)).bell.refTime) (countAllLoss (timeTo s (sampleTime s)) (timeTo s (sampleTime s)).bell.refTime).bell.refTime))
    have hc := (countAllLoss_gauge (timeTo s (sampleTime s)) (timeTo s (sampleTime s)).bell.refTime).trans (timeTo_gauge s (sampleTime s) hrun)
    simp only [State.gauge, Prod.mk.injEq] at hg hc
    obtain ⟨href, -, -, heAon⟩ := hc
    obtain ⟨htime, hvaon, hat, henergy⟩ := hg
    exact ⟨_, execLanternSample_on x hon, hvaon, htime.trans href, hat.trans htime.symm, henergy.trans (by rw [heAon])⟩
  case droop =>
    intro s p rs hp hlen hbelow
    have hc := countLoss_counted (nowRc s p) s p
    obtain ⟨lost, upTo, hclock⟩ := countLoss_clock (nowRc s p) hlen
    change ∃ t, execDroopStretchStart p rs s = .next t ∧ _
    rw [execDroopStretchStart, onPw, onUnit_lt _ _ _ _ hp, if_pos hbelow]
    refine ⟨_, rfl, ?_, ?_, fun x hx => ?_⟩
    · rw [spAt_modSp_self (by rw [hc.length]; exact hlen)]
    · rw [spAt_modSp_self (by rw [hc.length]; exact hlen), hclock]
      dsimp only
      cases (spAt s p).clock.stretching <;> rfl
    · rw [spAt_modSp_ne _ hx]
      exact withCtr_of_uncounted (hc.others x hx)
  case recovered =>
    intro s p lost rs hp hlen hstretch hcalm
    change ∃ t, execDroopStretchEnd p rs lost s = .next t ∧ _
    rw [execDroopStretchEnd, onPw, onUnit_lt _ _ _ _ hp, if_pos hstretch]
    generalize stretchRc s p lost = u
    have hc := countLoss_counted u s p
    have ha := addLost_counted (countLoss u s p) p u lost
    obtain ⟨lost224, upTo, hclock⟩ := countLoss_clock u hlen
    have hclock' := addLost_clock (s := countLoss u s p) (p := p) u lost (by rw [hc.length]; exact hlen)
    dsimp only
    generalize addLost (countLoss u s p) p u lost = v at ha hclock' ⊢
    have hlantern : v.lantern = s.lantern := ha.lantern.trans hc.lantern
    have hregs : v.regs = s.regs := ha.regs.trans hc.regs
    have hv : p < v.spindles.length := by rw [ha.length, hc.length]; exact hlen
    have hstill : readsBelow v p rs (droopAt v p + stf v 0x10008 15 8) = false := by
      rw [readsBelow_of_lantern hlantern, droopAt_of_parts hlantern hregs, stf, st_of_regs hregs (by decide)]
      exact hcalm
    rw [if_neg (by rw [hstill]; exact Bool.false_ne_true)]
    refine ⟨_, rfl, ?_⟩
    rw [spAt_of_spindles (trySwitch_spindles ..) p, spAt_of_spindles (modPw_spindles ..) p, spAt_modSp_self hv]
    exact ⟨rfl, by rw [hclock', hclock]⟩
  case setpoint =>
    intro s p rs hp hlen hpos hgoal hon hcalm hbelow
    change ∃ t, execDvfsSetpointStep p rs s = .next t ∧ _
    rw [execDvfsSetpointStep, onPw, onUnit_lt _ _ _ _ hp]
    simp only [hon, hgoal, hcalm, hbelow, decide_false, Bool.or_self, Bool.false_eq_true, if_false]
    have hc := countLoss_counted ((pwAt s p).stepAt + 256) (timeTo s ((pwAt s p).stepAt + 256)) p
    have hlantern := hc.lantern.trans (timeTo_lantern ..)
    generalize countLoss _ _ p = v at hlantern
    obtain ⟨r, hr⟩ := pwAt_trySwitch (s := modPw v p fun w => { w with mv := towards w.mv w.target, stepAt := (pwAt s p).stepAt + 256 }) (p := p)
      ((modAt_length ..).symm ▸ hlantern ▸ hpos)
    refine ⟨_, rfl, ?_⟩
    rw [hr, pwAt_modPw_self (by rw [hlantern]; exact hpos), pwAt_of_lantern hlantern]
    exact ⟨rfl, rfl⟩
  case phase =>
    intro s p phase hphase hp hpos hnone hdark hedge
    change ∃ t, execPhaseFail p phase s = .next t ∧ _
    rw [execPhaseFail, if_pos hphase, onPw, onUnit_lt _ _ _ _ hp, if_neg (by rw [hnone]; exact Bool.false_ne_true)]
    have hmod : pwAt (modPw s p fun w => { w with phfail := insNat phase w.phfail }) p = { pwAt s p with phfail := [phase] } := by
      rw [pwAt_modPw_self hpos, hnone]
      rfl
    dsimp only
    rw [hmod, if_neg (by rw [hdark]; exact Bool.false_ne_true), if_neg (by rw [hedge]; exact Bool.false_ne_true),
      if_neg (by exact Nat.not_succ_le_self 1)]
    refine ⟨_, rfl, ?_⟩
    rw [pwAt_of_lantern (raiseAt_lantern ..), pwAt_modPw_self (by exact (modAt_length ..).symm ▸ hpos), hmod]
    exact ⟨rfl, rfl, hdark, raiseAt_mem_due ..⟩
  case converter =>
    intro s p hp hpos hdark
    change ∃ t, execVsramConverterFail p s = .next t ∧ _
    rw [execVsramConverterFail, onPw, onUnit_lt _ _ _ _ hp]
    have hmod := pwAt_modPw_self (s := s) (f := fun w => { w with sramFail := true }) hpos
    obtain ⟨hd, hcause, hfail⟩ := pwAt_goDark (s := modPw s p fun w => { w with sramFail := true }) (cause := 2)
      ((modAt_length ..).symm ▸ hpos) (by rw [hmod]; exact hdark)
    exact ⟨_, rfl, hd, hcause, hfail.trans (by rw [hmod])⟩
  case edge =>
    intro s i hi hn
    change execDieEdgePhaseFail i s = _
    rw [execDieEdgePhaseFail, onUnit_lt _ _ _ _ hi]
    dsimp only
    rw [if_neg (by omega), if_pos (by omega)]
  case edgeFifth =>
    intro s i hi hn
    change ∃ t, execDieEdgePhaseFail i s = .next t ∧ _
    rw [execDieEdgePhaseFail, onUnit_lt _ _ _ _ hi]
    dsimp only
    rw [if_neg (by omega), if_neg (by omega)]
    obtain ⟨e, hmem, hcode⟩ := raiseDev_mem_due (modSpire s i fun w => { w with edgeFail := (spireAt s i).edgeFail + 1 }) (ev 0x606 i 0)
    rw [← faultLive_hif _ 0x606] at hmem
    have hfault : ∀ j, j < 8 → (jobOf s j).state = 2 →
        (jobOf (faultLive (raiseDev (modSpire s i fun w => { w with edgeFail := (spireAt s i).edgeFail + 1 }) (ev 0x606 i 0)) 0x606) j).fault.isSome = true :=
      fun j hj hrun => faultLive_faults 0x606 hj (by rw [jobOf, raiseDev_jobs]; exact hrun)
    generalize faultLive _ 0x606 = u at hmem hfault ⊢
    exact ⟨_, rfl, rfl, ⟨e, hmem, hcode⟩, hfault⟩
  case vin =>
    intro s i hi hvaon
    change ∃ t, execVinWindowTrip i s = .next t ∧ _
    rw [execVinWindowTrip, onUnit_lt _ _ _ _ hi, if_neg (by rw [hvaon]; exact Bool.false_ne_true)]
    exact ⟨_, rfl, rfl, congrArg (insNat i ·.vinTrip) (powerOff_thermal s), rfl, rfl⟩
  case background =>
    intro s b hon
    change execBackgroundWindow b s = _
    rw [execBackgroundWindow, if_neg (by rw [hon]; exact Bool.false_ne_true)]
  case ageing =>
    intro s p ro0 ro1 c0 c1 corr ok hp hpos hc0 hc1 hfired hdark hdue hneed
    subst hc0 hc1
    change ∃ t, execAgeingMeasurement p ro0 ro1 corr s ok = .next t ∧ _
    rw [execAgeingMeasurement, onPw, onUnit_lt _ _ _ _ hp]
    dsimp only
    rw [if_pos (by
      rw [hfired, hdark]
      obtain hage | ⟨b, hage, hb⟩ := hdue <;> rw [hage]
      · rfl
      · dsimp only
        rw [decide_eq_true hb]
        rfl), measureAge_small ok hpos hneed]
    refine ⟨_, rfl, ?_⟩
    rw [pwAt_modPw_self hpos]
    exact ⟨rfl, rfl, rfl, rfl⟩
  case rampStart =>
    intro s p hp hpos hon hfew hfirst
    change ∃ t, execWakeRampStart p s = .next t ∧ _
    rw [execWakeRampStart, onPw, onUnit_lt _ _ _ _ hp]
    dsimp only
    rw [if_pos (by rw [hon, hfirst, decide_eq_true hfew]; simp)]
    exact ⟨_, rfl, pwAt_modPw_self hpos⟩
  case rampStep =>
    intro s p u rec rs hp hpos hwake hheld hon hu
    change ∃ t, execWakeRampStep p rec s rs = .next t ∧ _
    rw [execWakeRampStep, onPw, onUnit_lt _ _ _ _ hp]
    dsimp only
    rw [if_pos ⟨hon, hwake, hheld⟩, ← hu]
    have hlen : p < (timeTo s u).lantern.pos.length := by rw [timeTo_lantern]; exact hpos
    have hpw : pwAt (timeTo s u) p = pwAt s p := pwAt_of_lantern (timeTo_lantern ..) p
    refine ⟨_, rfl, fun hstep => ?_, fun hstep => ?_⟩
    · rw [if_neg hstep, pwAt_modPw_self hlen, hpw]
    · rw [if_pos hstep]
      obtain ⟨hw, hr, hmv⟩ := switchOn_pwAt (n := u) hlen
      exact ⟨hw, hr, by rw [hmv, setpoint_of_parts (timeTo_lantern ..) (timeTo_keep ..), hpw]⟩
  case rampHeld =>
    intro s p rec rs hp hheld
    change execWakeRampStep p rec s rs = _
    rw [execWakeRampStep, onPw, onUnit_lt _ _ _ _ hp]
    dsimp only
    rw [if_neg (fun h => Bool.false_ne_true (h.2.2.symm.trans hheld))]
  case idle =>
    intro s p hp hpos hn hidle hjob hdark hwake hrefill
    change ∃ t, execIdlePowerGate p s = .next t ∧ _
    rw [execIdlePowerGate, onPw, onUnit_lt _ _ _ _ hp]
    dsimp only
    rw [if_pos (by rw [hjob, hdark, hwake, hrefill]; simp [hn, hidle])]
    exact ⟨_, rfl, pwAt_modPw_self hpos⟩
  case skip =>
    intro s p hp hlen hskip
    refine ⟨_, onPos_lt _ _ _ hp, (runPos_spAt s p _ hlen).trans ?_⟩
    have hopen : (openPos s p).sp.skipping = 1 := hskip
    rw [if_pos hopen]
    rfl
end

section
/-!
Semaphores (O12, O13): an addition serves the waits on its semaphore and no other; whatever the words of the half take in between, the events
that have come stay and the SSIGs that are pending stay pending.
-/
namespace Sys2Proof.Machine
section
variable {gs : List Sig} {c : Nat}

/-! What a position has to tell -/

/-- The SSIGs that are pending are these, and an event with this code has come. -/
def Loc.Tells (gs : List Sig) (c : Nat) (l : Loc) : Prop := l.sp.sigs = gs ∧ c ∈ l.evs.map (·.code)

theorem Loc.tells_of {l l' : Loc} (hl : l.Tells gs c) (hsigs : l'.sp.sigs = l.sp.sigs) (hevs : ∀ x ∈ l.evs.map (·.code), x ∈ l'.evs.map (·.code)) :
    l'.Tells gs c := ⟨hsigs.trans hl.1, hevs c hl.2⟩

@[simp] theorem Loc.flag_tells (l : Loc) : l.flag.Tells gs c ↔ l.Tells gs c := Iff.rfl
@[simp] theorem Loc.count_tells (l : Loc) (f : Counters → Counters) : (l.count f).Tells gs c ↔ l.Tells gs c := Iff.rfl
@[simp] theorem Loc.strm_tells (l : Loc) (k : Nat) (f : Stream → Stream) : (l.strm k f).Tells gs c ↔ l.Tells gs c := Iff.rfl
@[simp] theorem Loc.half_tells (l : Loc) (h : Nat) (f : Half → Half) : (l.half h f).Tells gs c ↔ l.Tells gs c := Iff.rfl
@[simp] theorem Loc.fport_tells (l : Loc) (q : Nat) (f : FeedPort → FeedPort) : (l.fport q f).Tells gs c ↔ l.Tells gs c := Iff.rfl
@[simp] theorem Loc.kill_tells (l : Loc) (k : Nat) : (l.kill k).Tells gs c ↔ l.Tells gs c := Iff.rfl
@[simp] theorem Loc.acquire_tells (l : Loc) (s : State) (p scope : Nat) : (l.acquire s p scope).Tells gs c ↔ l.Tells gs c := Iff.rfl
@[simp] theorem Loc.push_tells (l : Loc) (e : Pend) : (l.push e).Tells gs c ↔ l.Tells gs c := Iff.rfl
@[simp] theorem Loc.setSem_tells (l : Loc) (n v : Nat) : (l.setSem n v).Tells gs c ↔ l.Tells gs c := Iff.rfl
@[simp] theorem Loc.dropCheck_tells (l : Loc) (h t : Nat) : (l.dropCheck h t).Tells gs c ↔ l.Tells gs c := Iff.rfl
@[simp] theorem Loc.occupied_tells (l : Loc) (t e : Nat) : (l.mod (·.occupied t e)).Tells gs c ↔ l.Tells gs c := Iff.rfl
@[simp] theorem Loc.bubbles_tells (l : Loc) (n : Nat) : (l.bubbles n).Tells gs c ↔ l.Tells gs c := Iff.rfl
@[simp] theorem Loc.popWords_tells (l : Loc) (q n t : Nat) : (l.popWords q n t).Tells gs c ↔ l.Tells gs c := Iff.rfl
@[simp] theorem Loc.strmEnd_tells (l : Loc) (h t e x bank : Nat) : (l.strmEnd h t e x bank).Tells gs c ↔ l.Tells gs c := Iff.rfl

@[simp] theorem Loc.flagWhere_tells {b : Prop} [Decidable b] (l : Loc) : (if b then l.flag else l).Tells gs c ↔ l.Tells gs c := by
  split <;> rfl

theorem foldl_tells {α : Type} {f : Loc → α → Loc} (hf : ∀ l a, l.Tells gs c → (f l a).Tells gs c) (xs : List α) {l : Loc} (hl : l.Tells gs c) :
    (xs.foldl f l).Tells gs c :=
  List.foldlRecOn xs f hl fun l hl a _ => hf l a hl

@[simp] theorem Loc.raise_tells {l : Loc} (hl : l.Tells gs c) (e : Ev) : (l.raise e).Tells gs c :=
  Loc.tells_of hl rfl fun x hx => by
    rw [Loc.raise, List.map_append]
    exact List.mem_append_left _ hx

@[simp] theorem Loc.syncErr_tells {l : Loc} (hl : l.Tells gs c) (s : State) (p code kind stream woff obj seen count : Nat) :
    (l.syncErr s p code kind stream woff obj seen count).Tells gs c := by
  unfold Loc.syncErr
  extract_lets r
  clear_value r
  exact Loc.raise_tells (l := l.mod fun sp => { sp with syncErr := r }) hl _

theorem Loc.syncErr_code (l : Loc) (s : State) (p code kind stream woff obj seen count : Nat) :
    code ∈ (l.syncErr s p code kind stream woff obj seen count).evs.map (·.code) := by
  rw [Loc.syncErr, Loc.raise, List.map_append]
  exact List.mem_append_right _ (List.mem_singleton_self _)

theorem Loc.syncErr_streams (l : Loc) (s : State) (p code kind stream woff obj seen count : Nat) :
    (l.syncErr s p code kind stream woff obj seen count).sp.streams = l.sp.streams := by
  unfold Loc.syncErr
  extract_lets r
  clear_value r
  rfl

theorem Loc.syncErr_sems (l : Loc) (s : State) (p code kind stream woff obj seen count : Nat) :
    (l.syncErr s p code kind stream woff obj seen count).sp.sems = l.sp.sems := by
  unfold Loc.syncErr
  extract_lets r
  clear_value r
  rfl

/-! Reads, and writes that land -/

@[simp] theorem Loc.scrub_tells {l : Loc} (hl : l.Tells gs c) (a n : Nat) : (l.scrub a n).Tells gs c := by
  unfold Loc.scrub
  split
  · exact hl
  · refine foldl_tells (fun l e hl => ?_) _ hl
    dsimp only
    split
    · exact hl
    · refine Loc.raise_tells ?_ _
      exact hl

/-- Reads give their events their time: the codes are the same. -/
theorem timed_codes (evs : List Ev) (n t : Nat) :
    (evs.take n ++ (evs.drop n).map fun v : Ev => { v with at_ := some t }).map Ev.code = evs.map (·.code) := by
  rw [List.map_append, List.map_map]
  change (evs.take n).map (·.code) ++ (evs.drop n).map (·.code) = _
  rw [← List.map_append, List.take_append_drop]

@[simp] theorem Loc.copyRead_tells {l : Loc} (hl : l.Tells gs c) (t : Nat) : (l.copyRead t).Tells gs c := by
  unfold Loc.copyRead
  extract_lets mine n l₁ l₂ read
  have h₁ : l₁.Tells gs c := foldl_tells (fun l x hl => Loc.scrub_tells hl _ _) _ hl
  clear_value l₁
  refine Loc.tells_of h₁ rfl fun x hx => ?_
  change x ∈ (l₁.evs.take n ++ (l₁.evs.drop n).map fun v : Ev => { v with at_ := some t }).map Ev.code
  rw [timed_codes]
  exact hx

@[simp] theorem Loc.store_tells {l : Loc} (hl : l.Tells gs c) (a : Nat) (bs : List Byte) (pw : List Nat) : (l.store a bs pw).Tells gs c := by
  unfold Loc.store
  extract_lets n r part l₁ l₂
  have h₂ : l₂.Tells gs c := foldl_tells (fun l x hl => Loc.scrub_tells hl _ _) _ (l := l₁) hl
  clear_value l₂
  split
  · exact hl
  · exact h₂

@[simp] theorem Loc.landOne_tells {l : Loc} (hl : l.Tells gs c) (e : Pend) : (l.landOne e).Tells gs c := by
  unfold Loc.landOne
  extract_lets l₁ l₂ l₃ l₄
  have h₁ : l₁.Tells gs c := by
    dsimp only [l₁]
    split
    · exact Loc.copyRead_tells hl _
    · exact hl
  have h₂ : l₂.Tells gs c := Loc.store_tells h₁ _ _ _
  clear_value l₂
  have h₃ : l₃.Tells gs c := by
    dsimp only [l₃]
    split <;> exact h₂
  clear_value l₃
  have h₄ : l₄.Tells gs c := by
    dsimp only [l₄]
    split
    · exact Loc.raise_tells h₃ _
    · exact h₃
  exact h₄

@[simp] theorem Loc.landN_tells {l : Loc} (hl : l.Tells gs c) (n t : Nat) : (l.landN n t).Tells gs c := by
  induction n generalizing l with
  | zero => exact hl
  | succ n ih =>
    rw [Loc.landN]
    split
    · split
      · exact ih (Loc.landOne_tells (l := l.mod _) hl _)
      · exact hl
    · exact hl

@[simp] theorem Loc.at_tells {l : Loc} (hl : l.Tells gs c) (t : Nat) : (l.at_ t).Tells gs c :=
  Loc.landN_tells (l := l.tally (max l.sp.clock.lc t)) hl _ _

@[simp] theorem Loc.pop_tells {l : Loc} (hl : l.Tells gs c) (k t occ done : Nat) : (l.pop k t occ done).Tells gs c := Loc.at_tells hl t

/-! The words that a half takes -/

@[simp] theorem Loc.abortStrm_tells (l : Loc) (h t : Nat) : (l.abortStrm h t).Tells gs c ↔ l.Tells gs c := by
  unfold Loc.abortStrm
  dsimp only
  (repeat' split) <;> rfl

@[simp] theorem Loc.halfStop_tells (l : Loc) (h : Nat) : (l.halfStop h).Tells gs c ↔ l.Tells gs c := by
  unfold Loc.halfStop
  dsimp only
  split <;> rfl

@[simp] theorem Loc.whorlFault_tells {l : Loc} (hl : l.Tells gs c) (h : Nat) (e : Ev) : (l.whorlFault h e).Tells gs c :=
  Loc.raise_tells ((Loc.halfStop_tells l h).mpr hl) _

@[simp] theorem Loc.fillCheck_tells (l : Loc) (h : Nat) (sel : Option Nat) (a b : List (List B16)) (q : List (List F32)) (frozen : List (Nat × Nat))
    (x : Nat) : (l.fillCheck h sel a b q frozen x).Tells gs c ↔ l.Tells gs c := by
  unfold Loc.fillCheck
  split <;> rfl

@[simp] theorem loadStep_tells (s : State) (p h t : Nat) (o : WOp) {l : Loc} (hl : l.Tells gs c) : (loadStep s p h t o l).Tells gs c := by
  unfold loadStep
  dsimp only
  (repeat' split) <;> simp [hl]

@[simp] theorem rowStep_tells (s : State) (p h t : Nat) (o : WOp) {l : Loc} (hl : l.Tells gs c) : (rowStep s p h t o l).Tells gs c := by
  unfold rowStep
  dsimp only
  (repeat' split) <;> simp [hl]

@[simp] theorem earlyStep_tells (s : State) (p h : Nat) (o : WOp) (ts : List Nat) {l : Loc} (hl : l.Tells gs c) :
    (earlyStep s p h o ts l).Tells gs c := by
  unfold earlyStep
  extract_lets x fa pl ws t due l₁
  have h₁ : l₁.Tells gs c := foldl_tells (fun l u hl => (Loc.popWords_tells l (westPort h) 1 u).mpr hl) _ ((Loc.bubbles_tells l _).mpr hl)
  clear_value l₁
  split <;> simp [h₁]

@[simp] theorem tileStep_tells (s : State) (p h t : Nat) (o : WOp) {l : Loc} (hl : l.Tells gs c) : (tileStep s p h t o l).Tells gs c := by
  unfold tileStep
  extract_lets w fa fb k n as bs l₁ fst ta tb chk y cl mask acc chunk taken kref sel keep took tt sums tr
  have h₁ : l₁.Tells gs c := hl
  clear_value l₁
  dsimp only
  split
  · simp [h₁]
  · split
    · rwa [Loc.half_tells, Loc.flagWhere_tells]
    · split
      · rwa [Loc.half_tells, Loc.half_tells, Loc.flagWhere_tells]
      · rwa [Loc.fillCheck_tells, Loc.strmEnd_tells, Loc.half_tells, Loc.flagWhere_tells]

theorem pumpStep_tells {s : State} {p h lim : Nat} {l : Loc} (hl : l.Tells gs c) : ∀ l' ∈ pumpStep s p h lim l, l'.Tells gs c := by
  unfold pumpStep
  dsimp only
  (repeat' split) <;> simp [hl]

theorem drive_tells {step : Loc → Option Loc} (hstep : ∀ l, l.Tells gs c → ∀ l' ∈ step l, l'.Tells gs c) (n : Nat) {l : Loc} (hl : l.Tells gs c) :
    (drive step n l).Tells gs c := by
  induction n generalizing l with
  | zero => exact hl
  | succ n ih =>
    rw [drive]
    split
    · next l' hsome => exact ih (hstep l hl l' hsome)
    · exact hl

theorem pumped_tells (s : State) (p k t : Nat) {l : Loc} (hl : l.Tells gs c) : (pumped s p k t l).Tells gs c := by
  unfold pumped
  split
  · exact drive_tells (fun _ => pumpStep_tells) _ hl
  · exact hl

theorem pumpThen_tells (s : State) (p k t : Nat) {f : Loc → Loc} (hf : ∀ l, l.Tells gs c → (f l).Tells gs c) {l : Loc} (hl : l.Tells gs c) :
    (pumpThen s p k t f l).Tells gs c := by
  unfold pumpThen
  dsimp only
  split
  · exact pumped_tells s p k t hl
  · exact hf _ (pumped_tells s p k t hl)

/-! The waits -/

theorem satisfy_tells (s : State) (p k t : Nat) (q : QEntry) {l : Loc} (hl : l.Tells gs c) : (satisfy s p k t q l).Tells gs c := by
  unfold satisfy
  dsimp only
  rw [Loc.acquire_tells]
  refine Loc.pop_tells ?_ _ _ _ _
  split <;> exact hl

theorem swaitAct_tells (s : State) (p k t : Nat) (q : QEntry) {l : Loc} (hl : l.Tells gs c) : (swaitAct s p k t q l).Tells gs c := by
  unfold swaitAct
  dsimp only
  split
  · exact satisfy_tells s p k t q hl
  · split
    · exact Loc.syncErr_tells ((Loc.kill_tells _ _).mpr (Loc.pop_tells hl _ _ _ _)) ..
    · exact Loc.at_tells (l := l.strm k _) hl t

theorem serveOne_tells (s : State) (p n t k : Nat) {l : Loc} (hl : l.Tells gs c) : (serveOne s p n t k l).Tells gs c := by
  unfold serveOne
  split
  · next q _ =>
    refine pumpThen_tells s p k t (fun l hl => ?_) hl
    split
    · exact hl
    · exact swaitAct_tells s p k t q hl
  · exact hl

theorem serveWaits_tells (s : State) (p n t : Nat) {l : Loc} (hl : l.Tells gs c) : (serveWaits s p n t l).Tells gs c :=
  foldl_tells (fun _ _ hl => serveOne_tells s p n t _ (serveOne_tells s p n t _ hl)) _ hl

/-- No stream's head word is an SWAIT on semaphore n. -/
def NoWaitOn (n : Nat) (sp : Spindle) : Prop :=
  ∀ k, k < 6 → ∀ q, (strmOf sp k).queue.head? = some q → semF q.word = n → isCls 4 q.word = false

theorem serveOne_of_noWait {s : State} {p n t k : Nat} {l : Loc} (hk : k < 6) (h : NoWaitOn n l.sp) : serveOne s p n t k l = l := by
  have hnone : standsAt s p k n t l = none := by
    unfold standsAt
    split
    · next q es hq =>
      refine if_neg fun hand => ?_
      simp only [Bool.and_eq_true, beq_iff_eq] at hand
      obtain ⟨⟨⟨hcls, hsem⟩, -⟩, -⟩ := hand
      exact Bool.false_ne_true ((h k hk q (by rw [hq]; rfl) hsem).symm.trans hcls)
    · rfl
  rw [serveOne, hnone]

/-- Where no SWAIT is at issue there is no wait to serve. -/
theorem serveWaits_of_noWait {s : State} {p n t : Nat} {l : Loc} (h : NoWaitOn n l.sp) : serveWaits s p n t l = l :=
  List.foldlRecOn (motive := (· = l)) (List.range 6) _ rfl fun m hm k hk => by
    rw [hm, serveOne_of_noWait (List.mem_range.mp hk) h, serveOne_of_noWait (List.mem_range.mp hk) h]

end

/-! The act of an SSIG -/

/-- What is queued after a step of the clock and a change of the semaphores is what was. -/
theorem noWaitOn_of_streams {n : Nat} {a b : Spindle} (hs : a.streams = b.streams) (h : NoWaitOn n b) : NoWaitOn n a := by
  intro k hk q hq
  rw [strmOf, hs] at hq
  exact h k hk q hq

theorem noWaitOn_kill {n k : Nat} {l : Loc} (h : NoWaitOn n l.sp) : NoWaitOn n (l.kill k).sp := by
  intro i hi q hq
  rw [Loc.kill, strmOf_strm] at hq
  refine h i hi q ?_
  split at hq
  · exact hq
  · exact hq

/-- The position as an addition finds it. -/
theorem sigAdd_start (l : Loc) (rest : List Sig) (t : Nat) : ((l.mod fun sp => { sp with sigs := rest }).at_ t).sp.sems = l.sp.sems ∧
    ((l.mod fun sp => { sp with sigs := rest }).at_ t).sp.sigs = rest ∧ ((l.mod fun sp => { sp with sigs := rest }).at_ t).sp.streams = l.sp.streams :=
  ⟨Loc.at_sems .., Loc.at_sigs .., Loc.at_streams ..⟩

/-- With no SWAIT at issue an addition is all that its SSIG does. -/
theorem sigAdd_adds {s : State} {p : Nat} {g : Sig} {rest : List Sig} {l : Loc} (hfit : semOf l.sp g.sem + g.count ≤ 65535)
    (hno : NoWaitOn g.sem l.sp) :
    (sigAdd s p g rest l).sp.sems = modAt l.sp.sems g.sem (fun _ => semOf l.sp g.sem + g.count) ∧ (sigAdd s p g rest l).sp.sigs = rest := by
  obtain ⟨hsems, hsigs, hstreams⟩ := sigAdd_start l rest g.at_
  have hv : semOf ((l.mod fun sp => { sp with sigs := rest }).at_ g.at_).sp g.sem = semOf l.sp g.sem := by rw [semOf, hsems]; rfl
  unfold sigAdd
  dsimp only
  rw [hv, if_pos hfit]
  generalize (l.mod fun sp => { sp with sigs := rest }).at_ g.at_ = m at hsems hsigs hstreams
  have hno' : NoWaitOn g.sem (m.setSem g.sem (semOf l.sp g.sem + g.count)).sp := noWaitOn_of_streams hstreams hno
  rw [serveWaits_of_noWait hno', ite_self]
  exact ⟨congrArg (modAt · g.sem _) hsems, hsigs⟩

/-- An overflow leaves the SSIGs that pend and its event; with no SWAIT at issue also every semaphore. -/
theorem sigAdd_overflows {s : State} {p : Nat} {g : Sig} {rest : List Sig} {l : Loc} (hover : 65535 < semOf l.sp g.sem + g.count) :
    (sigAdd s p g rest l).Tells rest 0x201 ∧ (NoWaitOn g.sem l.sp → (sigAdd s p g rest l).sp.sems = l.sp.sems) := by
  obtain ⟨hsems, hsigs, hstreams⟩ := sigAdd_start l rest g.at_
  have hv : semOf ((l.mod fun sp => { sp with sigs := rest }).at_ g.at_).sp g.sem = semOf l.sp g.sem := by rw [semOf, hsems]; rfl
  unfold sigAdd
  dsimp only
  rw [hv, if_neg (Nat.not_le_of_lt hover)]
  generalize (l.mod fun sp => { sp with sigs := rest }).at_ g.at_ = m at hsems hsigs hstreams
  have htells : ((m.kill g.stream).syncErr s p 0x201 0 g.stream g.woff g.sem (semOf l.sp g.sem) g.count).Tells rest 0x201 :=
    ⟨hsigs, Loc.syncErr_code ..⟩
  constructor
  · split
    · exact htells
    · exact serveWaits_tells s p _ _ htells
  · intro hno
    have hno' : NoWaitOn g.sem ((m.kill g.stream).syncErr s p 0x201 0 g.stream g.woff g.sem (semOf l.sp g.sem) g.count).sp :=
      noWaitOn_of_streams (Loc.syncErr_streams ..) (noWaitOn_kill (noWaitOn_of_streams hstreams hno))
    rw [serveWaits_of_noWait hno', ite_self, Loc.syncErr_sems]
    exact hsems

/-- An event that is raised leaves its entry among those due. -/
theorem foldl_raiseAt_mem_due {p c : Nat} {es : List Ev} (h : c ∈ es.map (·.code)) (s : State) :
    ∃ x ∈ (es.foldl (fun t e => raiseAt t p e) s).hif.due, x.code = c := by
  induction es generalizing s with
  | nil => cases h
  | cons e es ih =>
    rw [List.foldl_cons]
    obtain rfl | hlater := List.mem_cons.mp (by simpa only [List.map_cons] using h)
    · exact (eventsStay_foldl (fun s e => raiseAt_eventsStay s p e) es _).mem_due (raiseAt_mem_due s p e)
    · exact ih hlater _

theorem closePos_mem_due {s : State} {p c : Nat} {l : Loc} (h : c ∈ l.evs.map (·.code)) : ∃ x ∈ (closePos s p l).hif.due, x.code = c :=
  foldl_raiseAt_mem_due h _

theorem execSsigAct_acts {s : State} {p : Nat} {g : Sig} {rest : List Sig} (hp : p < 624) (hlive : live s p = true)
    (hpluck : pluckMin (fun _ => true) (fun g => 8 * g.at_ + g.stream) (spAt s p).sigs = some (g, rest)) :
    execSsigAct p s = .next (runPos s p (sigAdd s p g rest)) := by
  rw [execSsigAct, onPos_lt _ _ _ hp, runPos, runPos]
  simp only [openPos_sp, hlive, hpluck, Bool.not_true, Bool.false_eq_true, if_false]

/-- A position with a pending SSIG is one that exists. -/
theorem exists_of_sig {s : State} {p : Nat} {g : Sig} {rest : List Sig}
    (hpluck : pluckMin (fun _ => true) (fun g => 8 * g.at_ + g.stream) (spAt s p).sigs = some (g, rest)) : p < s.spindles.length := by
  refine Decidable.byContradiction fun hlen => ?_
  rw [spAt_of_le (Nat.le_of_not_lt hlen)] at hpluck
  cases hpluck

section
variable {s : State} {p k t : Nat} {q : QEntry} {l : Loc}

/-- What a ready legal SWAIT of sc t does, where nothing of its sc comes first. -/
theorem execSwait_acts (h : Ready s p k q) (hop : isCls 4 q.word = true) (hbad : swaitBad q.word = false) (ht : t = issueAt (issuePos s p k) k)
    (hsig : ((issuePos s p k).sp.sigs.any fun g => g.sem == semF q.word && decide (g.at_ ≤ t)) = false)
    (hlower : lowerWait s p k (semF q.word) t (issuePos s p k) = false) (hl : l = pumped s p k t (issuePos s p k))
    (hdead : (strmOf l.sp k).dead = false) : execSwait p k s = .next (closePos s p (swaitAct s p k t q l)) := by
  subst hl ht
  rw [execSwait, issueW_ready h hop]
  simp only [hbad, hsig, hlower, pumpThen_alive hdead, Bool.or_self, Bool.false_eq_true, if_false, Option.map_some, Option.getD_some]

end

end Sys2Proof.Machine
open Sys2Proof Sys2Proof.Machine

/-- Settles O13: where no SWAIT is at issue the addition is all (`sigAdd_adds`). -/
theorem signalAddsItsCount : Obligations.SignalAddsItsCount := by
  intro s p g rest hp hlive hpluck hsem hfit hno
  obtain ⟨hsems, hsigs⟩ := sigAdd_adds (s := s) (p := p) (rest := rest) (l := openPos s p) hfit hno
  have hsp := runPos_spAt s p (sigAdd s p g rest) (exists_of_sig hpluck)
  refine ⟨_, execSsigAct_acts hp hlive hpluck, ?_, fun n hn => ?_, by rw [hsp, hsigs]⟩
  · rw [hsp, semOf, hsems, openPos_sp, modAt_getD_self _ _ _ _ hsem]
  · rw [hsp, semOf, hsems, openPos_sp, modAt_getD_ne _ _ _ _ _ (Ne.symm hn)]
    rfl

/-- Settles O12: a clause per case of Table 10.1; an overflow's event and the pending SSIGs outlast the waits that are served (`Loc.Tells`). -/
theorem semaphoresComplete : Obligations.SemaphoresComplete := by
  refine ⟨?satisfied, ?failed, ?waits, ?expires, ?issues, ?acts, ?overflows⟩
  case satisfied =>
    intro s p k t q l h hop hbad ht hsig hlower hl hdead hfits
    exact (execSwait_acts h hop hbad ht hsig hlower hl hdead).trans (by rw [swaitAct, if_pos hfits])
  case failed =>
    intro s p k t q l h hop hbad ht hsig hlower hl hdead hshort hmode
    refine (execSwait_acts h hop hbad ht hsig hlower hl hdead).trans ?_
    rw [swaitAct, if_neg (Nat.not_le_of_lt hshort), if_pos hmode]
  case waits =>
    intro s p k t q l h hop hbad ht hsig hlower hl hdead hshort hmode
    refine (execSwait_acts h hop hbad ht hsig hlower hl hdead).trans ?_
    rw [swaitAct, if_neg (Nat.not_le_of_lt hshort), if_neg hmode]
  case expires =>
    intro s p k t0 t q l hp hk hwait hq hop hruns ht hsig hl hdead
    subst hl ht
    have hnone : ((spAt s p).sigs.any fun g => g.sem == semF q.word && decide (g.at_ ≤ t0 + fld q.word 63 32)) = false := by
      rw [List.any_eq_false]
      intro g hg hand
      rw [Bool.and_eq_true, beq_iff_eq, decide_eq_true_eq] at hand
      exact Nat.not_lt_of_le hand.2 (hsig g hg hand.1)
    change execSwaitTimeout p k s = _
    rw [execSwaitTimeout, if_pos hk, onPos_lt _ _ _ hp, runPos]
    rw [openPos_sp, hwait, queue_of_head? hq]
    dsimp only
    rw [if_neg (by rw [hop, hruns, hnone]; exact Bool.false_ne_true), pumpThen_alive hdead]
  case issues =>
    intro s p k q l h hop hbad hl hdead hidle hfree
    subst hl
    change execSsig p k s = _
    rw [execSsig, issueW_ready h hop]
    simp only [hbad, hdead, hidle, hfree, Bool.and_self, Bool.false_eq_true, if_false, if_true, Option.map_some, Option.getD_some]
  case acts =>
    intro s p g rest hp hlive hpluck
    exact execSsigAct_acts hp hlive hpluck
  case overflows =>
    intro s p g rest hp hlive hpluck hover
    obtain ⟨⟨hsigs, hevent⟩, hsems⟩ := sigAdd_overflows (s := s) (p := p) (rest := rest) (l := openPos s p) hover
    have hsp := runPos_spAt s p (sigAdd s p g rest) (exists_of_sig hpluck)
    refine ⟨_, execSsigAct_acts hp hlive hpluck, by rw [hsp, hsigs], closePos_mem_due hevent, fun hno => ?_⟩
    rw [hsp, hsems hno, openPos_sp]

end

section
/-!
The order law of the hank (O37) without canonical memories: a POP that raises E-0x361 lands what is due, and in a memory whose addresses do not rise
a byte that a copy carries decides whether a later write of 0 reaches its own byte.
-/
namespace Sys2Proof.Machine

/-- Job 0 runs on logical spindle 0, which stands at position 0 with w at the head of stream C; f is what else is told of the spindle. -/
def runningC (w : KWord) (f : Spindle → Spindle) : State :=
  modSp { State.reset with
    bell := { BellGen.reset with fired := true }
    regs := { State.reset.regs with eff := [(0x32040, 1)] }
    jobs := { Job.reset with state := 2 } :: List.replicate 7 Job.reset
    power := { State.reset.power with step := 14, reset := false } } 0 fun sp =>
    f { sp with streams := modAt sp.streams 4 fun x => { x with en := true, len := 8, queue := [{ woff := 0, word := w, marker := none }] } }

/-- The bytes of a position that an instruction leaves as a copy of it stands. -/
theorem soonByte_of_closes {o : Out} {s t : State} {p a : Nat} {l : Loc} (ht : o = .next t) (ho : o = .next (closePos s p l)) (hp : p < s.spindles.length) :
    soonByte t p a = memGet l.sp.soon a := by
  rw [soonByte, Host.Outcome.next.inj (ht.symm.trans ho), closePos_spAt _ _ _ hp]

/-- A POP of one line with TAG 5 to 0x1000. -/
def popWord : KWord := BitVec.ofNat 128 (put 0x24 122 + put 1 120 + put 5 104 + put 0x1000 64 + put 9 32 + put 1 8)

def popEntry : QEntry := { woff := 0, word := popWord, marker := none }

/-- The newest entry of the region, with TAG 6. -/
def otherTag : HankEntry := { line := 0, tag := 6, lines := 1, seq := 0, popAt := none }

/-- A memory whose addresses do not rise; under way are the read of byte 30 for a copy to byte 20, that copy, and a write of 0 to byte 5. -/
def popState : State := runningC popWord fun sp =>
  { sp with
    hank := { sp.hank with record := { sp.hank.record with base := 0x4000, size := 0x400 }, region := [otherTag] }
    distaff := { sp.distaff with mem := [(20, 7#8), (5, 1#8), (30, 9#8)] }
    pend := [{ Pend.bytes 0 0 [] [] with fresh := true }, { Pend.bytes 9 20 [0#8] [] with src := some 30 }, Pend.bytes 10 5 [0#8] []] }

theorem ready_popState : Ready popState 0 4 popEntry := by
  unfold Ready
  decide +kernel

/-- Once all has landed byte 5 reads as 0 before the POP and as 1 after it. -/
theorem soonByte_popState : soonByte popState 0 5 = 0#8 := by decide +kernel

theorem soonByte_orderErr : memGet (((issuePos popState 0 4).orderErr (issueAt (issuePos popState 0 4) 4) popEntry (some otherTag)).sp.soon) 5 = 1#8 := by
  decide +kernel

end Sys2Proof.Machine
open Sys2Proof Sys2Proof.Machine

/-- Refutes O37: its premises do not ask for canonical memories. In `popState` the POP's TAG differs from the newest entry's; its sc of issue lets
the copy to byte 20 take a byte that is not 0, and then the write of 0 to byte 5, to which no copy goes, no longer finds its byte. -/
theorem not_hankIsLastInFirstOut : ¬ Obligations.HankIsLastInFirstOut := by
  unfold Obligations.HankIsLastInFirstOut
  intro h
  have hop : isOp 0x24 121 120 1 popWord = true := by decide +kernel
  have hlegal : chBad (spAt popState 0).hank.record popWord = false := by decide +kernel
  have htag : otherTag.tag ≠ chTag popWord := by decide +kernel
  obtain ⟨t, ht, -, hrejected⟩ := h popState 0 popEntry otherTag [] ready_popState hop hlegal (by decide +kernel) (by decide +kernel)
  obtain ⟨-, -, -, -, hbytes⟩ := hrejected (.inl htag)
  obtain ⟨-, -, -, -, hpop, -⟩ := hankCompletes
  have hexec := hpop popState 0 popEntry _ otherTag ready_popState hop rfl (by rw [issuePos_hank]; exact hlegal)
    (by rw [issuePos_hank]; decide +kernel) (.inl htag)
  have hsame := hbytes 5 (by unfold Uncopied; decide +kernel)
  rw [soonByte_of_closes ht hexec (exists_of_ready ready_popState).1, soonByte_orderErr, soonByte_popState] at hsame
  exact absurd hsame (by decide)

end

section
/-!
A GET within the own window (O28): its lines bring reads of their own. A copy under way of the sc in which the first lines are visible takes its bytes
again in their read, and a later line, read once that copy has landed, finds them.
-/
namespace Sys2Proof.Machine

/-! The copies that a read gives their bytes -/

/-- What the read of sc t leaves of a write under way in a position with memory m. -/
def reread (m : Mem) (gran : Pend → List Nat) (t : Nat) (x : Pend) : Pend :=
  if x.src.isSome && x.at_ == t + 9 then { x with data := memRead m (x.src.getD 0) x.data.length, poison := gran x } else x

theorem Loc.copyRead_pend (l : Loc) (t : Nat) : ∃ gran, (l.copyRead t).sp.pend = l.sp.pend.map (reread l.sp.distaff.mem gran t) := by
  unfold Loc.copyRead
  dsimp only
  generalize List.filter _ l.sp.pend = reads
  obtain ⟨errs, poison, ctr, evs, heq⟩ := foldl_scrub_eq (fun x : Pend => x.src.getD 0) (fun x => x.data.length) reads l
  rw [heq]
  exact ⟨_, rfl⟩

/-- A write that lands stores its bytes; one that marks a read gives the copies of that read theirs. -/
theorem Loc.landOne_pend (l : Loc) (e : Pend) :
    ∃ gran, (l.landOne e).sp.pend = if e.fresh then l.sp.pend.map (reread l.sp.distaff.mem gran e.at_) else l.sp.pend := by
  obtain ⟨gran, hread⟩ := l.copyRead_pend e.at_
  refine ⟨gran, ?_⟩
  have hrest : (l.landOne e).sp.pend = (if e.fresh then l.copyRead e.at_ else l).sp.pend := by
    unfold Loc.landOne
    dsimp only
    generalize (if e.fresh then l.copyRead e.at_ else l) = m
    have hstore := m.store_pend e.off e.data e.poison
    generalize m.store e.off e.data e.poison = n at hstore
    split <;> split <;> exact hstore
  rw [hrest]
  split
  · exact hread
  · rfl

theorem Loc.landOne_mem (l : Loc) (e : Pend) : (l.landOne e).sp.distaff.mem = memWrite l.sp.distaff.mem e.off e.data := by
  obtain ⟨errs, poison, ctr, evs, nf, n, g, -, heq⟩ := l.landOne_eq e
  rw [heq]
  rfl

section
variable {m : Mem} {gran : Pend → List Nat} {t : Nat} {x : Pend}

theorem reread_at : (reread m gran t x).at_ = x.at_ := by unfold reread; split <;> rfl
theorem reread_fresh : (reread m gran t x).fresh = x.fresh := by unfold reread; split <;> rfl
theorem reread_src : (reread m gran t x).src = x.src := by unfold reread; split <;> rfl
theorem reread_off : (reread m gran t x).off = x.off := by unfold reread; split <;> rfl
theorem reread_length : (reread m gran t x).data.length = x.data.length := by
  unfold reread
  split
  · exact memRead_length ..
  · rfl

theorem reread_misses {a : Nat} : (reread m gran t x).Misses a ↔ x.Misses a := by
  rw [Pend.Misses, reread_off, reread_length]
  rfl

/-- A copy of one byte has the byte of its source, or what it had. -/
theorem reread_data {y : Nat} (hsrc : x.src = some y) (hlen : x.data.length = 1) :
    (reread m gran t x).data = if x.at_ = t + 9 then [memGet m y] else x.data := by
  unfold reread
  simp only [hsrc, hlen, Option.isSome_some, Bool.true_and, beq_iff_eq, Option.getD_some]
  split <;> rfl

end

/-! A copy that a read under way awaits -/

/-- The frame that byte x reads as b and no write goes there. -/
def oneByte (x : Nat) (b : Byte) : ByteFrame := { live := True, soon := fun _ _ => False, now := fun a v => a = x ∧ v = b }

theorem oneByte_holds {x : Nat} {b : Byte} {m : Mem} {es : List Pend} :
    (oneByte x b).Holds m es ↔ Memory.wf m = true ∧ NoWriteTo x es ∧ memGet m x = b := by
  constructor
  · intro h
    obtain ⟨hwf, -, hnow⟩ := h trivial
    exact ⟨hwf, hnow x b ⟨rfl, rfl⟩⟩
  · rintro ⟨hwf, hnow⟩ -
    refine ⟨hwf, fun _ _ hf => hf.elim, ?_⟩
    rintro _ _ ⟨rfl, rfl⟩
    exact hnow

/-- The copy c of byte y, where b stands, to byte x is read in sc u and visible 9 sc later; what is listed before it is visible by then, and no other
write goes to x or y. -/
structure Awaits (x y u : Nat) (b : Byte) (m : Mem) (ms : List Pend) (c : Pend) (cs : List Pend) : Prop where
  wf : Memory.wf m = true
  source : memGet m y = b
  apart : x ≠ y
  time : c.at_ = u + 9
  off : c.off = x
  length : c.data.length = 1
  src : c.src = some y
  stale : c.fresh = false
  before : ∀ e ∈ ms, e.at_ ≤ u + 9
  others : ∀ e ∈ ms ++ cs, e.Misses x ∧ e.Misses y

/-- The copy has its byte, or the mark of its read is under way before it. -/
def Marked (u : Nat) (b : Byte) (ms : List Pend) (c : Pend) : Prop := c.data = [b] ∨ ∃ e ∈ ms, e.fresh = true ∧ e.at_ = u

/-- A write before the copy lands. -/
theorem Awaits.land {x y u : Nat} {b : Byte} {l : Loc} {e c : Pend} {ms cs : List Pend} (h : Awaits x y u b l.sp.distaff.mem (e :: ms) c cs)
    (hp : l.sp.pend = ms ++ c :: cs) (hm : Marked u b (e :: ms) c) :
    ∃ ms' c' cs', (l.landOne e).sp.pend = ms' ++ c' :: cs' ∧ ms'.length = ms.length ∧ Awaits x y u b (l.landOne e).sp.distaff.mem ms' c' cs' ∧
      Marked u b ms' c' := by
  obtain ⟨gran, hpend⟩ := l.landOne_pend e
  have hmem : memGet (l.landOne e).sp.distaff.mem y = b := by
    rw [l.landOne_mem, memGet_memWrite_outside h.wf _ _ _ (h.others e List.mem_cons_self).2, h.source]
  have hwf : Memory.wf (l.landOne e).sp.distaff.mem = true := by rw [l.landOne_mem]; exact Memory.wf_memWrite h.wf _ _
  have hothers : ∀ z ∈ ms ++ cs, z.Misses x ∧ z.Misses y := fun z hz => h.others z (List.mem_cons_of_mem e hz)
  rw [hpend, hp]
  split
  · next hfresh =>
    refine ⟨ms.map (reread _ gran e.at_), reread _ gran e.at_ c, cs.map (reread _ gran e.at_), by rw [List.map_append, List.map_cons], List.length_map ..,
      ⟨hwf, hmem, h.apart, reread_at.trans h.time, reread_off.trans h.off, reread_length.trans h.length, reread_src.trans h.src,
        reread_fresh.trans h.stale, ?_, ?_⟩, ?_⟩
    · intro z hz
      obtain ⟨w, hw, rfl⟩ := List.mem_map.mp hz
      rw [reread_at]
      exact h.before w (List.mem_cons_of_mem e hw)
    · intro z hz
      rw [← List.map_append] at hz
      obtain ⟨w, hw, rfl⟩ := List.mem_map.mp hz
      exact ⟨reread_misses.mpr (hothers w hw).1, reread_misses.mpr (hothers w hw).2⟩
    · rw [Marked, reread_data h.src h.length, h.time, h.source]
      by_cases hu : e.at_ = u
      · exact .inl (if_pos (by rw [hu]))
      · rw [if_neg (by omega)]
        refine hm.imp id ?_
        rintro ⟨z, hz, hzf, hzu⟩
        obtain rfl | hz := List.mem_cons.mp hz
        · exact absurd hzu hu
        · exact ⟨_, List.mem_map_of_mem hz, reread_fresh.trans hzf, reread_at.trans hzu⟩
  · next hstale =>
    refine ⟨ms, c, cs, rfl, rfl, ⟨hwf, hmem, h.apart, h.time, h.off, h.length, h.src, h.stale, fun z hz => h.before z (List.mem_cons_of_mem e hz),
      hothers⟩, hm.imp id ?_⟩
    rintro ⟨z, hz, hzf, hzu⟩
    obtain rfl | hz := List.mem_cons.mp hz
    · exact absurd hzf hstale
    · exact ⟨z, hz, hzf, hzu⟩

/-- Once the copy has landed the byte stands in its place. -/
theorem Awaits.landN {x y u n : Nat} {b : Byte} {l : Loc} {c : Pend} {ms cs : List Pend} (h : Awaits x y u b l.sp.distaff.mem ms c cs)
    (hp : l.sp.pend = ms ++ c :: cs) (hm : Marked u b ms c) (hn : ms.length < n) : memGet (l.landN n (u + 9)).sp.distaff.mem x = b := by
  induction n generalizing l c ms cs with
  | zero => cases hn
  | succ n ih =>
    rw [Loc.landN]
    cases ms with
    | cons e ms =>
      rw [hp, List.cons_append]
      dsimp only
      rw [if_pos (h.before e List.mem_cons_self)]
      obtain ⟨ms', c', cs', hp', hlen, h', hm'⟩ := Awaits.land (l := l.mod fun p => { p with pend := ms ++ c :: cs }) h rfl hm
      exact ih h' hp' hm' (by rw [hlen]; exact Nat.lt_of_succ_lt_succ hn)
    | nil =>
      rw [hp, List.nil_append]
      dsimp only
      rw [if_pos (Nat.le_of_eq h.time)]
      have hdata : c.data = [b] := hm.resolve_right (by simp)
      obtain ⟨gran, hpend⟩ := Loc.landOne_pend (l.mod fun p => { p with pend := cs }) c
      rw [if_neg (by rw [h.stale]; exact Bool.false_ne_true)] at hpend
      have hframe : ((l.mod fun p => { p with pend := cs }).landOne c).Keeps (oneByte x b) := by
        rw [Loc.Keeps, Spindle.Keeps, hpend, Loc.landOne_mem]
        refine oneByte_holds.mpr ⟨Memory.wf_memWrite h.wf _ _, fun e he => (h.others e he).1, ?_⟩
        refine (memGet_memWrite h.wf ..).trans ?_
        rw [if_pos (by rw [h.off, h.length]; omega), hdata, h.off, Nat.sub_self]
        rfl
      exact (oneByte_holds.mp (Loc.landN_keeps hframe n (u + 9))).2.2

theorem Awaits.landed {x y u : Nat} {b : Byte} {l : Loc} {c : Pend} {ms cs : List Pend} (h : Awaits x y u b l.sp.distaff.mem ms c cs)
    (hp : l.sp.pend = ms ++ c :: cs) (hm : Marked u b ms c) : memGet (l.land (u + 9)).sp.distaff.mem x = b :=
  h.landN hp hm (by rw [hp, List.length_append, List.length_cons]; omega)

/-! What a line that is copied brings -/

/-- A write goes before the copy, then it is visible by its sc; or behind it, then it is not visible before. -/
theorem insPend_split {n : Nat} (e c : Pend) (ms cs : List Pend) (hc : c.at_ = n) (hms : ∀ z ∈ ms, z.at_ ≤ n) :
    ∃ ms' cs', insPend e (ms ++ c :: cs) = ms' ++ c :: cs' ∧ (∀ z ∈ ms, z ∈ ms') ∧ (∀ z ∈ ms' ++ cs', z = e ∨ z ∈ ms ++ cs) ∧ (∀ z ∈ ms', z.at_ ≤ n) ∧
      (e.at_ < n → e ∈ ms') := by
  induction ms with
  | nil =>
    rw [List.nil_append, insPend]
    split
    · next h =>
      refine ⟨[e], cs, rfl, by simp, by simp, ?_, by simp⟩
      intro z hz
      rw [List.mem_singleton.mp hz]
      simp only [Bool.or_eq_true, Bool.and_eq_true, decide_eq_true_eq, beq_iff_eq] at h
      omega
    · next h =>
      refine ⟨[], insPend e cs, rfl, by simp, fun z hz => ?_, by simp, fun hlt => ?_⟩
      · exact mem_insPend.mp hz
      · exact absurd (by rw [hc]; simp [hlt]) h
  | cons m ms ih =>
    rw [List.cons_append, insPend]
    split
    · next h =>
      refine ⟨e :: m :: ms, cs, rfl, fun z hz => List.mem_cons_of_mem e hz, fun z hz => List.mem_cons.mp hz, ?_, fun _ => List.mem_cons_self⟩
      intro z hz
      obtain rfl | hz := List.mem_cons.mp hz
      · have hm := hms m List.mem_cons_self
        simp only [Bool.or_eq_true, Bool.and_eq_true, decide_eq_true_eq, beq_iff_eq] at h
        omega
      · exact hms z hz
    · obtain ⟨ms', cs', heq, hsub, hall, hat, hin⟩ := ih fun z hz => hms z (List.mem_cons_of_mem m hz)
      refine ⟨m :: ms', cs', by rw [heq, List.cons_append], fun z hz => ?_, fun z hz => ?_, fun z hz => ?_, fun h => List.mem_cons_of_mem m (hin h)⟩
      · exact (List.mem_cons.mp hz).elim (fun h => h ▸ List.mem_cons_self) fun h => List.mem_cons_of_mem m (hsub z h)
      · obtain rfl | hz := List.mem_cons.mp hz
        · exact .inr List.mem_cons_self
        · exact (hall z hz).imp id (List.mem_cons_of_mem m)
      · exact (List.mem_cons.mp hz).elim (fun h => h ▸ hms m List.mem_cons_self) (hat z)

section
variable {x y u : Nat} {b : Byte} {m : Mem} {ms cs : List Pend} {c : Pend}

/-- A write to other bytes is put under way. -/
theorem Awaits.insPend (h : Awaits x y u b m ms c cs) {e : Pend} (hx : e.Misses x) (hy : e.Misses y) :
    ∃ ms' cs', insPend e (ms ++ c :: cs) = ms' ++ c :: cs' ∧ Awaits x y u b m ms' c cs' ∧ (∀ z ∈ ms, z ∈ ms') ∧ (e.at_ < u + 9 → e ∈ ms') := by
  obtain ⟨ms', cs', heq, hsub, hall, hat, hin⟩ := insPend_split e c ms cs h.time h.before
  refine ⟨ms', cs', heq, ⟨h.wf, h.source, h.apart, h.time, h.off, h.length, h.src, h.stale, hat, fun z hz => ?_⟩, hsub, hin⟩
  obtain rfl | hz := hall z hz
  · exact ⟨hx, hy⟩
  · exact h.others z hz

/-- A line that is copied to other bytes brings its copy and the mark of its read. -/
theorem Awaits.copyLine {l : Loc} (h : Awaits x y u b l.sp.distaff.mem ms c cs) (hp : l.sp.pend = ms ++ c :: cs) {v src dst n : Nat}
    (hx : x < dst ∨ dst + n ≤ x) (hy : y < dst ∨ dst + n ≤ y) :
    ∃ ms' cs', (l.copyLine v src dst n).sp.pend = ms' ++ c :: cs' ∧ Awaits x y u b (l.copyLine v src dst n).sp.distaff.mem ms' c cs' ∧
      (∀ z ∈ ms, z ∈ ms') ∧ (v - 9 < u + 9 → ∃ z ∈ ms', z.fresh = true ∧ z.at_ = v - 9) := by
  obtain ⟨ms₁, cs₁, heq₁, h₁, hsub₁, -⟩ := h.insPend (e := { Pend.bytes v dst ((l.land (v - 9)).rd src n)
    (((l.land (v - 9)).granules src n).map fun g => dst + 4 * g) with src := some src })
    (by simpa [Pend.Misses, Loc.rd, memRead_length] using hx) (by simpa [Pend.Misses, Loc.rd, memRead_length] using hy)
  obtain ⟨ms₂, cs₂, heq₂, h₂, hsub₂, hin⟩ := h₁.insPend (e := { Pend.bytes (v - 9) 0 [] [] with fresh := true }) (.inr (Nat.zero_le x)) (.inr (Nat.zero_le y))
  refine ⟨ms₂, cs₂, ?_, h₂, fun z hz => hsub₂ z (hsub₁ z hz), fun hv => ⟨_, hin hv, rfl, rfl⟩⟩
  rw [← heq₂, ← heq₁, ← hp]
  rfl

/-- Lines that are copied to other bytes. -/
theorem Awaits.copyLines {l : Loc} (h : Awaits x y u b l.sp.distaff.mem ms c cs) (hp : l.sp.pend = ms ++ c :: cs) {vis src : Nat → Nat}
    {xs : List ((Nat × Nat) × Nat)} (hout : ∀ z ∈ xs, (x < z.1.1 ∨ z.1.1 + z.1.2 ≤ x) ∧ (y < z.1.1 ∨ z.1.1 + z.1.2 ≤ y)) :
    ∃ ms' cs', (xs.foldl (fun l z => l.copyLine (vis z.2) (src z.1.1) z.1.1 z.1.2) l).sp.pend = ms' ++ c :: cs' ∧
      Awaits x y u b (xs.foldl (fun l z => l.copyLine (vis z.2) (src z.1.1) z.1.1 z.1.2) l).sp.distaff.mem ms' c cs' ∧ (∀ z ∈ ms, z ∈ ms') ∧
      ∀ z ∈ xs, vis z.2 - 9 < u + 9 → ∃ e ∈ ms', e.fresh = true ∧ e.at_ = vis z.2 - 9 := by
  induction xs generalizing l ms cs with
  | nil => exact ⟨ms, cs, hp, h, fun _ hz => hz, by simp⟩
  | cons z zs ih =>
    obtain ⟨hx, hy⟩ := hout z List.mem_cons_self
    obtain ⟨ms₁, cs₁, hp₁, h₁, hsub₁, hmark₁⟩ := h.copyLine hp (v := vis z.2) (src := src z.1.1) hx hy
    obtain ⟨ms₂, cs₂, hp₂, h₂, hsub₂, hmark₂⟩ := ih h₁ hp₁ fun w hw => hout w (List.mem_cons_of_mem z hw)
    refine ⟨ms₂, cs₂, hp₂, h₂, fun w hw => hsub₂ w (hsub₁ w hw), fun w hw hv => ?_⟩
    obtain rfl | hw := List.mem_cons.mp hw
    · obtain ⟨e, he, hmark⟩ := hmark₁ hv
      exact ⟨e, hsub₂ e he, hmark⟩
    · exact hmark₂ w hw hv

end

/-- A byte of a line that is copied reads, once all has landed, as the line's read found it, where no other write goes to it. -/
theorem memGet_soon_copyLine {l : Loc} {v src dst n k : Nat} (hwf : Memory.wf l.sp.distaff.mem = true) (hno : NoWriteTo (dst + k) l.sp.pend)
    (hk : k < n) : memGet (l.copyLine v src dst n).sp.soon (dst + k) = memGet (l.land (v - 9)).sp.distaff.mem (src + k) := by
  have hlen : ((l.land (v - 9)).rd src n).length = n := memRead_length ..
  calc memGet (l.copyLine v src dst n).sp.soon (dst + k)
    _ = memGet (soonOf l.sp.distaff.mem (insPend { Pend.bytes v dst ((l.land (v - 9)).rd src n)
          (((l.land (v - 9)).granules src n).map fun g => dst + 4 * g) with src := some src } l.sp.pend)) (dst + k) :=
        memGet_soonOf_insPend (e := { Pend.bytes (v - 9) 0 [] [] with fresh := true }) hwf (.inr (Nat.zero_le _)) _
    _ = ((l.land (v - 9)).rd src n).getD k 0#8 := memGet_soonOf_insPend_self hwf hno (by rw [← hlen] at hk; exact hk)
    _ = memGet (l.land (v - 9)).sp.distaff.mem (src + k) := by
        rw [Loc.rd, List.getD_eq_getElem?_getD, memRead_getElem?, if_pos hk]
        rfl

/-! The state -/

/-- A GET of 73 lines from 0x1000 to 0x4000. -/
def getWord : KWord := BitVec.ofNat 128 (put 0x20 122 + put 0x4000 89 + put 4672 64 + put 0x1000 0)

def getEntry : QEntry := { woff := 0, word := getWord, marker := none }

/-- The copy of byte 30 to the first byte of the last source line; it carries 0 so far. -/
def byteCopy : Pend := { Pend.bytes 9 8704 [0#8] [] with src := some 30 }

/-- Byte 30 is 9, and its copy is under way without a mark of its read. -/
def getState : State := runningC getWord fun sp => { sp with distaff := { sp.distaff with mem := [(30, 9#8)] }, pend := [byteCopy] }

theorem ready_getState : Ready getState 0 4 getEntry := by
  unfold Ready
  decide +kernel

theorem memOk_getState : MemOk getState := by
  unfold MemOk
  decide +kernel

/-- The position once the GET has issued. -/
def getStart : Loc := (issuePos getState 0 4).pop 4 0 10 18

theorem getStart_mem : getStart.sp.distaff.mem = [(30, 9#8)] := by decide +kernel

theorem getStart_pend : getStart.sp.pend = [byteCopy] := by decide +kernel

/-- The copy of a line, with its destination, its length and its number. -/
def copyOf (l : Loc) (z : (Nat × Nat) × Nat) : Loc := l.copyLine (z.2 / 8 + 9) (0x1000 + (z.1.1 - 0x4000)) z.1.1 z.1.2

/-- All lines but the last. -/
def firstLines : List ((Nat × Nat) × Nat) := (List.range 72).map fun i => ((0x4000 + 64 * i, 64), i)

theorem mem_firstLines {z : (Nat × Nat) × Nat} (hz : z ∈ firstLines) : ∃ i, i < 72 ∧ z = ((0x4000 + 64 * i, 64), i) := by
  obtain ⟨i, hi, rfl⟩ := List.mem_map.mp hz
  exact ⟨i, List.mem_range.mp hi, rfl⟩

/-- The last line follows the others; the count of the tags is none of the bytes. -/
theorem foldl_copyOf (xs : List ((Nat × Nat) × Nat)) (l : Loc) (f : Carder → Carder) :
    (((xs.foldl (fun l z => l.copyLine (z.2 / 8 + 9) (0x1000 + (z.1.1 - 0x4000)) z.1.1 z.1.2) l).copyLine (72 / 8 + 9) (0x1000 + (20992 - 0x4000)) 20992
      64).card f).sp.soon = ((xs.foldl copyOf l).copyLine 18 8704 20992 64).sp.soon := rfl

theorem ownMove_getState : (ownMove getState 0 false getEntry (issuePos getState 0 4)).sp.soon =
    ((firstLines.foldl copyOf getStart).copyLine 18 8704 20992 64).sp.soon := by
  have hends : ownEnds getState 0 false getWord = (0x1000, 0x4000) := by decide +kernel
  have hocc : ownOcc getState 0 false getWord = 10 := by decide +kernel
  have hissue : issueAt (issuePos getState 0 4) 4 = 0 := by decide +kernel
  have hlen : cmLen getWord = 4672 := by decide +kernel
  have hvis : ownVis getState 0 false getWord 0 = fun i => i / 8 + 9 := by
    funext i
    rw [ownVis, ownStep, hends, hlen, show linesOf (0x1000, 0x4000).1 4672 = 73 by decide, show linesOf (0x1000, 0x4000).2 4672 = 73 by decide]
    simp
  have hlines : (segs 0x4000 4672).zipIdx = firstLines ++ [((20992, 64), 72)] := by decide +kernel
  unfold ownMove
  dsimp only [getEntry]
  rw [hends, hocc, hissue, hlen, hvis, Loc.copyLines, hlines, List.foldl_append, List.foldl_cons, List.foldl_nil]
  exact foldl_copyOf ..

/-- No write goes to the first byte of the last line's destination. -/
theorem firstLines_keep : (firstLines.foldl copyOf getStart).Keeps (oneByte 20992 0#8) := by
  refine List.foldlRecOn firstLines copyOf (motive := fun l => l.Keeps (oneByte 20992 0#8)) ?_ fun l hl z hz => ?_
  · rw [Loc.Keeps, Spindle.Keeps, getStart_mem, getStart_pend, oneByte_holds]
    refine ⟨rfl, fun e he => ?_, rfl⟩
    rw [List.mem_singleton.mp he]
    exact .inr (by decide)
  · obtain ⟨i, hi, rfl⟩ := mem_firstLines hz
    refine Loc.copyLine_keeps _ _ _ _ hl ?_
    rintro a b (hf | ⟨rfl, rfl⟩)
    · exact hf.elim
    · exact .inr (by dsimp only; omega)

/-- What lines that are copied find of a copy of the sc of the first line's read, once that copy has landed. -/
theorem land_copyOf {x y : Nat} {b : Byte} {l : Loc} {c : Pend} {xs : List ((Nat × Nat) × Nat)} (h : Awaits x y 0 b l.sp.distaff.mem [] c [])
    (hp : l.sp.pend = [c]) (hout : ∀ z ∈ xs, (x < z.1.1 ∨ z.1.1 + z.1.2 ≤ x) ∧ (y < z.1.1 ∨ z.1.1 + z.1.2 ≤ y)) (hfirst : ∃ z ∈ xs, z.2 = 0) :
    memGet ((xs.foldl copyOf l).land 9).sp.distaff.mem x = b := by
  obtain ⟨ms, cs, hp', h', -, hmark⟩ := h.copyLines (vis := fun i => i / 8 + 9) (src := fun a => 0x1000 + (a - 0x4000)) hp hout
  obtain ⟨z, hz, hzero⟩ := hfirst
  obtain ⟨e, he, hfresh, hat⟩ := hmark z hz (by rw [hzero]; decide)
  exact h'.landed hp' (.inr ⟨e, he, hfresh, hat.trans (by rw [hzero])⟩)

/-- The last line is read once the copy has landed, with the byte of its source. -/
theorem lastLine_read : memGet ((firstLines.foldl copyOf getStart).land 9).sp.distaff.mem 8704 = 9#8 := by
  have h : Awaits 8704 30 0 (9#8) getStart.sp.distaff.mem [] byteCopy [] := by
    rw [getStart_mem]
    exact ⟨rfl, rfl, by decide, rfl, rfl, rfl, rfl, rfl, by simp, by simp⟩
  refine land_copyOf h getStart_pend (fun z hz => ?_) ⟨((0x4000, 64), 0), by decide, rfl⟩
  obtain ⟨i, hi, rfl⟩ := mem_firstLines hz
  dsimp only
  omega

end Sys2Proof.Machine
open Sys2Proof Sys2Proof.Machine

/-- Refutes O28: its premises do not ask that a copy under way still has the mark of its read. In `getState` such a copy carries 0 and goes to the
last source line; the GET's first lines mark a read of the copy's sc, in which it takes 9, and the last line is read when the copy has landed. The
statement compares with the position without the GET, where the copy lands its 0. -/
theorem not_ownMoveCopies : ¬ Obligations.OwnMoveCopies := by
  unfold Obligations.OwnMoveCopies
  intro h
  have hop : isOp 0x20 121 120 0 getWord = true := by decide +kernel
  have hlegal : moveOk getWord = true := by decide +kernel
  have hrange : rangeEvent getState 0 (cmAddr getWord) (cmLen getWord) = none := by decide +kernel
  have hown : isOwn getState 0 (cmAddr getWord) = true := by decide +kernel
  have hclash : ownClash getState 0 false getWord = false := by decide +kernel
  obtain ⟨t, ht, -, -, -, hcopied⟩ := h getState 0 getEntry memOk_getState ready_getState hop hlegal hrange hown hclash (by decide +kernel)
  obtain ⟨hget, -⟩ := cmoveCompletes
  have hexec := hget getState 0 getEntry _ ready_getState hop rfl hlegal hrange hown hclash
  have hlast := hcopied 4608 (by decide +kernel)
  have hbase : memGet ((issuePos getState 0 4).land (ownVis getState 0 false getEntry.word (issueAt (issuePos getState 0 4) 4)
      ((cmLocal getEntry.word + 4608) / 64 - cmLocal getEntry.word / 64) - 9)).sp.distaff.mem (toLocal getState 0 (cmAddr getEntry.word) + 4608) = 0#8 := by
    decide +kernel
  have hplace : cmLocal getEntry.word + 4608 = 20992 + 0 := by decide +kernel
  obtain ⟨hwf, hno, -⟩ := oneByte_holds.mp firstLines_keep
  rw [hbase, hplace, soonByte_of_closes ht hexec (exists_of_ready ready_getState).1, ownMove_getState,
    memGet_soon_copyLine hwf hno (by decide), Nat.add_zero, show 18 - 9 = 9 from rfl, lastLine_read] at hlast
  exact absurd hlast (by decide)

end
